-- ==== Sys2Proof/Word.lean ====
section
/-! DEFINITION. The word types of the SOA (R3, R4, R139, R140). -/

namespace Sys2Proof

/-- A dword: the contents of a scalar register (R139). -/
abbrev Word := BitVec 64
/-- A byte of memory (R4). -/
abbrev Byte := BitVec 8
/-- One 32-bit instruction word (R73). -/
abbrev IWord := BitVec 32
/-- The number of a scalar register. -/
abbrev SReg := BitVec 5
/-- The number of a vector register. -/
abbrev VReg := BitVec 6
/-- The number of a mask register. -/
abbrev KReg := BitVec 3
/-- The contents of a vector register: 1 KiB (R232). -/
abbrev VBits := BitVec 8192
/-- A mask: bit e governs element e (R140). -/
abbrev MBits := BitVec 2048

/-- The word with the value 1 or 0. -/
def Word.ofBool (b : Bool) : Word := if b then 1 else 0

end Sys2Proof
end

