-- ==== Sys2Proof/Syntax.lean ====
section
/-! DEFINITION. The instructions and steps of the SOA: one constructor per row of spec/opcode_table.json, the rows
without an encoding (events of the device, register writes with a row of their own, engine calls) among them. -/

namespace Sys2Proof

/-- One constructor per row of the opcode table. Field names: d destination, a, b, c sources, k mask, v vector data;
Steps without an encoding carry no field: their operands stand in `State.ev` (the event that the agenda names). The rows
with fields stand first, for the compiler holds at most 244 constructors with fields. -/
inductive Instr where
  /-- ADD: Writes the 64-bit wrapping sum of sa and sb to sd (R200) -/
  | add (d a b : SReg)
  /-- SUB: Writes the 64-bit wrapping difference sa minus sb to sd (R200) -/
  | sub (d a b : SReg)
  /-- AND: Writes the bitwise AND of sa and sb to sd (R200) -/
  | and (d a b : SReg)
  /-- OR: Writes the bitwise OR of sa and sb to sd (R200) -/
  | or (d a b : SReg)
  /-- XOR: Writes the bitwise XOR of sa and sb to sd (R200) -/
  | xor (d a b : SReg)
  /-- ANDN: Writes sa AND NOT sb to sd (R200) -/
  | andn (d a b : SReg)
  /-- ORN: Writes sa OR NOT sb to sd (R200) -/
  | orn (d a b : SReg)
  /-- SLL: Shifts sa left by sb mod 64 into sd (R200) -/
  | sll (d a b : SReg)
  /-- SRL: Shifts sa right logically by sb mod 64 into sd (R200) -/
  | srl (d a b : SReg)
  /-- SRA: Shifts sa right arithmetically by sb mod 64 into sd (R200) -/
  | sra (d a b : SReg)
  /-- ROL: Rotates sa left by sb mod 64 into sd (R200) -/
  | rol (d a b : SReg)
  /-- ROR: Rotates sa right by sb mod 64 into sd (R200) -/
  | ror (d a b : SReg)
  /-- SLT: Writes 1 to sd if sa is less than sb as signed, else 0 (R200) -/
  | slt (d a b : SReg)
  /-- SLTU: Writes 1 to sd if sa is less than sb as unsigned, else 0 (R200) -/
  | sltu (d a b : SReg)
  /-- MIN: Writes the signed minimum of sa and sb to sd (R200) -/
  | min (d a b : SReg)
  /-- MAX: Writes the signed maximum of sa and sb to sd (R200) -/
  | max (d a b : SReg)
  /-- MINU: Writes the unsigned minimum of sa and sb to sd (R200) -/
  | minu (d a b : SReg)
  /-- MAXU: Writes the unsigned maximum of sa and sb to sd (R200) -/
  | maxu (d a b : SReg)
  /-- MUL: Writes the low 64 bits of sa times sb to sd (R200) -/
  | mul (d a b : SReg)
  /-- MULH: Writes the high 64 bits of the signed product to sd (R200) -/
  | mulh (d a b : SReg)
  /-- MULHU: Writes the high 64 bits of the unsigned product to sd (R200) -/
  | mulhu (d a b : SReg)
  /-- DIV: Writes the signed quotient per R46 to sd (R200) -/
  | div (d a b : SReg)
  /-- DIVU: Writes the unsigned quotient per R46 to sd (R200) -/
  | divu (d a b : SReg)
  /-- REM: Writes the signed remainder per R46 to sd (R200) -/
  | rem (d a b : SReg)
  /-- REMU: Writes the unsigned remainder per R46 to sd (R200) -/
  | remu (d a b : SReg)
  /-- CLZ: Writes the count of leading zero bits of sa to sd (R200) -/
  | clz (d a : SReg)
  /-- CTZ: Writes the count of trailing zero bits of sa to sd (R200) -/
  | ctz (d a : SReg)
  /-- POPC: Writes the count of one bits of sa to sd (R200) -/
  | popc (d a : SReg)
  /-- ADDW: Writes the sign-extended 32-bit sum to sd (R200) -/
  | addw (d a b : SReg)
  /-- SUBW: Writes the sign-extended 32-bit difference to sd (R200) -/
  | subw (d a b : SReg)
  /-- MULW: Writes the sign-extended low 32 bits of the 32-bit product to sd (R200) -/
  | mulw (d a b : SReg)
  /-- ADDI: Writes sa plus the sign-extended immediate to sd (R201) -/
  | addi (d a : SReg) (i : BitVec 14)
  /-- ANDI: Writes sa AND the sign-extended immediate to sd (R201) -/
  | andi (d a : SReg) (i : BitVec 14)
  /-- ORI: Writes sa OR the sign-extended immediate to sd (R201) -/
  | ori (d a : SReg) (i : BitVec 14)
  /-- XORI: Writes sa XOR the sign-extended immediate to sd (R201) -/
  | xori (d a : SReg) (i : BitVec 14)
  /-- SLTI: Writes 1 to sd if sa is less than the immediate as signed (R201) -/
  | slti (d a : SReg) (i : BitVec 14)
  /-- SLTIU: Writes 1 to sd if sa is less than the sign-extended immediate as unsigned (R201) -/
  | sltiu (d a : SReg) (i : BitVec 14)
  /-- SLLI: Shifts sa left by an immediate amount into sd (R202) -/
  | slli (d a : SReg) (n : BitVec 6)
  /-- SRLI: Shifts sa right logically by an immediate amount into sd (R202) -/
  | srli (d a : SReg) (n : BitVec 6)
  /-- SRAI: Shifts sa right arithmetically by an immediate amount into sd (R202) -/
  | srai (d a : SReg) (n : BitVec 6)
  /-- RORI: Rotates sa right by an immediate amount into sd (R202) -/
  | rori (d a : SReg) (n : BitVec 6)
  /-- LHI: Writes the sign-extended 19-bit immediate shifted left 14 to sd (R203) -/
  | lhi (d : SReg) (i : BitVec 19)
  /-- APC: Writes its own address plus the immediate shifted left 14 to sd (R203) -/
  | apc (d : SReg) (i : BitVec 19)
  /-- LB: Loads a sign-extended byte into sd (R205) -/
  | lb (d b : SReg) (i : BitVec 11)
  /-- LH: Loads a sign-extended half into sd (R205) -/
  | lh (d b : SReg) (i : BitVec 11)
  /-- LW: Loads a sign-extended word into sd (R205) -/
  | lw (d b : SReg) (i : BitVec 11)
  /-- LD: Loads a dword into sd (R205) -/
  | ld (d b : SReg) (i : BitVec 11)
  /-- LBU: Loads a zero-extended byte into sd (R205) -/
  | lbu (d b : SReg) (i : BitVec 11)
  /-- LHU: Loads a zero-extended half into sd (R205) -/
  | lhu (d b : SReg) (i : BitVec 11)
  /-- LWU: Loads a zero-extended word into sd (R205) -/
  | lwu (d b : SReg) (i : BitVec 11)
  /-- LDSYNC: Waits until the scratch granule's full bit is set, then loads a dword as a cluster-scope acquire (R206) -/
  | ldsync (d b : SReg) (i : BitVec 11)
  /-- SB: Stores the low byte of ss (R205) -/
  | sb (s b : SReg) (i : BitVec 11)
  /-- SH: Stores the low half of ss (R205) -/
  | sh (s b : SReg) (i : BitVec 11)
  /-- SW: Stores the low word of ss (R205) -/
  | sw (s b : SReg) (i : BitVec 11)
  /-- SD: Stores the dword ss (R205) -/
  | sd (s b : SReg) (i : BitVec 11)
  /-- FCLR: Clears the full bit of the scratch granule holding the address (R206) -/
  | fclr (b : SReg) (i : BitVec 11)
  /-- AMO_SWAP: Atomically swaps memory with sb and returns the old value in sd (R207) -/
  | amoSwap (d a b : SReg) (c w : BitVec 2) (r : BitVec 1)
  /-- AMO_ADD: Atomically adds sb to memory and returns the old value (R207) -/
  | amoAdd (d a b : SReg) (c w : BitVec 2) (r : BitVec 1)
  /-- AMO_AND: Atomically ANDs sb into memory and returns the old value (R207) -/
  | amoAnd (d a b : SReg) (c w : BitVec 2) (r : BitVec 1)
  /-- AMO_OR: Atomically ORs sb into memory and returns the old value (R207) -/
  | amoOr (d a b : SReg) (c w : BitVec 2) (r : BitVec 1)
  /-- AMO_XOR: Atomically XORs sb into memory and returns the old value (R207) -/
  | amoXor (d a b : SReg) (c w : BitVec 2) (r : BitVec 1)
  /-- AMO_MIN: Atomically stores the signed minimum and returns the old value (R207) -/
  | amoMin (d a b : SReg) (c w : BitVec 2) (r : BitVec 1)
  /-- AMO_MAX: Atomically stores the signed maximum and returns the old value (R207) -/
  | amoMax (d a b : SReg) (c w : BitVec 2) (r : BitVec 1)
  /-- AMO_MINU: Atomically stores the unsigned minimum and returns the old value (R207) -/
  | amoMinu (d a b : SReg) (c w : BitVec 2) (r : BitVec 1)
  /-- AMO_MAXU: Atomically stores the unsigned maximum and returns the old value (R207) -/
  | amoMaxu (d a b : SReg) (c w : BitVec 2) (r : BitVec 1)
  /-- AMO_CAS: Atomically writes sb if memory equals the old sd, returning the old value in sd (R207) -/
  | amoCas (d a b : SReg) (c w : BitVec 2) (r : BitVec 1)
  /-- AMO_FADD: Atomically adds a float to memory, rounded RNE on plain pages or exactly on DET pages (R209) -/
  | amoFadd (d a b : SReg) (c w : BitVec 2) (r : BitVec 1)
  /-- FENCE: Orders earlier accesses of the predecessor classes before later accesses of the successor classes at a scope (R210) -/
  | fence (s p : BitVec 4) (c : BitVec 2)
  /-- BEQ: Branches if sa equals sb (R211) -/
  | beq (a b : SReg) (o : BitVec 14)
  /-- BNE: Branches if sa differs from sb (R211) -/
  | bne (a b : SReg) (o : BitVec 14)
  /-- BLT: Branches if sa is less than sb as signed (R211) -/
  | blt (a b : SReg) (o : BitVec 14)
  /-- BGE: Branches if sa is at least sb as signed (R211) -/
  | bge (a b : SReg) (o : BitVec 14)
  /-- BLTU: Branches if sa is less than sb as unsigned (R211) -/
  | bltu (a b : SReg) (o : BitVec 14)
  /-- BGEU: Branches if sa is at least sb as unsigned (R211) -/
  | bgeu (a b : SReg) (o : BitVec 14)
  /-- JAL: Jumps PC-relative and writes the return address to sd (R212) -/
  | jal (d : SReg) (i : BitVec 19)
  /-- JALR: Jumps to sa plus offset and writes the return address to sd (R212) -/
  | jalr (d a : SReg) (i : BitVec 14)
  /-- GETC: Reads a control register into sd after the waits of R145 (R213) -/
  | getc (d : SReg) (c : BitVec 14)
  /-- PUTC: Writes sa to a control register by its fields' access codes; the row for writes to registers with no row of their own (R213) -/
  | putc (a : SReg) (c : BitVec 14)
  /-- TRAP: Raises the software trap with TRAPVAL set to sa (R219) -/
  | trapSoft (a : SReg)
  /-- TLBI: Fences, removes the partition's stage-1 entries for a page and ASID, and waits for pins (R123) -/
  | tlbi (a b : SReg)
  /-- LAUNCH: Pushes a 64-byte launch record into a PUSH launch queue and writes a status (R182) -/
  | launch (d a b : SReg)
  /-- TEST_SCAN: Runs a scan pattern on a withdrawn, drained core and writes status and signature (R224) -/
  | testScan (d a : SReg)
  /-- SWB: Writes back dirty stash-window lines meeting a byte range (R113) -/
  | swb (a b : SReg)
  /-- DFIN: Collapses every active DET accumulator in a byte range to its rounded value (R223) -/
  | dfin (a b : SReg)
  /-- ROUTE: Writes a port's ROUTE register from sa in program order (R317) -/
  | route (p : BitVec 2) (a : SReg)
  /-- BAR_DEF: Binds a barrier id to a rectangle word, cancelling an open generation if it changes (R322) -/
  | barDef (a b : SReg)
  /-- BAR_ARR: Arrives at a barrier after performing earlier accesses at partition scope (R323) -/
  | barArr (a : SReg)
  /-- BAR_WAIT: Waits until the strand's arrival at the barrier is released (R323) -/
  | barWait (a : SReg)
  /-- BAR_AW: Arrives at a barrier once and waits for the release (R323) -/
  | barAw (a : SReg)
  /-- SEM_SIG: Releases and atomically adds a clamped signed addend to a semaphore count (R329) -/
  | semSig (a b : SReg)
  /-- SEM_WAIT: Waits until a semaphore count reaches a value, as an acquire (R329) -/
  | semWait (a b : SReg)
  /-- SEM_POLL: Reads a semaphore count into sd as an acquire (R329) -/
  | semPoll (d a : SReg)
  /-- POST: Reads a 64-byte call record, takes a call-table slot and sends the call to an engine queue, writing a ticket (R226) -/
  | postCall (d a b : SReg)
  /-- AWAIT: Waits for a ticket's final status, frees the slot and traps on FAULT (R227) -/
  | awaitCall (d a : SReg)
  /-- PROBE: Reads a ticket's status without waiting, freeing the slot on a final status (R228) -/
  | probeCall (d a : SReg)
  /-- OTOK: Takes and increments the next token of an ordering sequence atomically (R229) -/
  | otok (d a : SReg)
  /-- XFLUSH: Releases the caller's partial batches in a ray engine sorting buffer or reorder unit (R230) -/
  | xflush (a : SReg)
  /-- VADD: Adds vector elements (R257) -/
  | vadd (d a b : VReg) (k : KReg)
  /-- VSUB: Subtracts vector elements (R257) -/
  | vsub (d a b : VReg) (k : KReg)
  /-- VRSUB: Subtracts va from vb element-wise (R257) -/
  | vrsub (d a b : VReg) (k : KReg)
  /-- VMUL: Multiplies vector elements (R257) -/
  | vmul (d a b : VReg) (k : KReg)
  /-- VMULH: Writes the high half of integer element products (R257) -/
  | vmulh (d a b : VReg) (k : KReg)
  /-- VDIV: Divides vector elements (R257) -/
  | vdiv (d a b : VReg) (k : KReg)
  /-- VREM: Writes integer element remainders (R257) -/
  | vrem (d a b : VReg) (k : KReg)
  /-- VAVG: Writes the element averages (R257) -/
  | vavg (d a b : VReg) (k : KReg)
  /-- VMIN: Writes element minima (R257) -/
  | vmin (d a b : VReg) (k : KReg)
  /-- VMAX: Writes element maxima (R257) -/
  | vmax (d a b : VReg) (k : KReg)
  /-- VAND: Bitwise ANDs elements (R257) -/
  | vand (d a b : VReg) (k : KReg)
  /-- VOR: Bitwise ORs elements (R257) -/
  | vor (d a b : VReg) (k : KReg)
  /-- VXOR: Bitwise XORs elements (R257) -/
  | vxor (d a b : VReg) (k : KReg)
  /-- VSLL: Shifts integer elements left (R257) -/
  | vsll (d a b : VReg) (k : KReg)
  /-- VSRL: Shifts integer elements right logically (R257) -/
  | vsrl (d a b : VReg) (k : KReg)
  /-- VSRA: Shifts integer elements right arithmetically (R257) -/
  | vsra (d a b : VReg) (k : KReg)
  /-- VADDS: Adds integer elements with saturation (R257) -/
  | vadds (d a b : VReg) (k : KReg)
  /-- VSUBS: Subtracts integer elements with saturation (R257) -/
  | vsubs (d a b : VReg) (k : KReg)
  /-- VWMUL: Writes widened element products to a two-register group (R260) -/
  | vwmul (d a b : VReg) (k : KReg)
  /-- VDOT4: Accumulates four products per destination element into vd (R261) -/
  | vdot4 (d a b : VReg) (k : KReg)
  /-- VCEQ: Writes an equality compare into a mask register (R262) -/
  | vceq (d : KReg) (a b : VReg) (k : KReg)
  /-- VCNE: Writes an inequality compare into a mask register (R262) -/
  | vcne (d : KReg) (a b : VReg) (k : KReg)
  /-- VCLT: Writes a less-than compare into a mask register (R262) -/
  | vclt (d : KReg) (a b : VReg) (k : KReg)
  /-- VCLE: Writes a less-or-equal compare into a mask register (R262) -/
  | vcle (d : KReg) (a b : VReg) (k : KReg)
  /-- VSEL: Selects vb or va element-wise under a selector mask (R257) -/
  | vsel (d a b : VReg) (k : KReg)
  /-- VMV: Copies va elements to vd (R257) -/
  | vmv (d a : VReg) (k : KReg)
  /-- VABS: Writes element absolute values (R257) -/
  | vabs (d a : VReg) (k : KReg)
  /-- VNEG: Negates elements (R257) -/
  | vneg (d a : VReg) (k : KReg)
  /-- VSQRT: Writes correctly rounded float square roots (R257) -/
  | vsqrt (d a : VReg) (k : KReg)
  /-- VRCP: Writes correctly rounded float reciprocals (R257) -/
  | vrcp (d a : VReg) (k : KReg)
  /-- VEXP2: Writes correctly rounded powers of two (R257) -/
  | vexp2 (d a : VReg) (k : KReg)
  /-- VLOG2: Writes correctly rounded base-2 logarithms (R257) -/
  | vlog2 (d a : VReg) (k : KReg)
  /-- VADD_VS: Adds a scalar to each vector element (R259) -/
  | vaddVs (d a : VReg) (s : SReg) (k : KReg)
  /-- VSUB_VS: Subtracts a scalar from each element (R259) -/
  | vsubVs (d a : VReg) (s : SReg) (k : KReg)
  /-- VRSUB_VS: Subtracts each element from a scalar (R259) -/
  | vrsubVs (d a : VReg) (s : SReg) (k : KReg)
  /-- VMUL_VS: Multiplies each element by a scalar (R259) -/
  | vmulVs (d a : VReg) (s : SReg) (k : KReg)
  /-- VMULH_VS: Writes high halves of element-by-scalar products (R259) -/
  | vmulhVs (d a : VReg) (s : SReg) (k : KReg)
  /-- VDIV_VS: Divides each element by a scalar (R259) -/
  | vdivVs (d a : VReg) (s : SReg) (k : KReg)
  /-- VREM_VS: Writes remainders of elements by a scalar (R259) -/
  | vremVs (d a : VReg) (s : SReg) (k : KReg)
  /-- VAVG_VS: Averages each element with a scalar (R259) -/
  | vavgVs (d a : VReg) (s : SReg) (k : KReg)
  /-- VMIN_VS: Writes minima of elements and a scalar (R259) -/
  | vminVs (d a : VReg) (s : SReg) (k : KReg)
  /-- VMAX_VS: Writes maxima of elements and a scalar (R259) -/
  | vmaxVs (d a : VReg) (s : SReg) (k : KReg)
  /-- VAND_VS: ANDs each element with a scalar (R259) -/
  | vandVs (d a : VReg) (s : SReg) (k : KReg)
  /-- VOR_VS: ORs each element with a scalar (R259) -/
  | vorVs (d a : VReg) (s : SReg) (k : KReg)
  /-- VXOR_VS: XORs each element with a scalar (R259) -/
  | vxorVs (d a : VReg) (s : SReg) (k : KReg)
  /-- VSLL_VS: Shifts each element left by a scalar amount (R259) -/
  | vsllVs (d a : VReg) (s : SReg) (k : KReg)
  /-- VSRL_VS: Shifts each element right logically by a scalar amount (R259) -/
  | vsrlVs (d a : VReg) (s : SReg) (k : KReg)
  /-- VSRA_VS: Shifts each element right arithmetically by a scalar amount (R259) -/
  | vsraVs (d a : VReg) (s : SReg) (k : KReg)
  /-- MIF: Pushes CM AND kc onto the mask stack (R268) -/
  | mif (c : KReg)
  /-- MBRK: Removes kc lanes from the top mask level (R268) -/
  | mbrk (c : KReg)
  /-- MAND: Writes ka AND kb into active bits of kd (R267) -/
  | mand (d a b : KReg)
  /-- MOR: Writes ka OR kb into active bits of kd (R267) -/
  | mor (d a b : KReg)
  /-- MXOR: Writes ka XOR kb into active bits of kd (R267) -/
  | mxor (d a b : KReg)
  /-- MNOT: Writes NOT ka into active bits of kd (R267) -/
  | mnot (d a : KReg)
  /-- VSLIDEUP: Writes va shifted up by a scalar count of elements (R270) -/
  | vslideup (d a : VReg) (s : SReg) (k : KReg)
  /-- VSLIDEDN: Writes va shifted down by a scalar count of elements (R270) -/
  | vslidedn (d a : VReg) (s : SReg) (k : KReg)
  /-- VPERM: Gathers va elements by an index vector (R271) -/
  | vperm (d a b : VReg) (k : KReg)
  /-- VRED_O: Sums the start value and active elements in ascending order into element 0 (R274) -/
  | vredO (d a : VReg) (s : SReg) (k : KReg)
  /-- VRED_R: Sums the start value and active elements in any order into element 0 (R274) -/
  | vredR (d a : VReg) (s : SReg) (k : KReg)
  /-- VSCAN: Writes the inclusive running sum of active elements (R276) -/
  | vscan (d a : VReg) (s : SReg) (k : KReg)
  /-- VREC_MUL: Carries d := d × va[e] + old vd[e] through the elements (R277) -/
  | vrecMul (d a : VReg) (s : SReg) (k : KReg)
  /-- VREC_MAX: Carries d := max(d + old vd[e], va[e]) through the elements (R277) -/
  | vrecMax (d a : VReg) (s : SReg) (k : KReg)
  /-- VEXT: Extracts one vector element into a scalar register (R272) -/
  | vext (d : SReg) (a : VReg) (s : SReg)
  /-- VLD: Loads unit-stride elements into vd (R294) -/
  | vld (d : VReg) (b : SReg) (k : KReg)
  /-- VLDS: Loads strided elements into vd (R294) -/
  | vlds (d : VReg) (s b : SReg) (k : KReg)
  /-- VLDFF: Loads unit-stride elements, trimming VLEN at the first later failing element (R296) -/
  | vldff (d : VReg) (b : SReg) (k : KReg)
  /-- VPOP: Waits for and pops the oldest vector of a stream port into vd (R304) -/
  | vpop (d : VReg) (p : BitVec 3) (k : KReg)
  /-- VST: Stores unit-stride elements of vs (R294) -/
  | vst (v : VReg) (b : SReg) (k : KReg)
  /-- VSTS: Stores strided elements of vs (R294) -/
  | vsts (v : VReg) (s b : SReg) (k : KReg)
  /-- VPUSH: Waits for a free slot and pushes vs to a stream port (R304) -/
  | vpush (v : VReg) (p : BitVec 3) (k : KReg)
  /-- VSETL: Sets VTYPE.TAG and VLEN to the clamped requested length, writes it to sd and opens a strip (R235) -/
  | vsetl (d a : SReg) (t : BitVec 4)
  /-- VTAG: Sets the element tag of vd without moving data (R236) -/
  | vtag (d : VReg) (t : BitVec 4)
  /-- FADD: Adds two scalar floats, correctly rounded (R215) -/
  | fadd (d a b : SReg) (f : BitVec 2) (r : BitVec 3)
  /-- FSUB: Subtracts two scalar floats, correctly rounded (R215) -/
  | fsub (d a b : SReg) (f : BitVec 2) (r : BitVec 3)
  /-- FMUL: Multiplies two scalar floats, correctly rounded (R215) -/
  | fmul (d a b : SReg) (f : BitVec 2) (r : BitVec 3)
  /-- FDIV: Divides two scalar floats, correctly rounded (R215) -/
  | fdiv (d a b : SReg) (f : BitVec 2) (r : BitVec 3)
  /-- FSQRT: Writes the correctly rounded square root of a scalar float (R215) -/
  | fsqrt (d a : SReg) (f : BitVec 2) (r : BitVec 3)
  /-- FMIN: Writes the minimumNumber of two scalar floats (R215) -/
  | fmin (d a b : SReg) (f : BitVec 2)
  /-- FMAX: Writes the maximumNumber of two scalar floats (R215) -/
  | fmax (d a b : SReg) (f : BitVec 2)
  /-- FEQ: Writes 1 if two scalar floats are equal (R216) -/
  | feq (d a b : SReg) (f : BitVec 2)
  /-- FLT: Writes 1 if sa is less than sb as floats (R216) -/
  | flt (d a b : SReg) (f : BitVec 2)
  /-- FLE: Writes 1 if sa is at most sb as floats (R216) -/
  | fle (d a b : SReg) (f : BitVec 2)
  /-- FCLASS: Writes a one-hot class of a scalar float (R216) -/
  | fclass (d a : SReg) (f : BitVec 2)
  /-- FCVT: Converts between float and integer formats per a conversion code (R217) -/
  | fcvt (d a : SReg) (g : BitVec 1) (c : BitVec 3) (f : BitVec 2) (r : BitVec 3)
  /-- NOP: Hint code 0; does nothing (R94) -/
  | nop (a : SReg)
  /-- PF_L1: Prefetches the line at sa into the L1D (R94) -/
  | pfL1 (a : SReg)
  /-- PF_L2: Prefetches the line at sa into the L2 (R94) -/
  | pfL2 (a : SReg)
  /-- PF_ST: Prefetches the line at sa into its stash window (R94) -/
  | pfSt (a : SReg)
  /-- LIMM: Writes a sign-extended 49-bit immediate to sd (R203) -/
  | limm (d : SReg) (imm : BitVec 49)
  /-- LB_L: Long-offset sign-extended byte load (R205) -/
  | lbL (d b : SReg) (off : BitVec 41)
  /-- LH_L: Long-offset sign-extended half load (R205) -/
  | lhL (d b : SReg) (off : BitVec 41)
  /-- LW_L: Long-offset sign-extended word load (R205) -/
  | lwL (d b : SReg) (off : BitVec 41)
  /-- LD_L: Long-offset dword load (R205) -/
  | ldL (d b : SReg) (off : BitVec 41)
  /-- LBU_L: Long-offset zero-extended byte load (R205) -/
  | lbuL (d b : SReg) (off : BitVec 41)
  /-- LHU_L: Long-offset zero-extended half load (R205) -/
  | lhuL (d b : SReg) (off : BitVec 41)
  /-- LWU_L: Long-offset zero-extended word load (R205) -/
  | lwuL (d b : SReg) (off : BitVec 41)
  /-- LDSYNC_L: Long-offset full-bit-waiting scratch load (R206) -/
  | ldsyncL (d b : SReg) (off : BitVec 41)
  /-- SB_L: Long-offset byte store (R205) -/
  | sbL (s b : SReg) (off : BitVec 41)
  /-- SH_L: Long-offset half store (R205) -/
  | shL (s b : SReg) (off : BitVec 41)
  /-- SW_L: Long-offset word store (R205) -/
  | swL (s b : SReg) (off : BitVec 41)
  /-- SD_L: Long-offset dword store (R205) -/
  | sdL (s b : SReg) (off : BitVec 41)
  /-- FCLR_L: Long-offset clear of a scratch granule's full bit (R206) -/
  | fclrL (b : SReg) (off : BitVec 41)
  /-- JAL_L: Long PC-relative jump writing pc + 8 to sd (R212) -/
  | jalL (d : SReg) (imm : BitVec 49)
  /-- FMA: Writes round(a × b + c) with one rounding (R218) -/
  | fma (d a b c : SReg) (fmt : BitVec 2) (rm : BitVec 3)
  /-- FMS: Writes round(a × b − c) with one rounding (R218) -/
  | fms (d a b c : SReg) (fmt : BitVec 2) (rm : BitVec 3)
  /-- FNMA: Writes round(−(a × b) + c) with one rounding (R218) -/
  | fnma (d a b c : SReg) (fmt : BitVec 2) (rm : BitVec 3)
  /-- FNMS: Writes round(−(a × b) − c) with one rounding (R218) -/
  | fnms (d a b c : SReg) (fmt : BitVec 2) (rm : BitVec 3)
  /-- VFMA: Element-wise a × b + c with one rounding (R263) -/
  | vfma (d a b c : VReg) (k : KReg) (rm : BitVec 3)
  /-- VFMS: Element-wise a × b − c with one rounding (R263) -/
  | vfms (d a b c : VReg) (k : KReg) (rm : BitVec 3)
  /-- VFNMA: Element-wise −(a × b) + c with one rounding (R263) -/
  | vfnma (d a b c : VReg) (k : KReg) (rm : BitVec 3)
  /-- VFNMS: Element-wise −(a × b) − c with one rounding (R263) -/
  | vfnms (d a b c : VReg) (k : KReg) (rm : BitVec 3)
  /-- VMOP_O: Adds an ordered outer product into a tile, column by column (R279) -/
  | vmopO (d a b : VReg) (k : KReg) (g : BitVec 8)
  /-- VMOP_R: Adds an outer product into a tile that stays open with reassociable partials (R280) -/
  | vmopR (d a b : VReg) (k : KReg) (g : BitVec 8)
  /-- VMZERO: Discards partials and zeroes a tile (R281) -/
  | vmzero (d : VReg)
  /-- VMRD: Merges and closes an open tile (R281) -/
  | vmrd (d : VReg)
  /-- VLDX: Loads elements from indexed addresses (R298) -/
  | vldx (d : VReg) (base : SReg) (b : VReg) (k : KReg) (ish : BitVec 2)
  /-- VSTX: Stores elements to indexed addresses, unordered (R298) -/
  | vstx (v : VReg) (base : SReg) (b : VReg) (k : KReg) (ish : BitVec 2)
  /-- VSTXO: Stores elements to indexed addresses with higher elements winning shared bytes (R299) -/
  | vstxo (v : VReg) (base : SReg) (b : VReg) (k : KReg) (ish : BitVec 2)
  /-- VAMO_SWAP: Vector atomic swap at indexed addresses (R300) -/
  | vamoSwap (d : VReg) (base : SReg) (b c : VReg) (k : KReg) (ish scope : BitVec 2) (ar ret : BitVec 1)
  /-- VAMO_ADD: Vector atomic integer add at indexed addresses (R300) -/
  | vamoAdd (d : VReg) (base : SReg) (b c : VReg) (k : KReg) (ish scope : BitVec 2) (ar ret : BitVec 1)
  /-- VAMO_AND: Vector atomic AND at indexed addresses (R300) -/
  | vamoAnd (d : VReg) (base : SReg) (b c : VReg) (k : KReg) (ish scope : BitVec 2) (ar ret : BitVec 1)
  /-- VAMO_OR: Vector atomic OR at indexed addresses (R300) -/
  | vamoOr (d : VReg) (base : SReg) (b c : VReg) (k : KReg) (ish scope : BitVec 2) (ar ret : BitVec 1)
  /-- VAMO_XOR: Vector atomic XOR at indexed addresses (R300) -/
  | vamoXor (d : VReg) (base : SReg) (b c : VReg) (k : KReg) (ish scope : BitVec 2) (ar ret : BitVec 1)
  /-- VAMO_MIN: Vector atomic signed minimum at indexed addresses (R300) -/
  | vamoMin (d : VReg) (base : SReg) (b c : VReg) (k : KReg) (ish scope : BitVec 2) (ar ret : BitVec 1)
  /-- VAMO_MAX: Vector atomic signed maximum at indexed addresses (R300) -/
  | vamoMax (d : VReg) (base : SReg) (b c : VReg) (k : KReg) (ish scope : BitVec 2) (ar ret : BitVec 1)
  /-- VAMO_MINU: Vector atomic unsigned minimum at indexed addresses (R300) -/
  | vamoMinu (d : VReg) (base : SReg) (b c : VReg) (k : KReg) (ish scope : BitVec 2) (ar ret : BitVec 1)
  /-- VAMO_MAXU: Vector atomic unsigned maximum at indexed addresses (R300) -/
  | vamoMaxu (d : VReg) (base : SReg) (b c : VReg) (k : KReg) (ish scope : BitVec 2) (ar ret : BitVec 1)
  /-- VAMO_FADD: Vector atomic float add, exact on DET pages, with precise refusals (R300) -/
  | vamoFadd (d : VReg) (base : SReg) (b c : VReg) (k : KReg) (ish scope : BitVec 2) (ar ret : BitVec 1)
  /-- VPLANE: Converts vs to scaled bit-plane blocks and writes the panel to memory (R302) -/
  | vplane (v : VReg) (base : SReg) (k : KReg) (pm1 : BitVec 4)
  /-- VCVT: Converts each active element to the format of a tag (R264) -/
  | vcvt (d a : VReg) (tag : BitVec 4) (rm : BitVec 3) (sat : BitVec 1)
  /-- VREDMAX: Writes the maximum of a start value and active elements to element 0 (R275) -/
  | vredmax (d a : VReg) (s : SReg)
  /-- VREDMIN: Writes the minimum of a start value and active elements to element 0 (R275) -/
  | vredmin (d a : VReg) (s : SReg)
  /-- VINS: Writes a scalar into one active element of vd (R272) -/
  | vins (d : VReg) (v s : SReg)
  /-- VBCAST: Writes a scalar to every active element of vd (R266) -/
  | vbcast (d : VReg) (s : SReg)
  /-- VIOTA: Writes each active element's index to vd (R266) -/
  | viota (d : VReg)
  /-- VCOMPRESS: Packs selected active elements of va into the low elements of vd (R273) -/
  | vcompress (d a : VReg) (k : KReg)
  /-- MPOPC: Writes the number of active set bits of a mask to sd (R269) -/
  | mpopc (d : SReg) (k : KReg)
  /-- MFIRST: Writes the lowest active set bit of a mask to sd (R269) -/
  | mfirst (d : SReg) (k : KReg)
  /-- VCLZ: Writes leading-zero counts of integer elements (R265) -/
  | vclz (d a : VReg)
  /-- VPOPC: Writes one-bit counts of integer elements (R265) -/
  | vpopc (d a : VReg)
  /-- POSTV: Sends a call record held in vector registers to an engine queue and writes a ticket (R306) -/
  | postv (d a : SReg) (va : VReg) (nm1 : BitVec 4) (k : KReg)
  /-- VPOP_NW: Pops a stream port vector with a bounded wait, writing a moved status to sd (R305) -/
  | vpopNw (d : VReg) (port : BitVec 3) (sd : SReg) (k : KReg) (limit : BitVec 16)
  /-- VPUSH_NW: Pushes to a stream port with a bounded wait, writing a moved status to sd (R305) -/
  | vpushNw (v : VReg) (port : BitVec 3) (sd : SReg) (k : KReg) (limit : BitVec 16)
  /-- HINT: A one-word hint word with a code other than 0-3 executes as a no-op (R94) -/
  | hint (a : SReg) (code : BitVec 19)
  /-- TWO_WORD_HINT: A two-word instruction of major 0x3E is ignored and exempt from every check except word kind (R95) -/
  | twoWordHint (f1 : BitVec 24) (f2 : BitVec 30)
  /-- ILLEGAL_INSTRUCTION: A reserved encoding, a kind-10 word or a first word without its second raises illegal instruction at decode (R97) -/
  | illegalInstruction (w1 w2 : BitVec 32)
  /-- TRET: Returns from a trap, restoring level and IE and releasing held vector entries (R160) -/
  | tret
  /-- IDLE: Stops issue until a pending event, port word or completion mark, then clears the mark (R220) -/
  | idle
  /-- END: Drains the vector queue and stores, updates the completion word and releases the strand slot (R222) -/
  | endStrand
  /-- YIELD: Switches the strand out if equal or higher priority work waits for a slot on the core (R221) -/
  | yield
  /-- BRK: Raises the breakpoint trap (R219) -/
  | brk
  /-- TLBIA: Fences and removes every stage-1 entry of the partition, waiting for pins (R123) -/
  | tlbia
  /-- ION: Sets STATUS.IE (R161) -/
  | ion
  /-- IOFF: Clears STATUS.IE (R161) -/
  | ioff
  /-- MELSE: Replaces the top mask level with parent AND NOT top (R268) -/
  | melse
  /-- MEND: Pops the mask stack (R268) -/
  | mend
  /-- ASYNC_TRAP_ENTRY: A pending asynchronous event is taken at an instruction boundary of its target strand (R156) -/
  | asyncTrapEntry
  /-- WDOG_EXPIRY: WDOG reaches 0 and sets the watchdog pending bit for its strand (R157) -/
  | wdogExpiry
  /-- VLEN_WRITE: A SUP write of VLEN waits for the queue and stores the clamped length (R235) -/
  | vlenWrite
  /-- VTYPE_WRITE: A write of VTYPE waits for the queue, sets TAG and clamps VL (R235) -/
  | vtypeWrite
  /-- FFLAGS_WRITE: A write of FFLAGS sets the scalar flag set and clears all lane flag sets (R59) -/
  | fflagsWrite
  /-- PORTEN_WRITE: A write of PORTEN switches s28–s31 between ports and their kept contents (R141) -/
  | portenWrite
  /-- VBACK_WRITE: A write of VBACK checks the mapping, writes back dirty registers and drops residents on a new area (R249) -/
  | vbackWrite
  /-- VQCTL_DROP: Discards the first held vector entry, advancing VCOMMIT and clearing VSTART (R154) -/
  | vqctlDrop
  /-- DET_BACKING_WRITE: A write of DETBASE or DETCNT is ignored while entries are in use, else checked against stage 2 (R136) -/
  | detBackingWrite
  /-- LQBASE_WRITE: A write of LQBASE checks the table mapping and sets the launch queue table (R180) -/
  | lqbaseWrite
  /-- LQDOOR: Notifies a launch queue, which rereads its descriptor and may open (R181) -/
  | lqdoor
  /-- RELOAD: Rereads a context or queue RCB and its cached descendants and clears killed marks (R175) -/
  | reloadRcb
  /-- KILL: Kills the subtree of a named RCB (R175) -/
  | killRcb
  /-- ATTEST: Snapshots the partition, writes and signs the attestation report into the buffer (R440) -/
  | attest
  /-- XGRANT: Makes the monitor reread the grant table and close windows whose grants changed (R432) -/
  | xgrant
  /-- VFIRQ: Sends a message-signalled interrupt on the partition's virtual function (R460) -/
  | vfirq
  /-- CREATE: Creates a partition on free bulkheads with its image, key, gates and RCB (R427) -/
  | createPart
  /-- DESTROY: Closes windows, kills the partition, destroys its key and scrubs its bulkheads (R429) -/
  | destroyPart
  /-- PRESET: Resets a partition and replays its RPL queues from the last fence records (R197) -/
  | preset
  /-- BHRESET: Requests a reset of an owned bulkhead (R426) -/
  | bhreset
  /-- BHPOWER: Powers a free bulkhead off or an off bulkhead on (R420) -/
  | bhpower
  /-- WINOPEN: Opens an import window onto a granted, contiguously mapped range of another partition (R433) -/
  | winopen
  /-- WINCLOSE: Closes a cross-bulkhead window (R434) -/
  | winclose
  /-- S2INV: Removes a partition's stage-2 entries for an IPA or all, and waits for pins (R431) -/
  | s2inv
  /-- SETRCB: Replaces the partition RCB and reloads the whole partition (R426) -/
  | setrcb
  /-- MONUPD: Checks and flashes a new monitor image, then quiesces and hands over to it (R450) -/
  | monupd
  /-- POLADD: Installs a signed scheduler-policy image under its version (R449) -/
  | poladd
  /-- POLDEL: Removes an unpinned policy image (R449) -/
  | poldel
  /-- WITHDRAW: Withdraws a core from placement with an abort priority (R452) -/
  | withdrawCore
  /-- RETURN: Returns a withdrawn core to placement when no scan runs (R452) -/
  | returnCore
  /-- REMOVE: Removes a withdrawn, drained core from every core map and logs it (R452) -/
  | removeCore
  /-- DISPATCH_SELECTION: The dispatchers pick queues by priority and deficit, resume strands and start eligible heads (R190) -/
  | dispatchSelection
  /-- LAUNCH_RECORD_TAKE: The device reads, checks and takes the ready record at a queue's HEAD (R184) -/
  | launchRecordTake
  /-- LAUNCH_START: A launch is placed whole and its strands start with their initial state (R186) -/
  | launchStart
  /-- FENCE_RECORD: A ready fence record reads restore entries, completes, signals and advances REPLAY (R196) -/
  | fenceRecord
  /-- STRAND_SWITCH_OUT: A strand is pre-empted and its scalar state saved to its save area (R164) -/
  | strandSwitchOut
  /-- STRAND_RESUME: A switched-out strand is resumed at its position, taking any pending vector trap first (R167) -/
  | strandResume
  /-- FORCED_SAVE: Saves another context's lazily held vector state so a newcomer can use the slot (R166) -/
  | forcedSave
  /-- POOL_EXHAUSTED: A pool's charge reaches BUDGET and its resident strands are switched out (R177) -/
  | poolExhausted
  /-- PERIOD_BOUNDARY: A pool period ends, resetting its charge and allowing placement again (R177) -/
  | periodBoundary
  /-- PARKED_WORD_MOVE_IN: Parked port words move into a resumed target's arrival queue as room appears (R315) -/
  | parkedWordMoveIn
  /-- BARRIER_TIMEOUT: TIME reaches a barrier's deadline and its generation is cancelled (R324) -/
  | barrierTimeout
  /-- MATRIX_JOB: The matrix engine runs a scaled bit-plane GEMM job tile by tile in scratch (R335) -/
  | matrixJob
  /-- COPY: The transfer engine copies a strided 1-, 2- or 3-D block (R346) -/
  | teCopy
  /-- GATHER: The transfer engine gathers rows through an index list (R346) -/
  | teGather
  /-- MCAST: The transfer engine copies a block into the scratch of several clusters (R346) -/
  | teMcast
  /-- PUT: The transfer engine writes a block to partition or peer memory (R346) -/
  | tePut
  /-- PUTADD: The transfer engine atomically adds a block into partition or peer memory (R348) -/
  | tePutadd
  /-- FEEDIN: The transfer engine binds a port for arrival and fills it with vectors from memory (R347) -/
  | teFeedin
  /-- FEEDOUT: The transfer engine binds a port for departure and drains pushed vectors to memory (R347) -/
  | teFeedout
  /-- FEED_VECTOR_MOVE: A feed moves one vector when a FIFO slot or pushed vector becomes available (R347) -/
  | feedVectorMove
  /-- INBOUND_PUT: A remote put or put-add arrives, is matched to a peer entry and written (R462) -/
  | inboundPut
  /-- SORT: The sort engine stably radix-sorts keys and values within segments (R360) -/
  | seSort
  /-- RASTER: The raster-blend engine rasterises a triangle segment against a tile and returns a layer (R369) -/
  | rbeRaster
  /-- RBE_OPEN: Opens a tile-store slot with a blend program and initial state (R372) -/
  | rbeOpen
  /-- RBE_CLOSE: Waits for the token range, writes the slot's planes and report and frees it (R372) -/
  | rbeClose
  /-- CANCEL: Marks a token of a slot cancelled (R378) -/
  | rbeCancel
  /-- SEQRESET: Resets an ordering sequence counter to 0 (R372) -/
  | rbeSeqreset
  /-- FRAGMENT_BATCH: A token-carrying fragment batch arrives and commits, waits or faults by its token (R377) -/
  | fragmentBatch
  /-- BATCH_COMMIT: A waiting batch whose token becomes NEXT runs the blend program on its fragments (R375) -/
  | batchCommit
  /-- GAP_TIMEOUT: A slot's gap timer expires the missing tokens before the lowest waiting one (R379) -/
  | gapTimeout
  /-- SAMPLE: The texture unit filters texels at the lanes' coordinates into a return group (R389) -/
  | txuSample
  /-- BIND: Records a BVH root, micro-map base and hash box under a binding (R397) -/
  | rtBind
  /-- UNBIND: Frees a ray engine binding (R397) -/
  | rtUnbind
  /-- DROP: Discards every parked ray of a ray set of the calling strand (R397) -/
  | rtDrop
  /-- TRACE: Creates a ray set and traverses the BVH, returning hits or parking candidates (R402) -/
  | rtTrace
  /-- REPLY: Decides parked candidates, resuming or ending their rays (R407) -/
  | rtReply
  /-- RAY_BATCH_RELEASE: A sorting-buffer group is released to traversal when full, timed out or flushed (R404) -/
  | rayBatchRelease
  /-- COLLECTION_OPEN: Opens a reorder-unit collection bound to a stream port (R408) -/
  | collectionOpen
  /-- COLLECTION_CLOSE: Releases the partial batch, waits for the FIFO and unbinds the port (R408) -/
  | collectionClose
  /-- DEPOSIT: Adds one record per active lane to the strand's open collection (R409) -/
  | rouDeposit
  /-- ROU_BATCH_RELEASE: A collection batch is released and pushed to the port as W + 1 vectors (R410) -/
  | rouBatchRelease
  /-- HOST_IPA_ACCESS: A host read or write through a VF's IPA window is served at the home L2 (R459) -/
  | hostIpaAccess
  /-- PF_HYP_ACCESS: A physical-function access reaches HYP memory while PFEN = 1 (R457) -/
  | pfHypAccess
  /-- PFDOOR: Stores a value to HYP memory offset 0 and ends idle on the hypervisor strand (R457) -/
  | pfdoor
  /-- VFDOOR: Acts as a write of LQDOOR for the VF's partition (R457) -/
  | vfdoor
  /-- VFSUP: With GO = 1, starts a supervisor launch from a record or reports BUSY or REFUSED (R458) -/
  | vfsup
  /-- LINK_LOSS: A lost Spaxlink link or peer ends every call in flight on it with 0x17 (R462) -/
  | linkLoss
  /-- DEVICE_RESET: The boot controller verifies the table and monitor, applies removals and starts the monitor (R443) -/
  | deviceReset
  /-- RAIL_PLL_FAULT: A bulkhead rail or PLL fault, including over-temperature, triggers a bulkhead reset (R419) -/
  | railPllFault
  /-- BULKHEAD_UNCORRECTABLE_ERROR: An uncorrectable error in L2 tags, directory, gate, router, dispatcher state or an HBM channel triggers a bulkhead reset (R419) -/
  | bulkheadUncorrectableError
  /-- DISPATCHER_WATCHDOG: The dispatcher's watchdog expires and triggers a bulkhead reset (R419) -/
  | dispatcherWatchdog
  /-- BULKHEAD_RESET_COMPLETE: The bulkhead returns to OWNED and its owner's partition reset starts (R419) -/
  | bulkheadResetComplete
  /-- POWER_ON_COMPLETE: A powered-on bulkhead enters SCRUB (R420) -/
  | powerOnComplete
  /-- SCRUB_COMPLETE: A scrubbed bulkhead becomes FREE (R417) -/
  | scrubComplete
  /-- SERVICE_CORE_ERROR: An uncorrectable error in a service core moves its role, resets a bulkhead or resets the device (R448) -/
  | serviceCoreError
  /-- ILLEGAL_ENTRY: Execution that begins at a word of kind 11 raises illegal entry with TRAPPC and TRAPVAL at that word (R75) -/
  | illegalEntry
  /-- FETCH_FAULT: An instruction fetch that does not translate or is refused raises the fetch fault at the faulting address (R158) -/
  | fetchFault
  /-- BOUNDED_STREAM_LIMIT: A bounded stream access whose wait reaches limit × 16 clk without a vector or slot writes 1 to sd and retires (R305) -/
  | boundedStreamLimit
  deriving DecidableEq, Repr

end Sys2Proof
end

