-- ==== Sys2Proof/WellFormed.lean ====
section
/-! DEFINITION. Well-formed instructions: the static operand rules of R53, R79, R93, R96, R242 whose breach makes an
encoding illegal (R97). The rules that depend on tags are checked when an entry executes (R242). -/

namespace Sys2Proof

/-- A static rounding field holds 0-4 or 7 (R53). -/
def rmOk (rm : BitVec 3) : Bool := rm != 5 && rm != 6

/-- Does register `r` lie in the group of `n` registers from `base`? (R242) -/
def inGroup (r base : VReg) (n : Nat) : Bool :=
  base.toNat ≤ r.toNat && r.toNat < base.toNat + n

/-- A mask that an instruction writes is not k0 (R79). -/
def kdOk (d : KReg) : Bool := d != 0

/-- The static rules of one instruction (R97). Steps without an encoding have no operand fields to check. -/
def Instr.wf : Instr → Bool
  | .add _ _ _ => true
  | .sub _ _ _ => true
  | .and _ _ _ => true
  | .or _ _ _ => true
  | .xor _ _ _ => true
  | .andn _ _ _ => true
  | .orn _ _ _ => true
  | .sll _ _ _ => true
  | .srl _ _ _ => true
  | .sra _ _ _ => true
  | .rol _ _ _ => true
  | .ror _ _ _ => true
  | .slt _ _ _ => true
  | .sltu _ _ _ => true
  | .min _ _ _ => true
  | .max _ _ _ => true
  | .minu _ _ _ => true
  | .maxu _ _ _ => true
  | .mul _ _ _ => true
  | .mulh _ _ _ => true
  | .mulhu _ _ _ => true
  | .div _ _ _ => true
  | .divu _ _ _ => true
  | .rem _ _ _ => true
  | .remu _ _ _ => true
  | .clz _ _ => true
  | .ctz _ _ => true
  | .popc _ _ => true
  | .addw _ _ _ => true
  | .subw _ _ _ => true
  | .mulw _ _ _ => true
  | .addi _ _ _ => true
  | .andi _ _ _ => true
  | .ori _ _ _ => true
  | .xori _ _ _ => true
  | .slti _ _ _ => true
  | .sltiu _ _ _ => true
  | .slli _ _ _ => true
  | .srli _ _ _ => true
  | .srai _ _ _ => true
  | .rori _ _ _ => true
  | .lhi _ _ => true
  | .apc _ _ => true
  | .lb _ _ _ => true
  | .lh _ _ _ => true
  | .lw _ _ _ => true
  | .ld _ _ _ => true
  | .lbu _ _ _ => true
  | .lhu _ _ _ => true
  | .lwu _ _ _ => true
  | .ldsync _ _ _ => true
  | .sb _ _ _ => true
  | .sh _ _ _ => true
  | .sw _ _ _ => true
  | .sd _ _ _ => true
  | .fclr _ _ => true
  | .amoSwap _ _ _ _ _ _ => true
  | .amoAdd _ _ _ _ _ _ => true
  | .amoAnd _ _ _ _ _ _ => true
  | .amoOr _ _ _ _ _ _ => true
  | .amoXor _ _ _ _ _ _ => true
  | .amoMin _ _ _ _ _ _ => true
  | .amoMax _ _ _ _ _ _ => true
  | .amoMinu _ _ _ _ _ _ => true
  | .amoMaxu _ _ _ _ _ _ => true
  | .amoCas _ _ _ _ _ _ => true
  | .amoFadd _ _ _ _ _ _ => true
  | .fence _ _ _ => true
  | .beq _ _ _ => true
  | .bne _ _ _ => true
  | .blt _ _ _ => true
  | .bge _ _ _ => true
  | .bltu _ _ _ => true
  | .bgeu _ _ _ => true
  | .jal _ _ => true
  | .jalr _ _ _ => true
  | .getc _ _ => true
  | .putc _ _ => true
  | .trapSoft _ => true
  | .tlbi _ _ => true
  | .launch _ _ _ => true
  | .testScan _ _ => true
  | .swb _ _ => true
  | .dfin _ _ => true
  | .route _ _ => true
  | .barDef _ _ => true
  | .barArr _ => true
  | .barWait _ => true
  | .barAw _ => true
  | .semSig _ _ => true
  | .semWait _ _ => true
  | .semPoll _ _ => true
  | .postCall _ _ _ => true
  | .awaitCall _ _ => true
  | .probeCall _ _ => true
  | .otok _ _ => true
  | .xflush _ => true
  | .vadd _ _ _ _ => true
  | .vsub _ _ _ _ => true
  | .vrsub _ _ _ _ => true
  | .vmul _ _ _ _ => true
  | .vmulh _ _ _ _ => true
  | .vdiv _ _ _ _ => true
  | .vrem _ _ _ _ => true
  | .vavg _ _ _ _ => true
  | .vmin _ _ _ _ => true
  | .vmax _ _ _ _ => true
  | .vand _ _ _ _ => true
  | .vor _ _ _ _ => true
  | .vxor _ _ _ _ => true
  | .vsll _ _ _ _ => true
  | .vsrl _ _ _ _ => true
  | .vsra _ _ _ _ => true
  | .vadds _ _ _ _ => true
  | .vsubs _ _ _ _ => true
  | .vwmul d a b _ => d.toNat % 2 == 0 && !inGroup a d 2 && !inGroup b d 2
  | .vdot4 d a b _ => d != a && d != b
  | .vceq d _ _ _ => kdOk d
  | .vcne d _ _ _ => kdOk d
  | .vclt d _ _ _ => kdOk d
  | .vcle d _ _ _ => kdOk d
  | .vsel _ _ _ _ => true
  | .vmv _ _ _ => true
  | .vabs _ _ _ => true
  | .vneg _ _ _ => true
  | .vsqrt _ _ _ => true
  | .vrcp _ _ _ => true
  | .vexp2 _ _ _ => true
  | .vlog2 _ _ _ => true
  | .vaddVs _ _ _ _ => true
  | .vsubVs _ _ _ _ => true
  | .vrsubVs _ _ _ _ => true
  | .vmulVs _ _ _ _ => true
  | .vmulhVs _ _ _ _ => true
  | .vdivVs _ _ _ _ => true
  | .vremVs _ _ _ _ => true
  | .vavgVs _ _ _ _ => true
  | .vminVs _ _ _ _ => true
  | .vmaxVs _ _ _ _ => true
  | .vandVs _ _ _ _ => true
  | .vorVs _ _ _ _ => true
  | .vxorVs _ _ _ _ => true
  | .vsllVs _ _ _ _ => true
  | .vsrlVs _ _ _ _ => true
  | .vsraVs _ _ _ _ => true
  | .mif _ => true
  | .mbrk _ => true
  | .mand d _ _ => kdOk d
  | .mor d _ _ => kdOk d
  | .mxor d _ _ => kdOk d
  | .mnot d _ => kdOk d
  | .vslideup d a _ _ => d != a
  | .vslidedn d a _ _ => d != a
  | .vperm d a b _ => d != a && d != b
  | .vredO _ _ _ _ => true
  | .vredR _ _ _ _ => true
  | .vscan _ _ _ _ => true
  | .vrecMul _ _ _ _ => true
  | .vrecMax _ _ _ _ => true
  | .vext _ _ _ => true
  | .vld _ _ _ => true
  | .vlds _ _ _ _ => true
  | .vldff _ _ _ => true
  | .vpop _ _ _ => true
  | .vst _ _ _ => true
  | .vsts _ _ _ _ => true
  | .vpush _ _ _ => true
  | .vsetl _ _ _ => true
  | .vtag _ _ => true
  | .fadd _ _ _ _ r => rmOk r
  | .fsub _ _ _ _ r => rmOk r
  | .fmul _ _ _ _ r => rmOk r
  | .fdiv _ _ _ _ r => rmOk r
  | .fsqrt _ _ _ r => rmOk r
  | .fmin _ _ _ _ => true
  | .fmax _ _ _ _ => true
  | .feq _ _ _ _ => true
  | .flt _ _ _ _ => true
  | .fle _ _ _ _ => true
  | .fclass _ _ _ => true
  | .fcvt _ _ g c _ r => rmOk r && (g == 0 || 4 ≤ c.toNat)
  | .nop _ => true
  | .pfL1 _ => true
  | .pfL2 _ => true
  | .pfSt _ => true
  | .limm _ _ => true
  | .lbL _ _ _ => true
  | .lhL _ _ _ => true
  | .lwL _ _ _ => true
  | .ldL _ _ _ => true
  | .lbuL _ _ _ => true
  | .lhuL _ _ _ => true
  | .lwuL _ _ _ => true
  | .ldsyncL _ _ _ => true
  | .sbL _ _ _ => true
  | .shL _ _ _ => true
  | .swL _ _ _ => true
  | .sdL _ _ _ => true
  | .fclrL _ _ => true
  | .jalL _ _ => true
  | .fma _ _ _ _ _ rm => rmOk rm
  | .fms _ _ _ _ _ rm => rmOk rm
  | .fnma _ _ _ _ _ rm => rmOk rm
  | .fnms _ _ _ _ _ rm => rmOk rm
  | .vfma _ _ _ _ _ rm => rmOk rm
  | .vfms _ _ _ _ _ rm => rmOk rm
  | .vfnma _ _ _ _ _ rm => rmOk rm
  | .vfnms _ _ _ _ _ rm => rmOk rm
  | .vmopO d a b _ _ => d.toNat % 8 == 0 && !inGroup a d 8 && !inGroup b d 8
  | .vmopR d a b _ _ => d.toNat % 8 == 0 && !inGroup a d 8 && !inGroup b d 8
  | .vmzero d => d.toNat % 8 == 0
  | .vmrd d => d.toNat % 8 == 0
  | .vldx _ _ _ _ _ => true
  | .vstx _ _ _ _ _ => true
  | .vstxo _ _ _ _ _ => true
  | .vamoSwap d _ _ _ _ _ _ _ ret => ret == 1 || d == 0
  | .vamoAdd d _ _ _ _ _ _ _ ret => ret == 1 || d == 0
  | .vamoAnd d _ _ _ _ _ _ _ ret => ret == 1 || d == 0
  | .vamoOr d _ _ _ _ _ _ _ ret => ret == 1 || d == 0
  | .vamoXor d _ _ _ _ _ _ _ ret => ret == 1 || d == 0
  | .vamoMin d _ _ _ _ _ _ _ ret => ret == 1 || d == 0
  | .vamoMax d _ _ _ _ _ _ _ ret => ret == 1 || d == 0
  | .vamoMinu d _ _ _ _ _ _ _ ret => ret == 1 || d == 0
  | .vamoMaxu d _ _ _ _ _ _ _ ret => ret == 1 || d == 0
  | .vamoFadd d _ _ _ _ _ _ _ ret => ret == 1 || d == 0
  | .vplane _ _ _ _ => true
  | .vcvt _ _ _ rm _ => rmOk rm
  | .vredmax _ _ _ => true
  | .vredmin _ _ _ => true
  | .vins _ _ _ => true
  | .vbcast _ _ => true
  | .viota _ => true
  | .vcompress d a _ => d != a
  | .mpopc _ _ => true
  | .mfirst _ _ => true
  | .vclz _ _ => true
  | .vpopc _ _ => true
  | .postv _ _ va nm1 _ => va.toNat + nm1.toNat ≤ 63
  | .vpopNw _ _ _ _ _ => true
  | .vpushNw _ _ _ _ _ => true
  | .hint _ code => 4 ≤ code.toNat
  | .twoWordHint _ _ => true
  | .illegalInstruction _ _ => true
  | .tret => true
  | .idle => true
  | .endStrand => true
  | .yield => true
  | .brk => true
  | .tlbia => true
  | .ion => true
  | .ioff => true
  | .melse => true
  | .mend => true
  | .asyncTrapEntry => true
  | .wdogExpiry => true
  | .vlenWrite => true
  | .vtypeWrite => true
  | .fflagsWrite => true
  | .portenWrite => true
  | .vbackWrite => true
  | .vqctlDrop => true
  | .detBackingWrite => true
  | .lqbaseWrite => true
  | .lqdoor => true
  | .reloadRcb => true
  | .killRcb => true
  | .attest => true
  | .xgrant => true
  | .vfirq => true
  | .createPart => true
  | .destroyPart => true
  | .preset => true
  | .bhreset => true
  | .bhpower => true
  | .winopen => true
  | .winclose => true
  | .s2inv => true
  | .setrcb => true
  | .monupd => true
  | .poladd => true
  | .poldel => true
  | .withdrawCore => true
  | .returnCore => true
  | .removeCore => true
  | .dispatchSelection => true
  | .launchRecordTake => true
  | .launchStart => true
  | .fenceRecord => true
  | .strandSwitchOut => true
  | .strandResume => true
  | .forcedSave => true
  | .poolExhausted => true
  | .periodBoundary => true
  | .parkedWordMoveIn => true
  | .barrierTimeout => true
  | .matrixJob => true
  | .teCopy => true
  | .teGather => true
  | .teMcast => true
  | .tePut => true
  | .tePutadd => true
  | .teFeedin => true
  | .teFeedout => true
  | .feedVectorMove => true
  | .inboundPut => true
  | .seSort => true
  | .rbeRaster => true
  | .rbeOpen => true
  | .rbeClose => true
  | .rbeCancel => true
  | .rbeSeqreset => true
  | .fragmentBatch => true
  | .batchCommit => true
  | .gapTimeout => true
  | .txuSample => true
  | .rtBind => true
  | .rtUnbind => true
  | .rtDrop => true
  | .rtTrace => true
  | .rtReply => true
  | .rayBatchRelease => true
  | .collectionOpen => true
  | .collectionClose => true
  | .rouDeposit => true
  | .rouBatchRelease => true
  | .hostIpaAccess => true
  | .pfHypAccess => true
  | .pfdoor => true
  | .vfdoor => true
  | .vfsup => true
  | .linkLoss => true
  | .deviceReset => true
  | .railPllFault => true
  | .bulkheadUncorrectableError => true
  | .dispatcherWatchdog => true
  | .bulkheadResetComplete => true
  | .powerOnComplete => true
  | .scrubComplete => true
  | .serviceCoreError => true
  | .illegalEntry => true
  | .fetchFault => true
  | .boundedStreamLimit => true

/-- Does the row have an encoding of its own (R77, R95)? The other rows are events and register writes. -/
def Instr.encodable : Instr → Bool
  | .add _ _ _ => true
  | .sub _ _ _ => true
  | .and _ _ _ => true
  | .or _ _ _ => true
  | .xor _ _ _ => true
  | .andn _ _ _ => true
  | .orn _ _ _ => true
  | .sll _ _ _ => true
  | .srl _ _ _ => true
  | .sra _ _ _ => true
  | .rol _ _ _ => true
  | .ror _ _ _ => true
  | .slt _ _ _ => true
  | .sltu _ _ _ => true
  | .min _ _ _ => true
  | .max _ _ _ => true
  | .minu _ _ _ => true
  | .maxu _ _ _ => true
  | .mul _ _ _ => true
  | .mulh _ _ _ => true
  | .mulhu _ _ _ => true
  | .div _ _ _ => true
  | .divu _ _ _ => true
  | .rem _ _ _ => true
  | .remu _ _ _ => true
  | .clz _ _ => true
  | .ctz _ _ => true
  | .popc _ _ => true
  | .addw _ _ _ => true
  | .subw _ _ _ => true
  | .mulw _ _ _ => true
  | .addi _ _ _ => true
  | .andi _ _ _ => true
  | .ori _ _ _ => true
  | .xori _ _ _ => true
  | .slti _ _ _ => true
  | .sltiu _ _ _ => true
  | .slli _ _ _ => true
  | .srli _ _ _ => true
  | .srai _ _ _ => true
  | .rori _ _ _ => true
  | .lhi _ _ => true
  | .apc _ _ => true
  | .lb _ _ _ => true
  | .lh _ _ _ => true
  | .lw _ _ _ => true
  | .ld _ _ _ => true
  | .lbu _ _ _ => true
  | .lhu _ _ _ => true
  | .lwu _ _ _ => true
  | .ldsync _ _ _ => true
  | .sb _ _ _ => true
  | .sh _ _ _ => true
  | .sw _ _ _ => true
  | .sd _ _ _ => true
  | .fclr _ _ => true
  | .amoSwap _ _ _ _ _ _ => true
  | .amoAdd _ _ _ _ _ _ => true
  | .amoAnd _ _ _ _ _ _ => true
  | .amoOr _ _ _ _ _ _ => true
  | .amoXor _ _ _ _ _ _ => true
  | .amoMin _ _ _ _ _ _ => true
  | .amoMax _ _ _ _ _ _ => true
  | .amoMinu _ _ _ _ _ _ => true
  | .amoMaxu _ _ _ _ _ _ => true
  | .amoCas _ _ _ _ _ _ => true
  | .amoFadd _ _ _ _ _ _ => true
  | .fence _ _ _ => true
  | .beq _ _ _ => true
  | .bne _ _ _ => true
  | .blt _ _ _ => true
  | .bge _ _ _ => true
  | .bltu _ _ _ => true
  | .bgeu _ _ _ => true
  | .jal _ _ => true
  | .jalr _ _ _ => true
  | .getc _ _ => true
  | .putc _ _ => true
  | .trapSoft _ => true
  | .tlbi _ _ => true
  | .launch _ _ _ => true
  | .testScan _ _ => true
  | .swb _ _ => true
  | .dfin _ _ => true
  | .route _ _ => true
  | .barDef _ _ => true
  | .barArr _ => true
  | .barWait _ => true
  | .barAw _ => true
  | .semSig _ _ => true
  | .semWait _ _ => true
  | .semPoll _ _ => true
  | .postCall _ _ _ => true
  | .awaitCall _ _ => true
  | .probeCall _ _ => true
  | .otok _ _ => true
  | .xflush _ => true
  | .vadd _ _ _ _ => true
  | .vsub _ _ _ _ => true
  | .vrsub _ _ _ _ => true
  | .vmul _ _ _ _ => true
  | .vmulh _ _ _ _ => true
  | .vdiv _ _ _ _ => true
  | .vrem _ _ _ _ => true
  | .vavg _ _ _ _ => true
  | .vmin _ _ _ _ => true
  | .vmax _ _ _ _ => true
  | .vand _ _ _ _ => true
  | .vor _ _ _ _ => true
  | .vxor _ _ _ _ => true
  | .vsll _ _ _ _ => true
  | .vsrl _ _ _ _ => true
  | .vsra _ _ _ _ => true
  | .vadds _ _ _ _ => true
  | .vsubs _ _ _ _ => true
  | .vwmul _ _ _ _ => true
  | .vdot4 _ _ _ _ => true
  | .vceq _ _ _ _ => true
  | .vcne _ _ _ _ => true
  | .vclt _ _ _ _ => true
  | .vcle _ _ _ _ => true
  | .vsel _ _ _ _ => true
  | .vmv _ _ _ => true
  | .vabs _ _ _ => true
  | .vneg _ _ _ => true
  | .vsqrt _ _ _ => true
  | .vrcp _ _ _ => true
  | .vexp2 _ _ _ => true
  | .vlog2 _ _ _ => true
  | .vaddVs _ _ _ _ => true
  | .vsubVs _ _ _ _ => true
  | .vrsubVs _ _ _ _ => true
  | .vmulVs _ _ _ _ => true
  | .vmulhVs _ _ _ _ => true
  | .vdivVs _ _ _ _ => true
  | .vremVs _ _ _ _ => true
  | .vavgVs _ _ _ _ => true
  | .vminVs _ _ _ _ => true
  | .vmaxVs _ _ _ _ => true
  | .vandVs _ _ _ _ => true
  | .vorVs _ _ _ _ => true
  | .vxorVs _ _ _ _ => true
  | .vsllVs _ _ _ _ => true
  | .vsrlVs _ _ _ _ => true
  | .vsraVs _ _ _ _ => true
  | .mif _ => true
  | .mbrk _ => true
  | .mand _ _ _ => true
  | .mor _ _ _ => true
  | .mxor _ _ _ => true
  | .mnot _ _ => true
  | .vslideup _ _ _ _ => true
  | .vslidedn _ _ _ _ => true
  | .vperm _ _ _ _ => true
  | .vredO _ _ _ _ => true
  | .vredR _ _ _ _ => true
  | .vscan _ _ _ _ => true
  | .vrecMul _ _ _ _ => true
  | .vrecMax _ _ _ _ => true
  | .vext _ _ _ => true
  | .vld _ _ _ => true
  | .vlds _ _ _ _ => true
  | .vldff _ _ _ => true
  | .vpop _ _ _ => true
  | .vst _ _ _ => true
  | .vsts _ _ _ _ => true
  | .vpush _ _ _ => true
  | .vsetl _ _ _ => true
  | .vtag _ _ => true
  | .fadd _ _ _ _ _ => true
  | .fsub _ _ _ _ _ => true
  | .fmul _ _ _ _ _ => true
  | .fdiv _ _ _ _ _ => true
  | .fsqrt _ _ _ _ => true
  | .fmin _ _ _ _ => true
  | .fmax _ _ _ _ => true
  | .feq _ _ _ _ => true
  | .flt _ _ _ _ => true
  | .fle _ _ _ _ => true
  | .fclass _ _ _ => true
  | .fcvt _ _ _ _ _ _ => true
  | .nop _ => true
  | .pfL1 _ => true
  | .pfL2 _ => true
  | .pfSt _ => true
  | .limm _ _ => true
  | .lbL _ _ _ => true
  | .lhL _ _ _ => true
  | .lwL _ _ _ => true
  | .ldL _ _ _ => true
  | .lbuL _ _ _ => true
  | .lhuL _ _ _ => true
  | .lwuL _ _ _ => true
  | .ldsyncL _ _ _ => true
  | .sbL _ _ _ => true
  | .shL _ _ _ => true
  | .swL _ _ _ => true
  | .sdL _ _ _ => true
  | .fclrL _ _ => true
  | .jalL _ _ => true
  | .fma _ _ _ _ _ _ => true
  | .fms _ _ _ _ _ _ => true
  | .fnma _ _ _ _ _ _ => true
  | .fnms _ _ _ _ _ _ => true
  | .vfma _ _ _ _ _ _ => true
  | .vfms _ _ _ _ _ _ => true
  | .vfnma _ _ _ _ _ _ => true
  | .vfnms _ _ _ _ _ _ => true
  | .vmopO _ _ _ _ _ => true
  | .vmopR _ _ _ _ _ => true
  | .vmzero _ => true
  | .vmrd _ => true
  | .vldx _ _ _ _ _ => true
  | .vstx _ _ _ _ _ => true
  | .vstxo _ _ _ _ _ => true
  | .vamoSwap _ _ _ _ _ _ _ _ _ => true
  | .vamoAdd _ _ _ _ _ _ _ _ _ => true
  | .vamoAnd _ _ _ _ _ _ _ _ _ => true
  | .vamoOr _ _ _ _ _ _ _ _ _ => true
  | .vamoXor _ _ _ _ _ _ _ _ _ => true
  | .vamoMin _ _ _ _ _ _ _ _ _ => true
  | .vamoMax _ _ _ _ _ _ _ _ _ => true
  | .vamoMinu _ _ _ _ _ _ _ _ _ => true
  | .vamoMaxu _ _ _ _ _ _ _ _ _ => true
  | .vamoFadd _ _ _ _ _ _ _ _ _ => true
  | .vplane _ _ _ _ => true
  | .vcvt _ _ _ _ _ => true
  | .vredmax _ _ _ => true
  | .vredmin _ _ _ => true
  | .vins _ _ _ => true
  | .vbcast _ _ => true
  | .viota _ => true
  | .vcompress _ _ _ => true
  | .mpopc _ _ => true
  | .mfirst _ _ => true
  | .vclz _ _ => true
  | .vpopc _ _ => true
  | .postv _ _ _ _ _ => true
  | .vpopNw _ _ _ _ _ => true
  | .vpushNw _ _ _ _ _ => true
  | .hint _ _ => true
  | .twoWordHint _ _ => true
  | .illegalInstruction _ _ => false
  | .tret => true
  | .idle => true
  | .endStrand => true
  | .yield => true
  | .brk => true
  | .tlbia => true
  | .ion => true
  | .ioff => true
  | .melse => true
  | .mend => true
  | .asyncTrapEntry => false
  | .wdogExpiry => false
  | .vlenWrite => false
  | .vtypeWrite => false
  | .fflagsWrite => false
  | .portenWrite => false
  | .vbackWrite => false
  | .vqctlDrop => false
  | .detBackingWrite => false
  | .lqbaseWrite => false
  | .lqdoor => false
  | .reloadRcb => false
  | .killRcb => false
  | .attest => false
  | .xgrant => false
  | .vfirq => false
  | .createPart => false
  | .destroyPart => false
  | .preset => false
  | .bhreset => false
  | .bhpower => false
  | .winopen => false
  | .winclose => false
  | .s2inv => false
  | .setrcb => false
  | .monupd => false
  | .poladd => false
  | .poldel => false
  | .withdrawCore => false
  | .returnCore => false
  | .removeCore => false
  | .dispatchSelection => false
  | .launchRecordTake => false
  | .launchStart => false
  | .fenceRecord => false
  | .strandSwitchOut => false
  | .strandResume => false
  | .forcedSave => false
  | .poolExhausted => false
  | .periodBoundary => false
  | .parkedWordMoveIn => false
  | .barrierTimeout => false
  | .matrixJob => false
  | .teCopy => false
  | .teGather => false
  | .teMcast => false
  | .tePut => false
  | .tePutadd => false
  | .teFeedin => false
  | .teFeedout => false
  | .feedVectorMove => false
  | .inboundPut => false
  | .seSort => false
  | .rbeRaster => false
  | .rbeOpen => false
  | .rbeClose => false
  | .rbeCancel => false
  | .rbeSeqreset => false
  | .fragmentBatch => false
  | .batchCommit => false
  | .gapTimeout => false
  | .txuSample => false
  | .rtBind => false
  | .rtUnbind => false
  | .rtDrop => false
  | .rtTrace => false
  | .rtReply => false
  | .rayBatchRelease => false
  | .collectionOpen => false
  | .collectionClose => false
  | .rouDeposit => false
  | .rouBatchRelease => false
  | .hostIpaAccess => false
  | .pfHypAccess => false
  | .pfdoor => false
  | .vfdoor => false
  | .vfsup => false
  | .linkLoss => false
  | .deviceReset => false
  | .railPllFault => false
  | .bulkheadUncorrectableError => false
  | .dispatcherWatchdog => false
  | .bulkheadResetComplete => false
  | .powerOnComplete => false
  | .scrubComplete => false
  | .serviceCoreError => false
  | .illegalEntry => false
  | .fetchFault => false
  | .boundedStreamLimit => false

end Sys2Proof
end

