-- ==== Sys2Proof/Decode.lean ====
section
/-! DEFINITION. The decoder, total on any bytes (R73-R75, R77-R97), and after it the encoder, both from the encoding
tables of the spec (R77, R80-R96). -/

namespace Sys2Proof

/-- Field [lo + n - 1 : lo] of an instruction word (R3). -/
def fld (w : IWord) (lo n : Nat) : BitVec n := w.extractLsb' lo n

/-- The major opcode, bits [7:2] (R77, R95). -/
def major (w : IWord) : BitVec 6 := fld w 2 6

/-- The kind of a word, bits [1:0] (R73). -/
def wordKind (w : IWord) : BitVec 2 := fld w 0 2

/-- The instructions of one-word major 0x01 (R80). -/
def decodeMajor01 (w : IWord) : Option Instr :=
  if fld w 23 9 = 0 then some (.add (fld w 8 5) (fld w 13 5) (fld w 18 5))
  else if fld w 23 9 = 1 then some (.sub (fld w 8 5) (fld w 13 5) (fld w 18 5))
  else if fld w 23 9 = 2 then some (.and (fld w 8 5) (fld w 13 5) (fld w 18 5))
  else if fld w 23 9 = 3 then some (.or (fld w 8 5) (fld w 13 5) (fld w 18 5))
  else if fld w 23 9 = 4 then some (.xor (fld w 8 5) (fld w 13 5) (fld w 18 5))
  else if fld w 23 9 = 5 then some (.andn (fld w 8 5) (fld w 13 5) (fld w 18 5))
  else if fld w 23 9 = 6 then some (.orn (fld w 8 5) (fld w 13 5) (fld w 18 5))
  else if fld w 23 9 = 7 then some (.sll (fld w 8 5) (fld w 13 5) (fld w 18 5))
  else if fld w 23 9 = 8 then some (.srl (fld w 8 5) (fld w 13 5) (fld w 18 5))
  else if fld w 23 9 = 9 then some (.sra (fld w 8 5) (fld w 13 5) (fld w 18 5))
  else if fld w 23 9 = 10 then some (.rol (fld w 8 5) (fld w 13 5) (fld w 18 5))
  else if fld w 23 9 = 11 then some (.ror (fld w 8 5) (fld w 13 5) (fld w 18 5))
  else if fld w 23 9 = 12 then some (.slt (fld w 8 5) (fld w 13 5) (fld w 18 5))
  else if fld w 23 9 = 13 then some (.sltu (fld w 8 5) (fld w 13 5) (fld w 18 5))
  else if fld w 23 9 = 14 then some (.min (fld w 8 5) (fld w 13 5) (fld w 18 5))
  else if fld w 23 9 = 15 then some (.max (fld w 8 5) (fld w 13 5) (fld w 18 5))
  else if fld w 23 9 = 16 then some (.minu (fld w 8 5) (fld w 13 5) (fld w 18 5))
  else if fld w 23 9 = 17 then some (.maxu (fld w 8 5) (fld w 13 5) (fld w 18 5))
  else if fld w 23 9 = 18 then some (.mul (fld w 8 5) (fld w 13 5) (fld w 18 5))
  else if fld w 23 9 = 19 then some (.mulh (fld w 8 5) (fld w 13 5) (fld w 18 5))
  else if fld w 23 9 = 20 then some (.mulhu (fld w 8 5) (fld w 13 5) (fld w 18 5))
  else if fld w 23 9 = 21 then some (.div (fld w 8 5) (fld w 13 5) (fld w 18 5))
  else if fld w 23 9 = 22 then some (.divu (fld w 8 5) (fld w 13 5) (fld w 18 5))
  else if fld w 23 9 = 23 then some (.rem (fld w 8 5) (fld w 13 5) (fld w 18 5))
  else if fld w 23 9 = 24 then some (.remu (fld w 8 5) (fld w 13 5) (fld w 18 5))
  else if fld w 18 14 = 800 then some (.clz (fld w 8 5) (fld w 13 5))
  else if fld w 18 14 = 832 then some (.ctz (fld w 8 5) (fld w 13 5))
  else if fld w 18 14 = 864 then some (.popc (fld w 8 5) (fld w 13 5))
  else if fld w 23 9 = 28 then some (.addw (fld w 8 5) (fld w 13 5) (fld w 18 5))
  else if fld w 23 9 = 29 then some (.subw (fld w 8 5) (fld w 13 5) (fld w 18 5))
  else if fld w 23 9 = 30 then some (.mulw (fld w 8 5) (fld w 13 5) (fld w 18 5))
  else none

/-- The instructions of one-word major 0x02 (R80). -/
def decodeMajor02 (w : IWord) : Option Instr :=
  some (.addi (fld w 8 5) (fld w 13 5) (fld w 18 14))

/-- The instructions of one-word major 0x03 (R80). -/
def decodeMajor03 (w : IWord) : Option Instr :=
  some (.andi (fld w 8 5) (fld w 13 5) (fld w 18 14))

/-- The instructions of one-word major 0x04 (R80). -/
def decodeMajor04 (w : IWord) : Option Instr :=
  some (.ori (fld w 8 5) (fld w 13 5) (fld w 18 14))

/-- The instructions of one-word major 0x05 (R80). -/
def decodeMajor05 (w : IWord) : Option Instr :=
  some (.xori (fld w 8 5) (fld w 13 5) (fld w 18 14))

/-- The instructions of one-word major 0x06 (R80). -/
def decodeMajor06 (w : IWord) : Option Instr :=
  some (.slti (fld w 8 5) (fld w 13 5) (fld w 18 14))

/-- The instructions of one-word major 0x07 (R80). -/
def decodeMajor07 (w : IWord) : Option Instr :=
  some (.sltiu (fld w 8 5) (fld w 13 5) (fld w 18 14))

/-- The instructions of one-word major 0x08 (R80). -/
def decodeMajor08 (w : IWord) : Option Instr :=
  if fld w 24 8 = 0 then some (.slli (fld w 8 5) (fld w 13 5) (fld w 18 6))
  else if fld w 24 8 = 1 then some (.srli (fld w 8 5) (fld w 13 5) (fld w 18 6))
  else if fld w 24 8 = 2 then some (.srai (fld w 8 5) (fld w 13 5) (fld w 18 6))
  else if fld w 24 8 = 3 then some (.rori (fld w 8 5) (fld w 13 5) (fld w 18 6))
  else none

/-- The instructions of one-word major 0x09 (R80). -/
def decodeMajor09 (w : IWord) : Option Instr :=
  some (.lhi (fld w 8 5) (fld w 13 19))

/-- The instructions of one-word major 0x0A (R80). -/
def decodeMajor0A (w : IWord) : Option Instr :=
  some (.apc (fld w 8 5) (fld w 13 19))

/-- The instructions of one-word major 0x10 (R80). -/
def decodeMajor10 (w : IWord) : Option Instr :=
  if fld w 18 3 = 0 then some (.lb (fld w 8 5) (fld w 13 5) (fld w 21 11))
  else if fld w 18 3 = 1 then some (.lh (fld w 8 5) (fld w 13 5) (fld w 21 11))
  else if fld w 18 3 = 2 then some (.lw (fld w 8 5) (fld w 13 5) (fld w 21 11))
  else if fld w 18 3 = 3 then some (.ld (fld w 8 5) (fld w 13 5) (fld w 21 11))
  else if fld w 18 3 = 4 then some (.lbu (fld w 8 5) (fld w 13 5) (fld w 21 11))
  else if fld w 18 3 = 5 then some (.lhu (fld w 8 5) (fld w 13 5) (fld w 21 11))
  else if fld w 18 3 = 6 then some (.lwu (fld w 8 5) (fld w 13 5) (fld w 21 11))
  else if fld w 18 3 = 7 then some (.ldsync (fld w 8 5) (fld w 13 5) (fld w 21 11))
  else none

/-- The instructions of one-word major 0x11 (R80). -/
def decodeMajor11 (w : IWord) : Option Instr :=
  if fld w 18 3 = 0 then some (.sb (fld w 8 5) (fld w 13 5) (fld w 21 11))
  else if fld w 18 3 = 1 then some (.sh (fld w 8 5) (fld w 13 5) (fld w 21 11))
  else if fld w 18 3 = 2 then some (.sw (fld w 8 5) (fld w 13 5) (fld w 21 11))
  else if fld w 18 3 = 3 then some (.sd (fld w 8 5) (fld w 13 5) (fld w 21 11))
  else if fld w 8 5 = 0 ∧ fld w 18 3 = 4 then some (.fclr (fld w 13 5) (fld w 21 11))
  else none

/-- The instructions of one-word major 0x12 (R80). -/
def decodeMajor12 (w : IWord) : Option Instr :=
  if fld w 23 4 = 0 then some (.amoSwap (fld w 8 5) (fld w 13 5) (fld w 18 5) (fld w 29 2) (fld w 27 2) (fld w 31 1))
  else if fld w 23 4 = 1 then some (.amoAdd (fld w 8 5) (fld w 13 5) (fld w 18 5) (fld w 29 2) (fld w 27 2) (fld w 31 1))
  else if fld w 23 4 = 2 then some (.amoAnd (fld w 8 5) (fld w 13 5) (fld w 18 5) (fld w 29 2) (fld w 27 2) (fld w 31 1))
  else if fld w 23 4 = 3 then some (.amoOr (fld w 8 5) (fld w 13 5) (fld w 18 5) (fld w 29 2) (fld w 27 2) (fld w 31 1))
  else if fld w 23 4 = 4 then some (.amoXor (fld w 8 5) (fld w 13 5) (fld w 18 5) (fld w 29 2) (fld w 27 2) (fld w 31 1))
  else if fld w 23 4 = 5 then some (.amoMin (fld w 8 5) (fld w 13 5) (fld w 18 5) (fld w 29 2) (fld w 27 2) (fld w 31 1))
  else if fld w 23 4 = 6 then some (.amoMax (fld w 8 5) (fld w 13 5) (fld w 18 5) (fld w 29 2) (fld w 27 2) (fld w 31 1))
  else if fld w 23 4 = 7 then some (.amoMinu (fld w 8 5) (fld w 13 5) (fld w 18 5) (fld w 29 2) (fld w 27 2) (fld w 31 1))
  else if fld w 23 4 = 8 then some (.amoMaxu (fld w 8 5) (fld w 13 5) (fld w 18 5) (fld w 29 2) (fld w 27 2) (fld w 31 1))
  else if fld w 23 4 = 9 then some (.amoCas (fld w 8 5) (fld w 13 5) (fld w 18 5) (fld w 29 2) (fld w 27 2) (fld w 31 1))
  else if fld w 23 4 = 10 then some (.amoFadd (fld w 8 5) (fld w 13 5) (fld w 18 5) (fld w 29 2) (fld w 27 2) (fld w 31 1))
  else none

/-- The instructions of one-word major 0x13 (R80). -/
def decodeMajor13 (w : IWord) : Option Instr :=
  if fld w 8 10 = 0 ∧ fld w 28 4 = 0 then some (.fence (fld w 22 4) (fld w 18 4) (fld w 26 2))
  else none

/-- The instructions of one-word major 0x14 (R80). -/
def decodeMajor14 (w : IWord) : Option Instr :=
  some (.beq (fld w 8 5) (fld w 13 5) (fld w 18 14))

/-- The instructions of one-word major 0x15 (R80). -/
def decodeMajor15 (w : IWord) : Option Instr :=
  some (.bne (fld w 8 5) (fld w 13 5) (fld w 18 14))

/-- The instructions of one-word major 0x16 (R80). -/
def decodeMajor16 (w : IWord) : Option Instr :=
  some (.blt (fld w 8 5) (fld w 13 5) (fld w 18 14))

/-- The instructions of one-word major 0x17 (R80). -/
def decodeMajor17 (w : IWord) : Option Instr :=
  some (.bge (fld w 8 5) (fld w 13 5) (fld w 18 14))

/-- The instructions of one-word major 0x18 (R80). -/
def decodeMajor18 (w : IWord) : Option Instr :=
  some (.bltu (fld w 8 5) (fld w 13 5) (fld w 18 14))

/-- The instructions of one-word major 0x19 (R80). -/
def decodeMajor19 (w : IWord) : Option Instr :=
  some (.bgeu (fld w 8 5) (fld w 13 5) (fld w 18 14))

/-- The instructions of one-word major 0x1A (R80). -/
def decodeMajor1A (w : IWord) : Option Instr :=
  some (.jal (fld w 8 5) (fld w 13 19))

/-- The instructions of one-word major 0x1B (R80). -/
def decodeMajor1B (w : IWord) : Option Instr :=
  some (.jalr (fld w 8 5) (fld w 13 5) (fld w 18 14))

/-- The instructions of one-word major 0x1C (R80). -/
def decodeMajor1C (w : IWord) : Option Instr :=
  if fld w 13 5 = 0 then some (.getc (fld w 8 5) (fld w 18 14))
  else none

/-- The instructions of one-word major 0x1D (R80). -/
def decodeMajor1D (w : IWord) : Option Instr :=
  if fld w 8 5 = 0 then some (.putc (fld w 13 5) (fld w 18 14))
  else none

/-- The instructions of one-word major 0x1E (R80). -/
def decodeMajor1E (w : IWord) : Option Instr :=
  if fld w 8 5 = 0 ∧ fld w 18 14 = 0 then some (.trapSoft (fld w 13 5))
  else if fld w 8 5 = 0 ∧ fld w 23 9 = 6 then some (.tlbi (fld w 13 5) (fld w 18 5))
  else if fld w 23 9 = 8 then some (.launch (fld w 8 5) (fld w 13 5) (fld w 18 5))
  else if fld w 18 14 = 288 then some (.testScan (fld w 8 5) (fld w 13 5))
  else if fld w 8 5 = 0 ∧ fld w 23 9 = 12 then some (.swb (fld w 13 5) (fld w 18 5))
  else if fld w 8 5 = 0 ∧ fld w 23 9 = 13 then some (.dfin (fld w 13 5) (fld w 18 5))
  else if fld w 8 24 = 32768 then some .tret
  else if fld w 8 24 = 65536 then some .idle
  else if fld w 8 24 = 98304 then some .endStrand
  else if fld w 8 24 = 131072 then some .yield
  else if fld w 8 24 = 163840 then some .brk
  else if fld w 8 24 = 229376 then some .tlbia
  else if fld w 8 24 = 327680 then some .ion
  else if fld w 8 24 = 360448 then some .ioff
  else none

/-- The instructions of one-word major 0x1F (R80). -/
def decodeMajor1F (w : IWord) : Option Instr :=
  if fld w 10 3 = 7 ∧ fld w 18 14 = 0 then some (.route (fld w 8 2) (fld w 13 5))
  else if fld w 8 5 = 0 ∧ fld w 23 9 = 1 then some (.barDef (fld w 13 5) (fld w 18 5))
  else if fld w 8 5 = 0 ∧ fld w 18 14 = 64 then some (.barArr (fld w 13 5))
  else if fld w 8 5 = 0 ∧ fld w 18 14 = 96 then some (.barWait (fld w 13 5))
  else if fld w 8 5 = 0 ∧ fld w 18 14 = 128 then some (.barAw (fld w 13 5))
  else if fld w 8 5 = 0 ∧ fld w 23 9 = 5 then some (.semSig (fld w 13 5) (fld w 18 5))
  else if fld w 8 5 = 0 ∧ fld w 23 9 = 6 then some (.semWait (fld w 13 5) (fld w 18 5))
  else if fld w 18 14 = 224 then some (.semPoll (fld w 8 5) (fld w 13 5))
  else if fld w 23 9 = 8 then some (.postCall (fld w 8 5) (fld w 13 5) (fld w 18 5))
  else if fld w 18 14 = 288 then some (.awaitCall (fld w 8 5) (fld w 13 5))
  else if fld w 18 14 = 320 then some (.probeCall (fld w 8 5) (fld w 13 5))
  else if fld w 18 14 = 352 then some (.otok (fld w 8 5) (fld w 13 5))
  else if fld w 8 5 = 0 ∧ fld w 18 14 = 384 then some (.xflush (fld w 13 5))
  else none

/-- The instructions of one-word major 0x20 (R80). -/
def decodeMajor20 (w : IWord) : Option Instr :=
  if fld w 29 3 = 0 then some (.vadd (fld w 8 6) (fld w 14 6) (fld w 20 6) (fld w 26 3))
  else if fld w 29 3 = 1 then some (.vsub (fld w 8 6) (fld w 14 6) (fld w 20 6) (fld w 26 3))
  else if fld w 29 3 = 2 then some (.vrsub (fld w 8 6) (fld w 14 6) (fld w 20 6) (fld w 26 3))
  else if fld w 29 3 = 3 then some (.vmul (fld w 8 6) (fld w 14 6) (fld w 20 6) (fld w 26 3))
  else if fld w 29 3 = 4 then some (.vmulh (fld w 8 6) (fld w 14 6) (fld w 20 6) (fld w 26 3))
  else if fld w 29 3 = 5 then some (.vdiv (fld w 8 6) (fld w 14 6) (fld w 20 6) (fld w 26 3))
  else if fld w 29 3 = 6 then some (.vrem (fld w 8 6) (fld w 14 6) (fld w 20 6) (fld w 26 3))
  else if fld w 29 3 = 7 then some (.vavg (fld w 8 6) (fld w 14 6) (fld w 20 6) (fld w 26 3))
  else none

/-- The instructions of one-word major 0x21 (R80). -/
def decodeMajor21 (w : IWord) : Option Instr :=
  if fld w 29 3 = 0 then some (.vmin (fld w 8 6) (fld w 14 6) (fld w 20 6) (fld w 26 3))
  else if fld w 29 3 = 1 then some (.vmax (fld w 8 6) (fld w 14 6) (fld w 20 6) (fld w 26 3))
  else if fld w 29 3 = 2 then some (.vand (fld w 8 6) (fld w 14 6) (fld w 20 6) (fld w 26 3))
  else if fld w 29 3 = 3 then some (.vor (fld w 8 6) (fld w 14 6) (fld w 20 6) (fld w 26 3))
  else if fld w 29 3 = 4 then some (.vxor (fld w 8 6) (fld w 14 6) (fld w 20 6) (fld w 26 3))
  else if fld w 29 3 = 5 then some (.vsll (fld w 8 6) (fld w 14 6) (fld w 20 6) (fld w 26 3))
  else if fld w 29 3 = 6 then some (.vsrl (fld w 8 6) (fld w 14 6) (fld w 20 6) (fld w 26 3))
  else if fld w 29 3 = 7 then some (.vsra (fld w 8 6) (fld w 14 6) (fld w 20 6) (fld w 26 3))
  else none

/-- The instructions of one-word major 0x22 (R80). -/
def decodeMajor22 (w : IWord) : Option Instr :=
  if fld w 29 3 = 0 then some (.vadds (fld w 8 6) (fld w 14 6) (fld w 20 6) (fld w 26 3))
  else if fld w 29 3 = 1 then some (.vsubs (fld w 8 6) (fld w 14 6) (fld w 20 6) (fld w 26 3))
  else if fld w 29 3 = 2 then some (.vwmul (fld w 8 6) (fld w 14 6) (fld w 20 6) (fld w 26 3))
  else if fld w 29 3 = 3 then some (.vdot4 (fld w 8 6) (fld w 14 6) (fld w 20 6) (fld w 26 3))
  else if fld w 11 3 = 0 ∧ fld w 29 3 = 4 then some (.vceq (fld w 8 3) (fld w 14 6) (fld w 20 6) (fld w 26 3))
  else if fld w 11 3 = 0 ∧ fld w 29 3 = 5 then some (.vcne (fld w 8 3) (fld w 14 6) (fld w 20 6) (fld w 26 3))
  else if fld w 11 3 = 0 ∧ fld w 29 3 = 6 then some (.vclt (fld w 8 3) (fld w 14 6) (fld w 20 6) (fld w 26 3))
  else if fld w 11 3 = 0 ∧ fld w 29 3 = 7 then some (.vcle (fld w 8 3) (fld w 14 6) (fld w 20 6) (fld w 26 3))
  else none

/-- The instructions of one-word major 0x23 (R80). -/
def decodeMajor23 (w : IWord) : Option Instr :=
  if fld w 29 3 = 0 then some (.vsel (fld w 8 6) (fld w 14 6) (fld w 20 6) (fld w 26 3))
  else if fld w 20 6 = 0 ∧ fld w 29 3 = 1 then some (.vmv (fld w 8 6) (fld w 14 6) (fld w 26 3))
  else if fld w 20 6 = 0 ∧ fld w 29 3 = 2 then some (.vabs (fld w 8 6) (fld w 14 6) (fld w 26 3))
  else if fld w 20 6 = 0 ∧ fld w 29 3 = 3 then some (.vneg (fld w 8 6) (fld w 14 6) (fld w 26 3))
  else if fld w 20 6 = 0 ∧ fld w 29 3 = 4 then some (.vsqrt (fld w 8 6) (fld w 14 6) (fld w 26 3))
  else if fld w 20 6 = 0 ∧ fld w 29 3 = 5 then some (.vrcp (fld w 8 6) (fld w 14 6) (fld w 26 3))
  else if fld w 20 6 = 0 ∧ fld w 29 3 = 6 then some (.vexp2 (fld w 8 6) (fld w 14 6) (fld w 26 3))
  else if fld w 20 6 = 0 ∧ fld w 29 3 = 7 then some (.vlog2 (fld w 8 6) (fld w 14 6) (fld w 26 3))
  else none

/-- The instructions of one-word major 0x24 (R80). -/
def decodeMajor24 (w : IWord) : Option Instr :=
  if fld w 25 1 = 0 ∧ fld w 29 3 = 0 then some (.vaddVs (fld w 8 6) (fld w 14 6) (fld w 20 5) (fld w 26 3))
  else if fld w 25 1 = 0 ∧ fld w 29 3 = 1 then some (.vsubVs (fld w 8 6) (fld w 14 6) (fld w 20 5) (fld w 26 3))
  else if fld w 25 1 = 0 ∧ fld w 29 3 = 2 then some (.vrsubVs (fld w 8 6) (fld w 14 6) (fld w 20 5) (fld w 26 3))
  else if fld w 25 1 = 0 ∧ fld w 29 3 = 3 then some (.vmulVs (fld w 8 6) (fld w 14 6) (fld w 20 5) (fld w 26 3))
  else if fld w 25 1 = 0 ∧ fld w 29 3 = 4 then some (.vmulhVs (fld w 8 6) (fld w 14 6) (fld w 20 5) (fld w 26 3))
  else if fld w 25 1 = 0 ∧ fld w 29 3 = 5 then some (.vdivVs (fld w 8 6) (fld w 14 6) (fld w 20 5) (fld w 26 3))
  else if fld w 25 1 = 0 ∧ fld w 29 3 = 6 then some (.vremVs (fld w 8 6) (fld w 14 6) (fld w 20 5) (fld w 26 3))
  else if fld w 25 1 = 0 ∧ fld w 29 3 = 7 then some (.vavgVs (fld w 8 6) (fld w 14 6) (fld w 20 5) (fld w 26 3))
  else none

/-- The instructions of one-word major 0x25 (R80). -/
def decodeMajor25 (w : IWord) : Option Instr :=
  if fld w 25 1 = 0 ∧ fld w 29 3 = 0 then some (.vminVs (fld w 8 6) (fld w 14 6) (fld w 20 5) (fld w 26 3))
  else if fld w 25 1 = 0 ∧ fld w 29 3 = 1 then some (.vmaxVs (fld w 8 6) (fld w 14 6) (fld w 20 5) (fld w 26 3))
  else if fld w 25 1 = 0 ∧ fld w 29 3 = 2 then some (.vandVs (fld w 8 6) (fld w 14 6) (fld w 20 5) (fld w 26 3))
  else if fld w 25 1 = 0 ∧ fld w 29 3 = 3 then some (.vorVs (fld w 8 6) (fld w 14 6) (fld w 20 5) (fld w 26 3))
  else if fld w 25 1 = 0 ∧ fld w 29 3 = 4 then some (.vxorVs (fld w 8 6) (fld w 14 6) (fld w 20 5) (fld w 26 3))
  else if fld w 25 1 = 0 ∧ fld w 29 3 = 5 then some (.vsllVs (fld w 8 6) (fld w 14 6) (fld w 20 5) (fld w 26 3))
  else if fld w 25 1 = 0 ∧ fld w 29 3 = 6 then some (.vsrlVs (fld w 8 6) (fld w 14 6) (fld w 20 5) (fld w 26 3))
  else if fld w 25 1 = 0 ∧ fld w 29 3 = 7 then some (.vsraVs (fld w 8 6) (fld w 14 6) (fld w 20 5) (fld w 26 3))
  else none

/-- The instructions of one-word major 0x26 (R80). -/
def decodeMajor26 (w : IWord) : Option Instr :=
  if fld w 8 6 = 0 ∧ fld w 17 15 = 0 then some (.mif (fld w 14 3))
  else if fld w 8 6 = 0 ∧ fld w 17 15 = 12288 then some (.mbrk (fld w 14 3))
  else if fld w 11 3 = 0 ∧ fld w 17 3 = 0 ∧ fld w 23 9 = 256 then some (.mand (fld w 8 3) (fld w 14 3) (fld w 20 3))
  else if fld w 11 3 = 0 ∧ fld w 17 3 = 0 ∧ fld w 23 9 = 320 then some (.mor (fld w 8 3) (fld w 14 3) (fld w 20 3))
  else if fld w 11 3 = 0 ∧ fld w 17 3 = 0 ∧ fld w 23 9 = 384 then some (.mxor (fld w 8 3) (fld w 14 3) (fld w 20 3))
  else if fld w 11 3 = 0 ∧ fld w 17 15 = 28672 then some (.mnot (fld w 8 3) (fld w 14 3))
  else if fld w 8 24 = 2097152 then some .melse
  else if fld w 8 24 = 4194304 then some .mend
  else none

/-- The instructions of one-word major 0x27 (R80). -/
def decodeMajor27 (w : IWord) : Option Instr :=
  if fld w 25 1 = 0 ∧ fld w 29 3 = 0 then some (.vslideup (fld w 8 6) (fld w 14 6) (fld w 20 5) (fld w 26 3))
  else if fld w 25 1 = 0 ∧ fld w 29 3 = 1 then some (.vslidedn (fld w 8 6) (fld w 14 6) (fld w 20 5) (fld w 26 3))
  else if fld w 29 3 = 2 then some (.vperm (fld w 8 6) (fld w 14 6) (fld w 20 6) (fld w 26 3))
  else if fld w 25 1 = 0 ∧ fld w 29 3 = 3 then some (.vredO (fld w 8 6) (fld w 14 6) (fld w 20 5) (fld w 26 3))
  else if fld w 25 1 = 0 ∧ fld w 29 3 = 4 then some (.vredR (fld w 8 6) (fld w 14 6) (fld w 20 5) (fld w 26 3))
  else if fld w 25 1 = 0 ∧ fld w 29 3 = 5 then some (.vscan (fld w 8 6) (fld w 14 6) (fld w 20 5) (fld w 26 3))
  else if fld w 25 1 = 0 ∧ fld w 29 3 = 6 then some (.vrecMul (fld w 8 6) (fld w 14 6) (fld w 20 5) (fld w 26 3))
  else if fld w 25 1 = 1 ∧ fld w 29 3 = 6 then some (.vrecMax (fld w 8 6) (fld w 14 6) (fld w 20 5) (fld w 26 3))
  else if fld w 13 1 = 0 ∧ fld w 25 7 = 112 then some (.vext (fld w 8 5) (fld w 14 6) (fld w 20 5))
  else none

/-- The instructions of one-word major 0x28 (R80). -/
def decodeMajor28 (w : IWord) : Option Instr :=
  if fld w 19 7 = 0 ∧ fld w 29 3 = 0 then some (.vld (fld w 8 6) (fld w 14 5) (fld w 26 3))
  else if fld w 24 2 = 1 ∧ fld w 29 3 = 0 then some (.vlds (fld w 8 6) (fld w 19 5) (fld w 14 5) (fld w 26 3))
  else if fld w 19 7 = 64 ∧ fld w 29 3 = 0 then some (.vldff (fld w 8 6) (fld w 14 5) (fld w 26 3))
  else if fld w 17 9 = 384 ∧ fld w 29 3 = 0 then some (.vpop (fld w 8 6) (fld w 14 3) (fld w 26 3))
  else none

/-- The instructions of one-word major 0x29 (R80). -/
def decodeMajor29 (w : IWord) : Option Instr :=
  if fld w 19 7 = 0 ∧ fld w 29 3 = 0 then some (.vst (fld w 8 6) (fld w 14 5) (fld w 26 3))
  else if fld w 24 2 = 1 ∧ fld w 29 3 = 0 then some (.vsts (fld w 8 6) (fld w 19 5) (fld w 14 5) (fld w 26 3))
  else if fld w 17 9 = 384 ∧ fld w 29 3 = 0 then some (.vpush (fld w 8 6) (fld w 14 3) (fld w 26 3))
  else none

/-- The instructions of one-word major 0x2A (R80). -/
def decodeMajor2A (w : IWord) : Option Instr :=
  if fld w 13 1 = 0 ∧ fld w 19 1 = 0 ∧ fld w 24 8 = 0 then some (.vsetl (fld w 8 5) (fld w 14 5) (fld w 20 4))
  else if fld w 14 6 = 0 ∧ fld w 24 8 = 32 then some (.vtag (fld w 8 6) (fld w 20 4))
  else none

/-- The instructions of one-word major 0x2B (R80). -/
def decodeMajor2B (w : IWord) : Option Instr :=
  if fld w 23 4 = 0 then some (.fadd (fld w 8 5) (fld w 13 5) (fld w 18 5) (fld w 27 2) (fld w 29 3))
  else if fld w 23 4 = 1 then some (.fsub (fld w 8 5) (fld w 13 5) (fld w 18 5) (fld w 27 2) (fld w 29 3))
  else if fld w 23 4 = 2 then some (.fmul (fld w 8 5) (fld w 13 5) (fld w 18 5) (fld w 27 2) (fld w 29 3))
  else if fld w 23 4 = 3 then some (.fdiv (fld w 8 5) (fld w 13 5) (fld w 18 5) (fld w 27 2) (fld w 29 3))
  else if fld w 18 9 = 128 then some (.fsqrt (fld w 8 5) (fld w 13 5) (fld w 27 2) (fld w 29 3))
  else if fld w 23 4 = 5 ∧ fld w 29 3 = 0 then some (.fmin (fld w 8 5) (fld w 13 5) (fld w 18 5) (fld w 27 2))
  else if fld w 23 4 = 6 ∧ fld w 29 3 = 0 then some (.fmax (fld w 8 5) (fld w 13 5) (fld w 18 5) (fld w 27 2))
  else if fld w 23 4 = 7 ∧ fld w 29 3 = 0 then some (.feq (fld w 8 5) (fld w 13 5) (fld w 18 5) (fld w 27 2))
  else if fld w 23 4 = 8 ∧ fld w 29 3 = 0 then some (.flt (fld w 8 5) (fld w 13 5) (fld w 18 5) (fld w 27 2))
  else if fld w 23 4 = 9 ∧ fld w 29 3 = 0 then some (.fle (fld w 8 5) (fld w 13 5) (fld w 18 5) (fld w 27 2))
  else if fld w 18 9 = 320 ∧ fld w 29 3 = 0 then some (.fclass (fld w 8 5) (fld w 13 5) (fld w 27 2))
  else if fld w 21 1 = 0 ∧ fld w 23 4 = 11 then some (.fcvt (fld w 8 5) (fld w 13 5) (fld w 22 1) (fld w 18 3) (fld w 27 2) (fld w 29 3))
  else none

/-- The instructions of one-word major 0x3E (R80). -/
def decodeMajor3E (w : IWord) : Option Instr :=
  if fld w 13 19 = 0 then some (.nop (fld w 8 5))
  else if fld w 13 19 = 1 then some (.pfL1 (fld w 8 5))
  else if fld w 13 19 = 2 then some (.pfL2 (fld w 8 5))
  else if fld w 13 19 = 3 then some (.pfSt (fld w 8 5))
  else some (.hint (fld w 8 5) (fld w 13 19))

/-- The instruction that a one-word encoding names, before the rules of `Instr.wf`; `none`: reserved (R97). -/
def decodeOneRaw (w : IWord) : Option Instr :=
  match (major w).toNat with
  | 0x01 => decodeMajor01 w
  | 0x02 => decodeMajor02 w
  | 0x03 => decodeMajor03 w
  | 0x04 => decodeMajor04 w
  | 0x05 => decodeMajor05 w
  | 0x06 => decodeMajor06 w
  | 0x07 => decodeMajor07 w
  | 0x08 => decodeMajor08 w
  | 0x09 => decodeMajor09 w
  | 0x0A => decodeMajor0A w
  | 0x10 => decodeMajor10 w
  | 0x11 => decodeMajor11 w
  | 0x12 => decodeMajor12 w
  | 0x13 => decodeMajor13 w
  | 0x14 => decodeMajor14 w
  | 0x15 => decodeMajor15 w
  | 0x16 => decodeMajor16 w
  | 0x17 => decodeMajor17 w
  | 0x18 => decodeMajor18 w
  | 0x19 => decodeMajor19 w
  | 0x1A => decodeMajor1A w
  | 0x1B => decodeMajor1B w
  | 0x1C => decodeMajor1C w
  | 0x1D => decodeMajor1D w
  | 0x1E => decodeMajor1E w
  | 0x1F => decodeMajor1F w
  | 0x20 => decodeMajor20 w
  | 0x21 => decodeMajor21 w
  | 0x22 => decodeMajor22 w
  | 0x23 => decodeMajor23 w
  | 0x24 => decodeMajor24 w
  | 0x25 => decodeMajor25 w
  | 0x26 => decodeMajor26 w
  | 0x27 => decodeMajor27 w
  | 0x28 => decodeMajor28 w
  | 0x29 => decodeMajor29 w
  | 0x2A => decodeMajor2A w
  | 0x2B => decodeMajor2B w
  | 0x3E => decodeMajor3E w
  | _ => none

/-- The instructions of two-word major 0x01 (R95, R96). -/
def decodePair01 (w1 w2 : IWord) : Option Instr :=
  some (.limm (fld w1 8 5) (fld w2 2 30 ++ fld w1 13 19))

/-- The instructions of two-word major 0x02 (R95, R96). -/
def decodePair02 (w1 w2 : IWord) : Option Instr :=
  if fld w1 18 3 = 0 then some (.lbL (fld w1 8 5) (fld w1 13 5) (fld w2 2 30 ++ fld w1 21 11))
  else if fld w1 18 3 = 1 then some (.lhL (fld w1 8 5) (fld w1 13 5) (fld w2 2 30 ++ fld w1 21 11))
  else if fld w1 18 3 = 2 then some (.lwL (fld w1 8 5) (fld w1 13 5) (fld w2 2 30 ++ fld w1 21 11))
  else if fld w1 18 3 = 3 then some (.ldL (fld w1 8 5) (fld w1 13 5) (fld w2 2 30 ++ fld w1 21 11))
  else if fld w1 18 3 = 4 then some (.lbuL (fld w1 8 5) (fld w1 13 5) (fld w2 2 30 ++ fld w1 21 11))
  else if fld w1 18 3 = 5 then some (.lhuL (fld w1 8 5) (fld w1 13 5) (fld w2 2 30 ++ fld w1 21 11))
  else if fld w1 18 3 = 6 then some (.lwuL (fld w1 8 5) (fld w1 13 5) (fld w2 2 30 ++ fld w1 21 11))
  else if fld w1 18 3 = 7 then some (.ldsyncL (fld w1 8 5) (fld w1 13 5) (fld w2 2 30 ++ fld w1 21 11))
  else none

/-- The instructions of two-word major 0x03 (R95, R96). -/
def decodePair03 (w1 w2 : IWord) : Option Instr :=
  if fld w1 18 3 = 0 then some (.sbL (fld w1 8 5) (fld w1 13 5) (fld w2 2 30 ++ fld w1 21 11))
  else if fld w1 18 3 = 1 then some (.shL (fld w1 8 5) (fld w1 13 5) (fld w2 2 30 ++ fld w1 21 11))
  else if fld w1 18 3 = 2 then some (.swL (fld w1 8 5) (fld w1 13 5) (fld w2 2 30 ++ fld w1 21 11))
  else if fld w1 18 3 = 3 then some (.sdL (fld w1 8 5) (fld w1 13 5) (fld w2 2 30 ++ fld w1 21 11))
  else if fld w1 8 5 = 0 ∧ fld w1 18 3 = 4 then some (.fclrL (fld w1 13 5) (fld w2 2 30 ++ fld w1 21 11))
  else none

/-- The instructions of two-word major 0x04 (R95, R96). -/
def decodePair04 (w1 w2 : IWord) : Option Instr :=
  some (.jalL (fld w1 8 5) (fld w2 2 30 ++ fld w1 13 19))

/-- The instructions of two-word major 0x05 (R95, R96). -/
def decodePair05 (w1 w2 : IWord) : Option Instr :=
  if fld w1 25 2 = 0 ∧ fld w1 30 2 = 0 ∧ fld w2 7 25 = 0 then some (.fma (fld w1 8 5) (fld w1 13 5) (fld w1 18 5) (fld w2 2 5) (fld w1 23 2) (fld w1 27 3))
  else if fld w1 25 2 = 1 ∧ fld w1 30 2 = 0 ∧ fld w2 7 25 = 0 then some (.fms (fld w1 8 5) (fld w1 13 5) (fld w1 18 5) (fld w2 2 5) (fld w1 23 2) (fld w1 27 3))
  else if fld w1 25 2 = 2 ∧ fld w1 30 2 = 0 ∧ fld w2 7 25 = 0 then some (.fnma (fld w1 8 5) (fld w1 13 5) (fld w1 18 5) (fld w2 2 5) (fld w1 23 2) (fld w1 27 3))
  else if fld w1 25 2 = 3 ∧ fld w1 30 2 = 0 ∧ fld w2 7 25 = 0 then some (.fnms (fld w1 8 5) (fld w1 13 5) (fld w1 18 5) (fld w2 2 5) (fld w1 23 2) (fld w1 27 3))
  else none

/-- The instructions of two-word major 0x10 (R95, R96). -/
def decodePair10 (w1 w2 : IWord) : Option Instr :=
  if fld w1 29 3 = 0 ∧ fld w2 11 21 = 0 then some (.vfma (fld w1 8 6) (fld w1 14 6) (fld w1 20 6) (fld w2 2 6) (fld w1 26 3) (fld w2 8 3))
  else if fld w1 29 3 = 1 ∧ fld w2 11 21 = 0 then some (.vfms (fld w1 8 6) (fld w1 14 6) (fld w1 20 6) (fld w2 2 6) (fld w1 26 3) (fld w2 8 3))
  else if fld w1 29 3 = 2 ∧ fld w2 11 21 = 0 then some (.vfnma (fld w1 8 6) (fld w1 14 6) (fld w1 20 6) (fld w2 2 6) (fld w1 26 3) (fld w2 8 3))
  else if fld w1 29 3 = 3 ∧ fld w2 11 21 = 0 then some (.vfnms (fld w1 8 6) (fld w1 14 6) (fld w1 20 6) (fld w2 2 6) (fld w1 26 3) (fld w2 8 3))
  else none

/-- The instructions of two-word major 0x11 (R95, R96). -/
def decodePair11 (w1 w2 : IWord) : Option Instr :=
  if fld w1 29 3 = 0 ∧ fld w2 10 22 = 0 then some (.vmopO (fld w1 8 6) (fld w1 14 6) (fld w1 20 6) (fld w1 26 3) (fld w2 2 8))
  else if fld w1 29 3 = 1 ∧ fld w2 10 22 = 0 then some (.vmopR (fld w1 8 6) (fld w1 14 6) (fld w1 20 6) (fld w1 26 3) (fld w2 2 8))
  else if fld w1 14 15 = 0 ∧ fld w1 29 3 = 2 ∧ fld w2 2 30 = 0 then some (.vmzero (fld w1 8 6))
  else if fld w1 14 15 = 0 ∧ fld w1 29 3 = 3 ∧ fld w2 2 30 = 0 then some (.vmrd (fld w1 8 6))
  else none

/-- The instructions of two-word major 0x12 (R95, R96). -/
def decodePair12 (w1 w2 : IWord) : Option Instr :=
  if fld w1 25 1 = 0 ∧ fld w1 29 3 = 0 ∧ fld w2 2 18 = 0 ∧ fld w2 22 10 = 0 then some (.vldx (fld w1 8 6) (fld w1 14 5) (fld w1 19 6) (fld w1 26 3) (fld w2 20 2))
  else if fld w1 25 1 = 0 ∧ fld w1 29 3 = 1 ∧ fld w2 2 18 = 0 ∧ fld w2 22 10 = 0 then some (.vstx (fld w1 8 6) (fld w1 14 5) (fld w1 19 6) (fld w1 26 3) (fld w2 20 2))
  else if fld w1 25 1 = 0 ∧ fld w1 29 3 = 2 ∧ fld w2 2 18 = 0 ∧ fld w2 22 10 = 0 then some (.vstxo (fld w1 8 6) (fld w1 14 5) (fld w1 19 6) (fld w1 26 3) (fld w2 20 2))
  else if fld w1 25 1 = 0 ∧ fld w1 29 3 = 3 ∧ fld w2 8 4 = 0 ∧ fld w2 16 4 = 0 ∧ fld w2 22 10 = 0 then some (.vamoSwap (fld w1 8 6) (fld w1 14 5) (fld w1 19 6) (fld w2 2 6) (fld w1 26 3) (fld w2 20 2) (fld w2 12 2) (fld w2 14 1) (fld w2 15 1))
  else if fld w1 25 1 = 0 ∧ fld w1 29 3 = 3 ∧ fld w2 8 4 = 1 ∧ fld w2 16 4 = 0 ∧ fld w2 22 10 = 0 then some (.vamoAdd (fld w1 8 6) (fld w1 14 5) (fld w1 19 6) (fld w2 2 6) (fld w1 26 3) (fld w2 20 2) (fld w2 12 2) (fld w2 14 1) (fld w2 15 1))
  else if fld w1 25 1 = 0 ∧ fld w1 29 3 = 3 ∧ fld w2 8 4 = 2 ∧ fld w2 16 4 = 0 ∧ fld w2 22 10 = 0 then some (.vamoAnd (fld w1 8 6) (fld w1 14 5) (fld w1 19 6) (fld w2 2 6) (fld w1 26 3) (fld w2 20 2) (fld w2 12 2) (fld w2 14 1) (fld w2 15 1))
  else if fld w1 25 1 = 0 ∧ fld w1 29 3 = 3 ∧ fld w2 8 4 = 3 ∧ fld w2 16 4 = 0 ∧ fld w2 22 10 = 0 then some (.vamoOr (fld w1 8 6) (fld w1 14 5) (fld w1 19 6) (fld w2 2 6) (fld w1 26 3) (fld w2 20 2) (fld w2 12 2) (fld w2 14 1) (fld w2 15 1))
  else if fld w1 25 1 = 0 ∧ fld w1 29 3 = 3 ∧ fld w2 8 4 = 4 ∧ fld w2 16 4 = 0 ∧ fld w2 22 10 = 0 then some (.vamoXor (fld w1 8 6) (fld w1 14 5) (fld w1 19 6) (fld w2 2 6) (fld w1 26 3) (fld w2 20 2) (fld w2 12 2) (fld w2 14 1) (fld w2 15 1))
  else if fld w1 25 1 = 0 ∧ fld w1 29 3 = 3 ∧ fld w2 8 4 = 5 ∧ fld w2 16 4 = 0 ∧ fld w2 22 10 = 0 then some (.vamoMin (fld w1 8 6) (fld w1 14 5) (fld w1 19 6) (fld w2 2 6) (fld w1 26 3) (fld w2 20 2) (fld w2 12 2) (fld w2 14 1) (fld w2 15 1))
  else if fld w1 25 1 = 0 ∧ fld w1 29 3 = 3 ∧ fld w2 8 4 = 6 ∧ fld w2 16 4 = 0 ∧ fld w2 22 10 = 0 then some (.vamoMax (fld w1 8 6) (fld w1 14 5) (fld w1 19 6) (fld w2 2 6) (fld w1 26 3) (fld w2 20 2) (fld w2 12 2) (fld w2 14 1) (fld w2 15 1))
  else if fld w1 25 1 = 0 ∧ fld w1 29 3 = 3 ∧ fld w2 8 4 = 7 ∧ fld w2 16 4 = 0 ∧ fld w2 22 10 = 0 then some (.vamoMinu (fld w1 8 6) (fld w1 14 5) (fld w1 19 6) (fld w2 2 6) (fld w1 26 3) (fld w2 20 2) (fld w2 12 2) (fld w2 14 1) (fld w2 15 1))
  else if fld w1 25 1 = 0 ∧ fld w1 29 3 = 3 ∧ fld w2 8 4 = 8 ∧ fld w2 16 4 = 0 ∧ fld w2 22 10 = 0 then some (.vamoMaxu (fld w1 8 6) (fld w1 14 5) (fld w1 19 6) (fld w2 2 6) (fld w1 26 3) (fld w2 20 2) (fld w2 12 2) (fld w2 14 1) (fld w2 15 1))
  else if fld w1 25 1 = 0 ∧ fld w1 29 3 = 3 ∧ fld w2 8 4 = 10 ∧ fld w2 16 4 = 0 ∧ fld w2 22 10 = 0 then some (.vamoFadd (fld w1 8 6) (fld w1 14 5) (fld w1 19 6) (fld w2 2 6) (fld w1 26 3) (fld w2 20 2) (fld w2 12 2) (fld w2 14 1) (fld w2 15 1))
  else if fld w1 19 7 = 0 ∧ fld w1 29 3 = 4 ∧ fld w2 2 14 = 0 ∧ fld w2 20 12 = 0 then some (.vplane (fld w1 8 6) (fld w1 14 5) (fld w1 26 3) (fld w2 16 4))
  else none

/-- The instructions of two-word major 0x13 (R95, R96). -/
def decodePair13 (w1 w2 : IWord) : Option Instr :=
  if fld w1 29 3 = 0 ∧ fld w1 20 6 = 0 ∧ fld w1 26 3 = 0 ∧ fld w2 2 8 = 0 ∧ fld w2 23 9 = 0 ∧ fld w2 18 5 = 0 then some (.vcvt (fld w1 8 6) (fld w1 14 6) (fld w2 14 4) (fld w2 10 3) (fld w2 13 1))
  else if fld w1 29 3 = 0 ∧ fld w1 20 6 = 0 ∧ fld w1 26 3 = 0 ∧ fld w2 2 8 = 1 ∧ fld w2 23 9 = 0 ∧ fld w2 10 3 = 0 ∧ fld w2 13 1 = 0 ∧ fld w2 14 4 = 0 then some (.vredmax (fld w1 8 6) (fld w1 14 6) (fld w2 18 5))
  else if fld w1 29 3 = 0 ∧ fld w1 20 6 = 0 ∧ fld w1 26 3 = 0 ∧ fld w2 2 8 = 2 ∧ fld w2 23 9 = 0 ∧ fld w2 10 3 = 0 ∧ fld w2 13 1 = 0 ∧ fld w2 14 4 = 0 then some (.vredmin (fld w1 8 6) (fld w1 14 6) (fld w2 18 5))
  else if fld w1 29 3 = 0 ∧ fld w1 19 1 = 0 ∧ fld w1 20 6 = 0 ∧ fld w1 26 3 = 0 ∧ fld w2 2 8 = 3 ∧ fld w2 23 9 = 0 ∧ fld w2 10 3 = 0 ∧ fld w2 13 1 = 0 ∧ fld w2 14 4 = 0 then some (.vins (fld w1 8 6) (fld w1 14 5) (fld w2 18 5))
  else if fld w1 29 3 = 0 ∧ fld w1 14 6 = 0 ∧ fld w1 20 6 = 0 ∧ fld w1 26 3 = 0 ∧ fld w2 2 8 = 4 ∧ fld w2 23 9 = 0 ∧ fld w2 10 3 = 0 ∧ fld w2 13 1 = 0 ∧ fld w2 14 4 = 0 then some (.vbcast (fld w1 8 6) (fld w2 18 5))
  else if fld w1 29 3 = 0 ∧ fld w1 14 6 = 0 ∧ fld w1 20 6 = 0 ∧ fld w1 26 3 = 0 ∧ fld w2 2 8 = 5 ∧ fld w2 23 9 = 0 ∧ fld w2 10 3 = 0 ∧ fld w2 13 1 = 0 ∧ fld w2 14 4 = 0 ∧ fld w2 18 5 = 0 then some (.viota (fld w1 8 6))
  else if fld w1 29 3 = 0 ∧ fld w1 20 6 = 0 ∧ fld w2 2 8 = 6 ∧ fld w2 23 9 = 0 ∧ fld w2 10 3 = 0 ∧ fld w2 13 1 = 0 ∧ fld w2 14 4 = 0 ∧ fld w2 18 5 = 0 then some (.vcompress (fld w1 8 6) (fld w1 14 6) (fld w1 26 3))
  else if fld w1 29 3 = 0 ∧ fld w1 8 6 = 0 ∧ fld w1 14 6 = 0 ∧ fld w1 20 6 = 0 ∧ fld w2 2 8 = 7 ∧ fld w2 23 9 = 0 ∧ fld w2 10 3 = 0 ∧ fld w2 13 1 = 0 ∧ fld w2 14 4 = 0 then some (.mpopc (fld w2 18 5) (fld w1 26 3))
  else if fld w1 29 3 = 0 ∧ fld w1 8 6 = 0 ∧ fld w1 14 6 = 0 ∧ fld w1 20 6 = 0 ∧ fld w2 2 8 = 8 ∧ fld w2 23 9 = 0 ∧ fld w2 10 3 = 0 ∧ fld w2 13 1 = 0 ∧ fld w2 14 4 = 0 then some (.mfirst (fld w2 18 5) (fld w1 26 3))
  else if fld w1 29 3 = 0 ∧ fld w1 20 6 = 0 ∧ fld w1 26 3 = 0 ∧ fld w2 2 8 = 9 ∧ fld w2 23 9 = 0 ∧ fld w2 10 3 = 0 ∧ fld w2 13 1 = 0 ∧ fld w2 14 4 = 0 ∧ fld w2 18 5 = 0 then some (.vclz (fld w1 8 6) (fld w1 14 6))
  else if fld w1 29 3 = 0 ∧ fld w1 20 6 = 0 ∧ fld w1 26 3 = 0 ∧ fld w2 2 8 = 10 ∧ fld w2 23 9 = 0 ∧ fld w2 10 3 = 0 ∧ fld w2 13 1 = 0 ∧ fld w2 14 4 = 0 ∧ fld w2 18 5 = 0 then some (.vpopc (fld w1 8 6) (fld w1 14 6))
  else none

/-- The instructions of two-word major 0x14 (R95, R96). -/
def decodePair14 (w1 w2 : IWord) : Option Instr :=
  if fld w1 31 1 = 0 ∧ fld w2 2 30 = 0 then some (.postv (fld w1 8 5) (fld w1 13 5) (fld w1 18 6) (fld w1 24 4) (fld w1 28 3))
  else none

/-- The instructions of two-word major 0x15 (R95, R96). -/
def decodePair15 (w1 w2 : IWord) : Option Instr :=
  if fld w1 17 1 = 0 ∧ fld w1 23 3 = 0 ∧ fld w1 29 3 = 0 ∧ fld w2 18 14 = 0 then some (.vpopNw (fld w1 8 6) (fld w1 14 3) (fld w1 18 5) (fld w1 26 3) (fld w2 2 16))
  else if fld w1 17 1 = 1 ∧ fld w1 23 3 = 0 ∧ fld w1 29 3 = 0 ∧ fld w2 18 14 = 0 then some (.vpushNw (fld w1 8 6) (fld w1 14 3) (fld w1 18 5) (fld w1 26 3) (fld w2 2 16))
  else none

/-- The instructions of two-word major 0x3E (R95, R96). -/
def decodePair3E (w1 w2 : IWord) : Option Instr :=
  some (.twoWordHint (fld w1 8 24) (fld w2 2 30))

/-- The instruction that a pair of words names, before the rules of `Instr.wf`; `none`: reserved (R97). -/
def decodePairRaw (w1 w2 : IWord) : Option Instr :=
  match (major w1).toNat with
  | 0x01 => decodePair01 w1 w2
  | 0x02 => decodePair02 w1 w2
  | 0x03 => decodePair03 w1 w2
  | 0x04 => decodePair04 w1 w2
  | 0x05 => decodePair05 w1 w2
  | 0x10 => decodePair10 w1 w2
  | 0x11 => decodePair11 w1 w2
  | 0x12 => decodePair12 w1 w2
  | 0x13 => decodePair13 w1 w2
  | 0x14 => decodePair14 w1 w2
  | 0x15 => decodePair15 w1 w2
  | 0x3E => decodePair3E w1 w2
  | _ => none

/-- Only a well-formed instruction is one (R97). -/
def keepWf : Option Instr → Option Instr
  | some i => if i.wf then some i else none
  | none => none

/-- The instruction of a word of kind 00 (R73, R97). -/
def decodeOne (w : IWord) : Option Instr := keepWf (decodeOneRaw w)

/-- The instruction of a pair of words, kinds 01 and 11 (R73, R97). -/
def decodePair (w1 w2 : IWord) : Option Instr := keepWf (decodePairRaw w1 w2)

/-- Why bytes are not an instruction. -/
inductive DecodeError where
  /-- fewer bytes than the word needs -/
  | short
  /-- a word of kind 10 (R74) -/
  | kindReserved
  /-- a word of kind 11 at the start: illegal entry (R75) -/
  | secondWord
  /-- a word of kind 01 that no word of kind 11 follows (R74) -/
  | noSecond
  /-- an encoding that R97 makes illegal -/
  | reserved
  deriving DecidableEq, Repr

/-- The word of four bytes, little-endian (R4). -/
def wordOfBytes (b0 b1 b2 b3 : Byte) : IWord :=
  BitVec.ofNat 32 (b0.toNat + b1.toNat * 0x100 + b2.toNat * 0x10000 + b3.toNat * 0x1000000)

/-- Reads one word from the front of a list of bytes. -/
def takeWord : List Byte → Option (IWord × List Byte)
  | b0 :: b1 :: b2 :: b3 :: rest => some (wordOfBytes b0 b1 b2 b3, rest)
  | _ => none

/-- The decoder on bytes: the instruction and the rest of the bytes, or why there is none. -/
def decode (bs : List Byte) : Except DecodeError (Instr × List Byte) :=
  match takeWord bs with
  | none => .error .short
  | some (w1, r1) =>
    match (wordKind w1).toNat with
    | 0 => match decodeOne w1 with
      | some i => .ok (i, r1)
      | none => .error .reserved
    | 1 => match takeWord r1 with
      | none => .error .short
      | some (w2, r2) =>
        if wordKind w2 = 3 then
          match decodePair w1 w2 with
          | some i => .ok (i, r2)
          | none => .error .reserved
        else .error .noSecond
    | 2 => .error .kindReserved
    | _ => .error .secondWord

/-- The `n` bytes of a number, least significant first (R4). -/
def bytesOfNat : Nat → Nat → List Byte
  | 0, _ => []
  | n + 1, v => BitVec.ofNat 8 v :: bytesOfNat n (v / 256)

/-- The instruction that the decoder reads from an instruction whose bits are `w`, numbered from the least
significant bit of the first word; bits from `nbits` up are 0. -/
def decodeTableWord (nbits w : Nat) : Option Instr :=
  match decode (bytesOfNat 8 (w % 2 ^ nbits)) with
  | .ok (i, _) => some i
  | .error _ => none

/-! ### The encoder -/

/-- A word from its fixed bits and its fields, each a value and its lowest bit. -/
def packWord : (c : Nat) → List (Nat × Nat) → IWord
  | c, [] => BitVec.ofNat 32 c
  | c, (v, lo) :: fs => packWord (c + v * 2 ^ lo) fs

/-- The words of an instruction (R77, R95); no words for a step without an encoding. -/
def encode : Instr → List IWord
  | .add d a b => [packWord 0x00000004 [(d.toNat, 8), (a.toNat, 13), (b.toNat, 18)]]
  | .sub d a b => [packWord 0x00800004 [(d.toNat, 8), (a.toNat, 13), (b.toNat, 18)]]
  | .and d a b => [packWord 0x01000004 [(d.toNat, 8), (a.toNat, 13), (b.toNat, 18)]]
  | .or d a b => [packWord 0x01800004 [(d.toNat, 8), (a.toNat, 13), (b.toNat, 18)]]
  | .xor d a b => [packWord 0x02000004 [(d.toNat, 8), (a.toNat, 13), (b.toNat, 18)]]
  | .andn d a b => [packWord 0x02800004 [(d.toNat, 8), (a.toNat, 13), (b.toNat, 18)]]
  | .orn d a b => [packWord 0x03000004 [(d.toNat, 8), (a.toNat, 13), (b.toNat, 18)]]
  | .sll d a b => [packWord 0x03800004 [(d.toNat, 8), (a.toNat, 13), (b.toNat, 18)]]
  | .srl d a b => [packWord 0x04000004 [(d.toNat, 8), (a.toNat, 13), (b.toNat, 18)]]
  | .sra d a b => [packWord 0x04800004 [(d.toNat, 8), (a.toNat, 13), (b.toNat, 18)]]
  | .rol d a b => [packWord 0x05000004 [(d.toNat, 8), (a.toNat, 13), (b.toNat, 18)]]
  | .ror d a b => [packWord 0x05800004 [(d.toNat, 8), (a.toNat, 13), (b.toNat, 18)]]
  | .slt d a b => [packWord 0x06000004 [(d.toNat, 8), (a.toNat, 13), (b.toNat, 18)]]
  | .sltu d a b => [packWord 0x06800004 [(d.toNat, 8), (a.toNat, 13), (b.toNat, 18)]]
  | .min d a b => [packWord 0x07000004 [(d.toNat, 8), (a.toNat, 13), (b.toNat, 18)]]
  | .max d a b => [packWord 0x07800004 [(d.toNat, 8), (a.toNat, 13), (b.toNat, 18)]]
  | .minu d a b => [packWord 0x08000004 [(d.toNat, 8), (a.toNat, 13), (b.toNat, 18)]]
  | .maxu d a b => [packWord 0x08800004 [(d.toNat, 8), (a.toNat, 13), (b.toNat, 18)]]
  | .mul d a b => [packWord 0x09000004 [(d.toNat, 8), (a.toNat, 13), (b.toNat, 18)]]
  | .mulh d a b => [packWord 0x09800004 [(d.toNat, 8), (a.toNat, 13), (b.toNat, 18)]]
  | .mulhu d a b => [packWord 0x0a000004 [(d.toNat, 8), (a.toNat, 13), (b.toNat, 18)]]
  | .div d a b => [packWord 0x0a800004 [(d.toNat, 8), (a.toNat, 13), (b.toNat, 18)]]
  | .divu d a b => [packWord 0x0b000004 [(d.toNat, 8), (a.toNat, 13), (b.toNat, 18)]]
  | .rem d a b => [packWord 0x0b800004 [(d.toNat, 8), (a.toNat, 13), (b.toNat, 18)]]
  | .remu d a b => [packWord 0x0c000004 [(d.toNat, 8), (a.toNat, 13), (b.toNat, 18)]]
  | .clz d a => [packWord 0x0c800004 [(d.toNat, 8), (a.toNat, 13)]]
  | .ctz d a => [packWord 0x0d000004 [(d.toNat, 8), (a.toNat, 13)]]
  | .popc d a => [packWord 0x0d800004 [(d.toNat, 8), (a.toNat, 13)]]
  | .addw d a b => [packWord 0x0e000004 [(d.toNat, 8), (a.toNat, 13), (b.toNat, 18)]]
  | .subw d a b => [packWord 0x0e800004 [(d.toNat, 8), (a.toNat, 13), (b.toNat, 18)]]
  | .mulw d a b => [packWord 0x0f000004 [(d.toNat, 8), (a.toNat, 13), (b.toNat, 18)]]
  | .addi d a i => [packWord 0x00000008 [(d.toNat, 8), (a.toNat, 13), (i.toNat, 18)]]
  | .andi d a i => [packWord 0x0000000c [(d.toNat, 8), (a.toNat, 13), (i.toNat, 18)]]
  | .ori d a i => [packWord 0x00000010 [(d.toNat, 8), (a.toNat, 13), (i.toNat, 18)]]
  | .xori d a i => [packWord 0x00000014 [(d.toNat, 8), (a.toNat, 13), (i.toNat, 18)]]
  | .slti d a i => [packWord 0x00000018 [(d.toNat, 8), (a.toNat, 13), (i.toNat, 18)]]
  | .sltiu d a i => [packWord 0x0000001c [(d.toNat, 8), (a.toNat, 13), (i.toNat, 18)]]
  | .slli d a n => [packWord 0x00000020 [(d.toNat, 8), (a.toNat, 13), (n.toNat, 18)]]
  | .srli d a n => [packWord 0x01000020 [(d.toNat, 8), (a.toNat, 13), (n.toNat, 18)]]
  | .srai d a n => [packWord 0x02000020 [(d.toNat, 8), (a.toNat, 13), (n.toNat, 18)]]
  | .rori d a n => [packWord 0x03000020 [(d.toNat, 8), (a.toNat, 13), (n.toNat, 18)]]
  | .lhi d i => [packWord 0x00000024 [(d.toNat, 8), (i.toNat, 13)]]
  | .apc d i => [packWord 0x00000028 [(d.toNat, 8), (i.toNat, 13)]]
  | .lb d b i => [packWord 0x00000040 [(d.toNat, 8), (b.toNat, 13), (i.toNat, 21)]]
  | .lh d b i => [packWord 0x00040040 [(d.toNat, 8), (b.toNat, 13), (i.toNat, 21)]]
  | .lw d b i => [packWord 0x00080040 [(d.toNat, 8), (b.toNat, 13), (i.toNat, 21)]]
  | .ld d b i => [packWord 0x000c0040 [(d.toNat, 8), (b.toNat, 13), (i.toNat, 21)]]
  | .lbu d b i => [packWord 0x00100040 [(d.toNat, 8), (b.toNat, 13), (i.toNat, 21)]]
  | .lhu d b i => [packWord 0x00140040 [(d.toNat, 8), (b.toNat, 13), (i.toNat, 21)]]
  | .lwu d b i => [packWord 0x00180040 [(d.toNat, 8), (b.toNat, 13), (i.toNat, 21)]]
  | .ldsync d b i => [packWord 0x001c0040 [(d.toNat, 8), (b.toNat, 13), (i.toNat, 21)]]
  | .sb s b i => [packWord 0x00000044 [(s.toNat, 8), (b.toNat, 13), (i.toNat, 21)]]
  | .sh s b i => [packWord 0x00040044 [(s.toNat, 8), (b.toNat, 13), (i.toNat, 21)]]
  | .sw s b i => [packWord 0x00080044 [(s.toNat, 8), (b.toNat, 13), (i.toNat, 21)]]
  | .sd s b i => [packWord 0x000c0044 [(s.toNat, 8), (b.toNat, 13), (i.toNat, 21)]]
  | .fclr b i => [packWord 0x00100044 [(b.toNat, 13), (i.toNat, 21)]]
  | .amoSwap d a b c w r => [packWord 0x00000048 [(d.toNat, 8), (a.toNat, 13), (b.toNat, 18), (c.toNat, 29), (w.toNat, 27), (r.toNat, 31)]]
  | .amoAdd d a b c w r => [packWord 0x00800048 [(d.toNat, 8), (a.toNat, 13), (b.toNat, 18), (c.toNat, 29), (w.toNat, 27), (r.toNat, 31)]]
  | .amoAnd d a b c w r => [packWord 0x01000048 [(d.toNat, 8), (a.toNat, 13), (b.toNat, 18), (c.toNat, 29), (w.toNat, 27), (r.toNat, 31)]]
  | .amoOr d a b c w r => [packWord 0x01800048 [(d.toNat, 8), (a.toNat, 13), (b.toNat, 18), (c.toNat, 29), (w.toNat, 27), (r.toNat, 31)]]
  | .amoXor d a b c w r => [packWord 0x02000048 [(d.toNat, 8), (a.toNat, 13), (b.toNat, 18), (c.toNat, 29), (w.toNat, 27), (r.toNat, 31)]]
  | .amoMin d a b c w r => [packWord 0x02800048 [(d.toNat, 8), (a.toNat, 13), (b.toNat, 18), (c.toNat, 29), (w.toNat, 27), (r.toNat, 31)]]
  | .amoMax d a b c w r => [packWord 0x03000048 [(d.toNat, 8), (a.toNat, 13), (b.toNat, 18), (c.toNat, 29), (w.toNat, 27), (r.toNat, 31)]]
  | .amoMinu d a b c w r => [packWord 0x03800048 [(d.toNat, 8), (a.toNat, 13), (b.toNat, 18), (c.toNat, 29), (w.toNat, 27), (r.toNat, 31)]]
  | .amoMaxu d a b c w r => [packWord 0x04000048 [(d.toNat, 8), (a.toNat, 13), (b.toNat, 18), (c.toNat, 29), (w.toNat, 27), (r.toNat, 31)]]
  | .amoCas d a b c w r => [packWord 0x04800048 [(d.toNat, 8), (a.toNat, 13), (b.toNat, 18), (c.toNat, 29), (w.toNat, 27), (r.toNat, 31)]]
  | .amoFadd d a b c w r => [packWord 0x05000048 [(d.toNat, 8), (a.toNat, 13), (b.toNat, 18), (c.toNat, 29), (w.toNat, 27), (r.toNat, 31)]]
  | .fence s p c => [packWord 0x0000004c [(s.toNat, 22), (p.toNat, 18), (c.toNat, 26)]]
  | .beq a b o => [packWord 0x00000050 [(a.toNat, 8), (b.toNat, 13), (o.toNat, 18)]]
  | .bne a b o => [packWord 0x00000054 [(a.toNat, 8), (b.toNat, 13), (o.toNat, 18)]]
  | .blt a b o => [packWord 0x00000058 [(a.toNat, 8), (b.toNat, 13), (o.toNat, 18)]]
  | .bge a b o => [packWord 0x0000005c [(a.toNat, 8), (b.toNat, 13), (o.toNat, 18)]]
  | .bltu a b o => [packWord 0x00000060 [(a.toNat, 8), (b.toNat, 13), (o.toNat, 18)]]
  | .bgeu a b o => [packWord 0x00000064 [(a.toNat, 8), (b.toNat, 13), (o.toNat, 18)]]
  | .jal d i => [packWord 0x00000068 [(d.toNat, 8), (i.toNat, 13)]]
  | .jalr d a i => [packWord 0x0000006c [(d.toNat, 8), (a.toNat, 13), (i.toNat, 18)]]
  | .getc d c => [packWord 0x00000070 [(d.toNat, 8), (c.toNat, 18)]]
  | .putc a c => [packWord 0x00000074 [(a.toNat, 13), (c.toNat, 18)]]
  | .trapSoft a => [packWord 0x00000078 [(a.toNat, 13)]]
  | .tlbi a b => [packWord 0x03000078 [(a.toNat, 13), (b.toNat, 18)]]
  | .launch d a b => [packWord 0x04000078 [(d.toNat, 8), (a.toNat, 13), (b.toNat, 18)]]
  | .testScan d a => [packWord 0x04800078 [(d.toNat, 8), (a.toNat, 13)]]
  | .swb a b => [packWord 0x06000078 [(a.toNat, 13), (b.toNat, 18)]]
  | .dfin a b => [packWord 0x06800078 [(a.toNat, 13), (b.toNat, 18)]]
  | .route p a => [packWord 0x00001c7c [(p.toNat, 8), (a.toNat, 13)]]
  | .barDef a b => [packWord 0x0080007c [(a.toNat, 13), (b.toNat, 18)]]
  | .barArr a => [packWord 0x0100007c [(a.toNat, 13)]]
  | .barWait a => [packWord 0x0180007c [(a.toNat, 13)]]
  | .barAw a => [packWord 0x0200007c [(a.toNat, 13)]]
  | .semSig a b => [packWord 0x0280007c [(a.toNat, 13), (b.toNat, 18)]]
  | .semWait a b => [packWord 0x0300007c [(a.toNat, 13), (b.toNat, 18)]]
  | .semPoll d a => [packWord 0x0380007c [(d.toNat, 8), (a.toNat, 13)]]
  | .postCall d a b => [packWord 0x0400007c [(d.toNat, 8), (a.toNat, 13), (b.toNat, 18)]]
  | .awaitCall d a => [packWord 0x0480007c [(d.toNat, 8), (a.toNat, 13)]]
  | .probeCall d a => [packWord 0x0500007c [(d.toNat, 8), (a.toNat, 13)]]
  | .otok d a => [packWord 0x0580007c [(d.toNat, 8), (a.toNat, 13)]]
  | .xflush a => [packWord 0x0600007c [(a.toNat, 13)]]
  | .vadd d a b k => [packWord 0x00000080 [(d.toNat, 8), (a.toNat, 14), (b.toNat, 20), (k.toNat, 26)]]
  | .vsub d a b k => [packWord 0x20000080 [(d.toNat, 8), (a.toNat, 14), (b.toNat, 20), (k.toNat, 26)]]
  | .vrsub d a b k => [packWord 0x40000080 [(d.toNat, 8), (a.toNat, 14), (b.toNat, 20), (k.toNat, 26)]]
  | .vmul d a b k => [packWord 0x60000080 [(d.toNat, 8), (a.toNat, 14), (b.toNat, 20), (k.toNat, 26)]]
  | .vmulh d a b k => [packWord 0x80000080 [(d.toNat, 8), (a.toNat, 14), (b.toNat, 20), (k.toNat, 26)]]
  | .vdiv d a b k => [packWord 0xa0000080 [(d.toNat, 8), (a.toNat, 14), (b.toNat, 20), (k.toNat, 26)]]
  | .vrem d a b k => [packWord 0xc0000080 [(d.toNat, 8), (a.toNat, 14), (b.toNat, 20), (k.toNat, 26)]]
  | .vavg d a b k => [packWord 0xe0000080 [(d.toNat, 8), (a.toNat, 14), (b.toNat, 20), (k.toNat, 26)]]
  | .vmin d a b k => [packWord 0x00000084 [(d.toNat, 8), (a.toNat, 14), (b.toNat, 20), (k.toNat, 26)]]
  | .vmax d a b k => [packWord 0x20000084 [(d.toNat, 8), (a.toNat, 14), (b.toNat, 20), (k.toNat, 26)]]
  | .vand d a b k => [packWord 0x40000084 [(d.toNat, 8), (a.toNat, 14), (b.toNat, 20), (k.toNat, 26)]]
  | .vor d a b k => [packWord 0x60000084 [(d.toNat, 8), (a.toNat, 14), (b.toNat, 20), (k.toNat, 26)]]
  | .vxor d a b k => [packWord 0x80000084 [(d.toNat, 8), (a.toNat, 14), (b.toNat, 20), (k.toNat, 26)]]
  | .vsll d a b k => [packWord 0xa0000084 [(d.toNat, 8), (a.toNat, 14), (b.toNat, 20), (k.toNat, 26)]]
  | .vsrl d a b k => [packWord 0xc0000084 [(d.toNat, 8), (a.toNat, 14), (b.toNat, 20), (k.toNat, 26)]]
  | .vsra d a b k => [packWord 0xe0000084 [(d.toNat, 8), (a.toNat, 14), (b.toNat, 20), (k.toNat, 26)]]
  | .vadds d a b k => [packWord 0x00000088 [(d.toNat, 8), (a.toNat, 14), (b.toNat, 20), (k.toNat, 26)]]
  | .vsubs d a b k => [packWord 0x20000088 [(d.toNat, 8), (a.toNat, 14), (b.toNat, 20), (k.toNat, 26)]]
  | .vwmul d a b k => [packWord 0x40000088 [(d.toNat, 8), (a.toNat, 14), (b.toNat, 20), (k.toNat, 26)]]
  | .vdot4 d a b k => [packWord 0x60000088 [(d.toNat, 8), (a.toNat, 14), (b.toNat, 20), (k.toNat, 26)]]
  | .vceq d a b k => [packWord 0x80000088 [(d.toNat, 8), (a.toNat, 14), (b.toNat, 20), (k.toNat, 26)]]
  | .vcne d a b k => [packWord 0xa0000088 [(d.toNat, 8), (a.toNat, 14), (b.toNat, 20), (k.toNat, 26)]]
  | .vclt d a b k => [packWord 0xc0000088 [(d.toNat, 8), (a.toNat, 14), (b.toNat, 20), (k.toNat, 26)]]
  | .vcle d a b k => [packWord 0xe0000088 [(d.toNat, 8), (a.toNat, 14), (b.toNat, 20), (k.toNat, 26)]]
  | .vsel d a b k => [packWord 0x0000008c [(d.toNat, 8), (a.toNat, 14), (b.toNat, 20), (k.toNat, 26)]]
  | .vmv d a k => [packWord 0x2000008c [(d.toNat, 8), (a.toNat, 14), (k.toNat, 26)]]
  | .vabs d a k => [packWord 0x4000008c [(d.toNat, 8), (a.toNat, 14), (k.toNat, 26)]]
  | .vneg d a k => [packWord 0x6000008c [(d.toNat, 8), (a.toNat, 14), (k.toNat, 26)]]
  | .vsqrt d a k => [packWord 0x8000008c [(d.toNat, 8), (a.toNat, 14), (k.toNat, 26)]]
  | .vrcp d a k => [packWord 0xa000008c [(d.toNat, 8), (a.toNat, 14), (k.toNat, 26)]]
  | .vexp2 d a k => [packWord 0xc000008c [(d.toNat, 8), (a.toNat, 14), (k.toNat, 26)]]
  | .vlog2 d a k => [packWord 0xe000008c [(d.toNat, 8), (a.toNat, 14), (k.toNat, 26)]]
  | .vaddVs d a s k => [packWord 0x00000090 [(d.toNat, 8), (a.toNat, 14), (s.toNat, 20), (k.toNat, 26)]]
  | .vsubVs d a s k => [packWord 0x20000090 [(d.toNat, 8), (a.toNat, 14), (s.toNat, 20), (k.toNat, 26)]]
  | .vrsubVs d a s k => [packWord 0x40000090 [(d.toNat, 8), (a.toNat, 14), (s.toNat, 20), (k.toNat, 26)]]
  | .vmulVs d a s k => [packWord 0x60000090 [(d.toNat, 8), (a.toNat, 14), (s.toNat, 20), (k.toNat, 26)]]
  | .vmulhVs d a s k => [packWord 0x80000090 [(d.toNat, 8), (a.toNat, 14), (s.toNat, 20), (k.toNat, 26)]]
  | .vdivVs d a s k => [packWord 0xa0000090 [(d.toNat, 8), (a.toNat, 14), (s.toNat, 20), (k.toNat, 26)]]
  | .vremVs d a s k => [packWord 0xc0000090 [(d.toNat, 8), (a.toNat, 14), (s.toNat, 20), (k.toNat, 26)]]
  | .vavgVs d a s k => [packWord 0xe0000090 [(d.toNat, 8), (a.toNat, 14), (s.toNat, 20), (k.toNat, 26)]]
  | .vminVs d a s k => [packWord 0x00000094 [(d.toNat, 8), (a.toNat, 14), (s.toNat, 20), (k.toNat, 26)]]
  | .vmaxVs d a s k => [packWord 0x20000094 [(d.toNat, 8), (a.toNat, 14), (s.toNat, 20), (k.toNat, 26)]]
  | .vandVs d a s k => [packWord 0x40000094 [(d.toNat, 8), (a.toNat, 14), (s.toNat, 20), (k.toNat, 26)]]
  | .vorVs d a s k => [packWord 0x60000094 [(d.toNat, 8), (a.toNat, 14), (s.toNat, 20), (k.toNat, 26)]]
  | .vxorVs d a s k => [packWord 0x80000094 [(d.toNat, 8), (a.toNat, 14), (s.toNat, 20), (k.toNat, 26)]]
  | .vsllVs d a s k => [packWord 0xa0000094 [(d.toNat, 8), (a.toNat, 14), (s.toNat, 20), (k.toNat, 26)]]
  | .vsrlVs d a s k => [packWord 0xc0000094 [(d.toNat, 8), (a.toNat, 14), (s.toNat, 20), (k.toNat, 26)]]
  | .vsraVs d a s k => [packWord 0xe0000094 [(d.toNat, 8), (a.toNat, 14), (s.toNat, 20), (k.toNat, 26)]]
  | .mif c => [packWord 0x00000098 [(c.toNat, 14)]]
  | .mbrk c => [packWord 0x60000098 [(c.toNat, 14)]]
  | .mand d a b => [packWord 0x80000098 [(d.toNat, 8), (a.toNat, 14), (b.toNat, 20)]]
  | .mor d a b => [packWord 0xa0000098 [(d.toNat, 8), (a.toNat, 14), (b.toNat, 20)]]
  | .mxor d a b => [packWord 0xc0000098 [(d.toNat, 8), (a.toNat, 14), (b.toNat, 20)]]
  | .mnot d a => [packWord 0xe0000098 [(d.toNat, 8), (a.toNat, 14)]]
  | .vslideup d a s k => [packWord 0x0000009c [(d.toNat, 8), (a.toNat, 14), (s.toNat, 20), (k.toNat, 26)]]
  | .vslidedn d a s k => [packWord 0x2000009c [(d.toNat, 8), (a.toNat, 14), (s.toNat, 20), (k.toNat, 26)]]
  | .vperm d a b k => [packWord 0x4000009c [(d.toNat, 8), (a.toNat, 14), (b.toNat, 20), (k.toNat, 26)]]
  | .vredO d a s k => [packWord 0x6000009c [(d.toNat, 8), (a.toNat, 14), (s.toNat, 20), (k.toNat, 26)]]
  | .vredR d a s k => [packWord 0x8000009c [(d.toNat, 8), (a.toNat, 14), (s.toNat, 20), (k.toNat, 26)]]
  | .vscan d a s k => [packWord 0xa000009c [(d.toNat, 8), (a.toNat, 14), (s.toNat, 20), (k.toNat, 26)]]
  | .vrecMul d a s k => [packWord 0xc000009c [(d.toNat, 8), (a.toNat, 14), (s.toNat, 20), (k.toNat, 26)]]
  | .vrecMax d a s k => [packWord 0xc200009c [(d.toNat, 8), (a.toNat, 14), (s.toNat, 20), (k.toNat, 26)]]
  | .vext d a s => [packWord 0xe000009c [(d.toNat, 8), (a.toNat, 14), (s.toNat, 20)]]
  | .vld d b k => [packWord 0x000000a0 [(d.toNat, 8), (b.toNat, 14), (k.toNat, 26)]]
  | .vlds d s b k => [packWord 0x010000a0 [(d.toNat, 8), (s.toNat, 19), (b.toNat, 14), (k.toNat, 26)]]
  | .vldff d b k => [packWord 0x020000a0 [(d.toNat, 8), (b.toNat, 14), (k.toNat, 26)]]
  | .vpop d p k => [packWord 0x030000a0 [(d.toNat, 8), (p.toNat, 14), (k.toNat, 26)]]
  | .vst v b k => [packWord 0x000000a4 [(v.toNat, 8), (b.toNat, 14), (k.toNat, 26)]]
  | .vsts v s b k => [packWord 0x010000a4 [(v.toNat, 8), (s.toNat, 19), (b.toNat, 14), (k.toNat, 26)]]
  | .vpush v p k => [packWord 0x030000a4 [(v.toNat, 8), (p.toNat, 14), (k.toNat, 26)]]
  | .vsetl d a t => [packWord 0x000000a8 [(d.toNat, 8), (a.toNat, 14), (t.toNat, 20)]]
  | .vtag d t => [packWord 0x200000a8 [(d.toNat, 8), (t.toNat, 20)]]
  | .fadd d a b f r => [packWord 0x000000ac [(d.toNat, 8), (a.toNat, 13), (b.toNat, 18), (f.toNat, 27), (r.toNat, 29)]]
  | .fsub d a b f r => [packWord 0x008000ac [(d.toNat, 8), (a.toNat, 13), (b.toNat, 18), (f.toNat, 27), (r.toNat, 29)]]
  | .fmul d a b f r => [packWord 0x010000ac [(d.toNat, 8), (a.toNat, 13), (b.toNat, 18), (f.toNat, 27), (r.toNat, 29)]]
  | .fdiv d a b f r => [packWord 0x018000ac [(d.toNat, 8), (a.toNat, 13), (b.toNat, 18), (f.toNat, 27), (r.toNat, 29)]]
  | .fsqrt d a f r => [packWord 0x020000ac [(d.toNat, 8), (a.toNat, 13), (f.toNat, 27), (r.toNat, 29)]]
  | .fmin d a b f => [packWord 0x028000ac [(d.toNat, 8), (a.toNat, 13), (b.toNat, 18), (f.toNat, 27)]]
  | .fmax d a b f => [packWord 0x030000ac [(d.toNat, 8), (a.toNat, 13), (b.toNat, 18), (f.toNat, 27)]]
  | .feq d a b f => [packWord 0x038000ac [(d.toNat, 8), (a.toNat, 13), (b.toNat, 18), (f.toNat, 27)]]
  | .flt d a b f => [packWord 0x040000ac [(d.toNat, 8), (a.toNat, 13), (b.toNat, 18), (f.toNat, 27)]]
  | .fle d a b f => [packWord 0x048000ac [(d.toNat, 8), (a.toNat, 13), (b.toNat, 18), (f.toNat, 27)]]
  | .fclass d a f => [packWord 0x050000ac [(d.toNat, 8), (a.toNat, 13), (f.toNat, 27)]]
  | .fcvt d a g c f r => [packWord 0x058000ac [(d.toNat, 8), (a.toNat, 13), (g.toNat, 22), (c.toNat, 18), (f.toNat, 27), (r.toNat, 29)]]
  | .nop a => [packWord 0x000000f8 [(a.toNat, 8)]]
  | .pfL1 a => [packWord 0x000020f8 [(a.toNat, 8)]]
  | .pfL2 a => [packWord 0x000040f8 [(a.toNat, 8)]]
  | .pfSt a => [packWord 0x000060f8 [(a.toNat, 8)]]
  | .limm d imm => [packWord 0x5 [(d.toNat, 8), (imm.toNat % 2 ^ 19, 13)], packWord 0x3 [(imm.toNat / 2 ^ 19, 2)]]
  | .lbL d b off => [packWord 0x9 [(d.toNat, 8), (b.toNat, 13), (off.toNat % 2 ^ 11, 21)], packWord 0x3 [(off.toNat / 2 ^ 11, 2)]]
  | .lhL d b off => [packWord 0x40009 [(d.toNat, 8), (b.toNat, 13), (off.toNat % 2 ^ 11, 21)], packWord 0x3 [(off.toNat / 2 ^ 11, 2)]]
  | .lwL d b off => [packWord 0x80009 [(d.toNat, 8), (b.toNat, 13), (off.toNat % 2 ^ 11, 21)], packWord 0x3 [(off.toNat / 2 ^ 11, 2)]]
  | .ldL d b off => [packWord 0xc0009 [(d.toNat, 8), (b.toNat, 13), (off.toNat % 2 ^ 11, 21)], packWord 0x3 [(off.toNat / 2 ^ 11, 2)]]
  | .lbuL d b off => [packWord 0x100009 [(d.toNat, 8), (b.toNat, 13), (off.toNat % 2 ^ 11, 21)], packWord 0x3 [(off.toNat / 2 ^ 11, 2)]]
  | .lhuL d b off => [packWord 0x140009 [(d.toNat, 8), (b.toNat, 13), (off.toNat % 2 ^ 11, 21)], packWord 0x3 [(off.toNat / 2 ^ 11, 2)]]
  | .lwuL d b off => [packWord 0x180009 [(d.toNat, 8), (b.toNat, 13), (off.toNat % 2 ^ 11, 21)], packWord 0x3 [(off.toNat / 2 ^ 11, 2)]]
  | .ldsyncL d b off => [packWord 0x1c0009 [(d.toNat, 8), (b.toNat, 13), (off.toNat % 2 ^ 11, 21)], packWord 0x3 [(off.toNat / 2 ^ 11, 2)]]
  | .sbL s b off => [packWord 0xd [(s.toNat, 8), (b.toNat, 13), (off.toNat % 2 ^ 11, 21)], packWord 0x3 [(off.toNat / 2 ^ 11, 2)]]
  | .shL s b off => [packWord 0x4000d [(s.toNat, 8), (b.toNat, 13), (off.toNat % 2 ^ 11, 21)], packWord 0x3 [(off.toNat / 2 ^ 11, 2)]]
  | .swL s b off => [packWord 0x8000d [(s.toNat, 8), (b.toNat, 13), (off.toNat % 2 ^ 11, 21)], packWord 0x3 [(off.toNat / 2 ^ 11, 2)]]
  | .sdL s b off => [packWord 0xc000d [(s.toNat, 8), (b.toNat, 13), (off.toNat % 2 ^ 11, 21)], packWord 0x3 [(off.toNat / 2 ^ 11, 2)]]
  | .fclrL b off => [packWord 0x10000d [(b.toNat, 13), (off.toNat % 2 ^ 11, 21)], packWord 0x3 [(off.toNat / 2 ^ 11, 2)]]
  | .jalL d imm => [packWord 0x11 [(d.toNat, 8), (imm.toNat % 2 ^ 19, 13)], packWord 0x3 [(imm.toNat / 2 ^ 19, 2)]]
  | .fma d a b c fmt rm => [packWord 0x15 [(d.toNat, 8), (a.toNat, 13), (b.toNat, 18), (fmt.toNat, 23), (rm.toNat, 27)], packWord 0x3 [(c.toNat, 2)]]
  | .fms d a b c fmt rm => [packWord 0x2000015 [(d.toNat, 8), (a.toNat, 13), (b.toNat, 18), (fmt.toNat, 23), (rm.toNat, 27)], packWord 0x3 [(c.toNat, 2)]]
  | .fnma d a b c fmt rm => [packWord 0x4000015 [(d.toNat, 8), (a.toNat, 13), (b.toNat, 18), (fmt.toNat, 23), (rm.toNat, 27)], packWord 0x3 [(c.toNat, 2)]]
  | .fnms d a b c fmt rm => [packWord 0x6000015 [(d.toNat, 8), (a.toNat, 13), (b.toNat, 18), (fmt.toNat, 23), (rm.toNat, 27)], packWord 0x3 [(c.toNat, 2)]]
  | .vfma d a b c k rm => [packWord 0x41 [(d.toNat, 8), (a.toNat, 14), (b.toNat, 20), (k.toNat, 26)], packWord 0x3 [(c.toNat, 2), (rm.toNat, 8)]]
  | .vfms d a b c k rm => [packWord 0x20000041 [(d.toNat, 8), (a.toNat, 14), (b.toNat, 20), (k.toNat, 26)], packWord 0x3 [(c.toNat, 2), (rm.toNat, 8)]]
  | .vfnma d a b c k rm => [packWord 0x40000041 [(d.toNat, 8), (a.toNat, 14), (b.toNat, 20), (k.toNat, 26)], packWord 0x3 [(c.toNat, 2), (rm.toNat, 8)]]
  | .vfnms d a b c k rm => [packWord 0x60000041 [(d.toNat, 8), (a.toNat, 14), (b.toNat, 20), (k.toNat, 26)], packWord 0x3 [(c.toNat, 2), (rm.toNat, 8)]]
  | .vmopO d a b k g => [packWord 0x45 [(d.toNat, 8), (a.toNat, 14), (b.toNat, 20), (k.toNat, 26)], packWord 0x3 [(g.toNat, 2)]]
  | .vmopR d a b k g => [packWord 0x20000045 [(d.toNat, 8), (a.toNat, 14), (b.toNat, 20), (k.toNat, 26)], packWord 0x3 [(g.toNat, 2)]]
  | .vmzero d => [packWord 0x40000045 [(d.toNat, 8)], packWord 0x3 []]
  | .vmrd d => [packWord 0x60000045 [(d.toNat, 8)], packWord 0x3 []]
  | .vldx d base b k ish => [packWord 0x49 [(d.toNat, 8), (base.toNat, 14), (b.toNat, 19), (k.toNat, 26)], packWord 0x3 [(ish.toNat, 20)]]
  | .vstx v base b k ish => [packWord 0x20000049 [(v.toNat, 8), (base.toNat, 14), (b.toNat, 19), (k.toNat, 26)], packWord 0x3 [(ish.toNat, 20)]]
  | .vstxo v base b k ish => [packWord 0x40000049 [(v.toNat, 8), (base.toNat, 14), (b.toNat, 19), (k.toNat, 26)], packWord 0x3 [(ish.toNat, 20)]]
  | .vamoSwap d base b c k ish scope ar ret => [packWord 0x60000049 [(d.toNat, 8), (base.toNat, 14), (b.toNat, 19), (k.toNat, 26)], packWord 0x3 [(c.toNat, 2), (scope.toNat, 12), (ar.toNat, 14), (ret.toNat, 15), (ish.toNat, 20)]]
  | .vamoAdd d base b c k ish scope ar ret => [packWord 0x60000049 [(d.toNat, 8), (base.toNat, 14), (b.toNat, 19), (k.toNat, 26)], packWord 0x103 [(c.toNat, 2), (scope.toNat, 12), (ar.toNat, 14), (ret.toNat, 15), (ish.toNat, 20)]]
  | .vamoAnd d base b c k ish scope ar ret => [packWord 0x60000049 [(d.toNat, 8), (base.toNat, 14), (b.toNat, 19), (k.toNat, 26)], packWord 0x203 [(c.toNat, 2), (scope.toNat, 12), (ar.toNat, 14), (ret.toNat, 15), (ish.toNat, 20)]]
  | .vamoOr d base b c k ish scope ar ret => [packWord 0x60000049 [(d.toNat, 8), (base.toNat, 14), (b.toNat, 19), (k.toNat, 26)], packWord 0x303 [(c.toNat, 2), (scope.toNat, 12), (ar.toNat, 14), (ret.toNat, 15), (ish.toNat, 20)]]
  | .vamoXor d base b c k ish scope ar ret => [packWord 0x60000049 [(d.toNat, 8), (base.toNat, 14), (b.toNat, 19), (k.toNat, 26)], packWord 0x403 [(c.toNat, 2), (scope.toNat, 12), (ar.toNat, 14), (ret.toNat, 15), (ish.toNat, 20)]]
  | .vamoMin d base b c k ish scope ar ret => [packWord 0x60000049 [(d.toNat, 8), (base.toNat, 14), (b.toNat, 19), (k.toNat, 26)], packWord 0x503 [(c.toNat, 2), (scope.toNat, 12), (ar.toNat, 14), (ret.toNat, 15), (ish.toNat, 20)]]
  | .vamoMax d base b c k ish scope ar ret => [packWord 0x60000049 [(d.toNat, 8), (base.toNat, 14), (b.toNat, 19), (k.toNat, 26)], packWord 0x603 [(c.toNat, 2), (scope.toNat, 12), (ar.toNat, 14), (ret.toNat, 15), (ish.toNat, 20)]]
  | .vamoMinu d base b c k ish scope ar ret => [packWord 0x60000049 [(d.toNat, 8), (base.toNat, 14), (b.toNat, 19), (k.toNat, 26)], packWord 0x703 [(c.toNat, 2), (scope.toNat, 12), (ar.toNat, 14), (ret.toNat, 15), (ish.toNat, 20)]]
  | .vamoMaxu d base b c k ish scope ar ret => [packWord 0x60000049 [(d.toNat, 8), (base.toNat, 14), (b.toNat, 19), (k.toNat, 26)], packWord 0x803 [(c.toNat, 2), (scope.toNat, 12), (ar.toNat, 14), (ret.toNat, 15), (ish.toNat, 20)]]
  | .vamoFadd d base b c k ish scope ar ret => [packWord 0x60000049 [(d.toNat, 8), (base.toNat, 14), (b.toNat, 19), (k.toNat, 26)], packWord 0xa03 [(c.toNat, 2), (scope.toNat, 12), (ar.toNat, 14), (ret.toNat, 15), (ish.toNat, 20)]]
  | .vplane v base k pm1 => [packWord 0x80000049 [(v.toNat, 8), (base.toNat, 14), (k.toNat, 26)], packWord 0x3 [(pm1.toNat, 16)]]
  | .vcvt d a tag rm sat => [packWord 0x4d [(d.toNat, 8), (a.toNat, 14)], packWord 0x3 [(tag.toNat, 14), (rm.toNat, 10), (sat.toNat, 13)]]
  | .vredmax d a s => [packWord 0x4d [(d.toNat, 8), (a.toNat, 14)], packWord 0x7 [(s.toNat, 18)]]
  | .vredmin d a s => [packWord 0x4d [(d.toNat, 8), (a.toNat, 14)], packWord 0xb [(s.toNat, 18)]]
  | .vins d v s => [packWord 0x4d [(d.toNat, 8), (v.toNat, 14)], packWord 0xf [(s.toNat, 18)]]
  | .vbcast d s => [packWord 0x4d [(d.toNat, 8)], packWord 0x13 [(s.toNat, 18)]]
  | .viota d => [packWord 0x4d [(d.toNat, 8)], packWord 0x17 []]
  | .vcompress d a k => [packWord 0x4d [(d.toNat, 8), (a.toNat, 14), (k.toNat, 26)], packWord 0x1b []]
  | .mpopc d k => [packWord 0x4d [(k.toNat, 26)], packWord 0x1f [(d.toNat, 18)]]
  | .mfirst d k => [packWord 0x4d [(k.toNat, 26)], packWord 0x23 [(d.toNat, 18)]]
  | .vclz d a => [packWord 0x4d [(d.toNat, 8), (a.toNat, 14)], packWord 0x27 []]
  | .vpopc d a => [packWord 0x4d [(d.toNat, 8), (a.toNat, 14)], packWord 0x2b []]
  | .postv d a va nm1 k => [packWord 0x51 [(d.toNat, 8), (a.toNat, 13), (va.toNat, 18), (nm1.toNat, 24), (k.toNat, 28)], packWord 0x3 []]
  | .vpopNw d port sd k limit => [packWord 0x55 [(d.toNat, 8), (port.toNat, 14), (sd.toNat, 18), (k.toNat, 26)], packWord 0x3 [(limit.toNat, 2)]]
  | .vpushNw v port sd k limit => [packWord 0x20055 [(v.toNat, 8), (port.toNat, 14), (sd.toNat, 18), (k.toNat, 26)], packWord 0x3 [(limit.toNat, 2)]]
  | .hint a code => [packWord 0xf8 [(a.toNat, 8), (code.toNat, 13)]]
  | .twoWordHint f1 f2 => [packWord 0xf9 [(f1.toNat, 8)], packWord 0x3 [(f2.toNat, 2)]]
  | .illegalInstruction _ _ => []
  | .tret => [packWord 0x00800078 []]
  | .idle => [packWord 0x01000078 []]
  | .endStrand => [packWord 0x01800078 []]
  | .yield => [packWord 0x02000078 []]
  | .brk => [packWord 0x02800078 []]
  | .tlbia => [packWord 0x03800078 []]
  | .ion => [packWord 0x05000078 []]
  | .ioff => [packWord 0x05800078 []]
  | .melse => [packWord 0x20000098 []]
  | .mend => [packWord 0x40000098 []]
  | .asyncTrapEntry => []
  | .wdogExpiry => []
  | .vlenWrite => []
  | .vtypeWrite => []
  | .fflagsWrite => []
  | .portenWrite => []
  | .vbackWrite => []
  | .vqctlDrop => []
  | .detBackingWrite => []
  | .lqbaseWrite => []
  | .lqdoor => []
  | .reloadRcb => []
  | .killRcb => []
  | .attest => []
  | .xgrant => []
  | .vfirq => []
  | .createPart => []
  | .destroyPart => []
  | .preset => []
  | .bhreset => []
  | .bhpower => []
  | .winopen => []
  | .winclose => []
  | .s2inv => []
  | .setrcb => []
  | .monupd => []
  | .poladd => []
  | .poldel => []
  | .withdrawCore => []
  | .returnCore => []
  | .removeCore => []
  | .dispatchSelection => []
  | .launchRecordTake => []
  | .launchStart => []
  | .fenceRecord => []
  | .strandSwitchOut => []
  | .strandResume => []
  | .forcedSave => []
  | .poolExhausted => []
  | .periodBoundary => []
  | .parkedWordMoveIn => []
  | .barrierTimeout => []
  | .matrixJob => []
  | .teCopy => []
  | .teGather => []
  | .teMcast => []
  | .tePut => []
  | .tePutadd => []
  | .teFeedin => []
  | .teFeedout => []
  | .feedVectorMove => []
  | .inboundPut => []
  | .seSort => []
  | .rbeRaster => []
  | .rbeOpen => []
  | .rbeClose => []
  | .rbeCancel => []
  | .rbeSeqreset => []
  | .fragmentBatch => []
  | .batchCommit => []
  | .gapTimeout => []
  | .txuSample => []
  | .rtBind => []
  | .rtUnbind => []
  | .rtDrop => []
  | .rtTrace => []
  | .rtReply => []
  | .rayBatchRelease => []
  | .collectionOpen => []
  | .collectionClose => []
  | .rouDeposit => []
  | .rouBatchRelease => []
  | .hostIpaAccess => []
  | .pfHypAccess => []
  | .pfdoor => []
  | .vfdoor => []
  | .vfsup => []
  | .linkLoss => []
  | .deviceReset => []
  | .railPllFault => []
  | .bulkheadUncorrectableError => []
  | .dispatcherWatchdog => []
  | .bulkheadResetComplete => []
  | .powerOnComplete => []
  | .scrubComplete => []
  | .serviceCoreError => []
  | .illegalEntry => []
  | .fetchFault => []
  | .boundedStreamLimit => []

/-- The bytes of an instruction, in memory order (R4). -/
def encodeBytes (i : Instr) : List Byte := (encode i).flatMap fun w => bytesOfNat 4 w.toNat

/-- The length of an instruction in bytes: 4, or 8 for a pair of words (R73). -/
def Instr.size (i : Instr) : Nat := 4 * (encode i).length

end Sys2Proof
end

