-- ==== Sys2Proof/Config.lean ====
section
/-! DEFINITION. What the implementation fixes and the spec leaves open: constants with no body, so that no
proof can see a value of them (free values, log 7). -/

namespace Sys2Proof.Config

/-- A free value: the choice number `draw` of step number `tick`. Every use of the model takes a fresh
pair, so a statement about a free value holds for every value (log 7). -/
opaque free : (tick draw : Nat) → Nat

/-- The clk that pass during step number `tick` (R6, R134: the spec fixes no duration of a step; log 8). -/
opaque elapsed : (tick : Nat) → Nat

/-- Rouwald's configuration public key and firmware public key, x and y; the mask ROM holds their digests (R443). The spec gives
no key (log 9). -/
opaque tableKey : Nat × Nat
opaque firmwareKey : Nat × Nat

/-- What the link die's PUF gives for the private identity key (R443 step 1; log 9). -/
opaque idSeed : Nat

/-- Does the link die's SRAM PUF give a key (R443 step 1)? -/
opaque pufWorks : Bool

/-- Which vectors the host has enabled for a virtual function (R460): the host's matter. -/
opaque irqEnabled : (pid vec : Nat) → Bool

end Sys2Proof.Config
end

