-- ==== Sys2Proof/Machine/State.lean ====
section
/-! DEFINITION. The state of the SPX-K920 as plain data: strands, cores, engines, partitions, bulkheads, the service
column, memory and links; the outcomes of a step; and the state right after device reset. -/

namespace Sys2Proof.Machine

/-- Reasons the machine stops with a fault. -/
inductive Fault where
  /-- Raised by no step of the device: the spec gives every error of a strand a trap, a status or a kill. A
  placeholder for the host's interface. Safe: nothing can be proved from a stop that never comes. -/
  | unreachable
  deriving DecidableEq, Repr

/-- Reasons an instruction has no meaning here. -/
inductive Refusal where
  /-- The instruction's row has no meaning in the model yet. Safe. -/
  | notModelled (mnemonic : String)
  deriving DecidableEq, Repr

/-- The privilege levels (R9). -/
inductive Level where
  | app | sup | hyp | mon
  deriving DecidableEq, Repr

/-- One trap bank: TRAPPC, TRAPCAUSE, TRAPVAL, TRAPVEC, TRAPVPC and TRAPIPA of a level (R144, R146). -/
structure Bank where
  pc : Word
  cause : Word
  val : Word
  vec : Word
  vpc : Word
  ipa : BitVec 48
  deriving DecidableEq, Repr

/-- A bank after reset (R144: 0). -/
def Bank.zero : Bank := ⟨0, 0, 0, 0, 0, 0⟩

/-- The element-wise binary operations of majors 0x20-0x25 (R88). -/
inductive BinOp where
  | add | sub | rsub | mul | mulh | div | rem | avg | min | max | and | or | xor | sll | srl | sra | adds | subs
  deriving DecidableEq, Repr

/-- The element-wise unary operations of majors 0x23 and 0x13 (R257, R265). -/
inductive UnOp where
  | mv | abs | neg | sqrt | rcp | exp2 | log2 | clz | popc
  deriving DecidableEq, Repr

/-- The compares (R262). -/
inductive CmpOp where
  | eq | ne | lt | le
  deriving DecidableEq, Repr

/-- The fused operations (R218, R263). -/
inductive FmaOp where
  | fma | fms | fnma | fnms
  deriving DecidableEq, Repr

/-- The mask-logic operations (R267). -/
inductive MaskOp where
  | and | or | xor | not
  deriving DecidableEq, Repr

/-- The atomic operations (R83, R207). -/
inductive AmoOp where
  | swap | add | and | or | xor | min | max | minu | maxu | cas | fadd
  deriving DecidableEq, Repr

/-- A second operand: a vector register, or a captured scalar value (R237, R259). -/
inductive VSrc where
  | reg (r : VReg)
  | val (x : Word)
  deriving DecidableEq, Repr

/-- How a vector memory entry forms the address of an element (R288). -/
inductive VAddr where
  | unit
  | stride (x : Word)
  | index (r : VReg) (ish : Nat)
  deriving DecidableEq, Repr

/-- What a queued entry does, its scalar operands captured at queue entry (R237). -/
inductive VOp where
  | bin (op : BinOp) (d a : VReg) (b : VSrc) (k : KReg)
  | un (op : UnOp) (d a : VReg) (k : KReg)
  | wmul (d a b : VReg) (k : KReg)
  | dot4 (d a b : VReg) (k : KReg)
  | cmp (op : CmpOp) (d : KReg) (a b : VReg) (k : KReg)
  | sel (d a b : VReg) (k : KReg)
  | mif (c : KReg)
  | melse
  | mend
  | mbrk (c : KReg)
  | mlog (op : MaskOp) (d a b : KReg)
  | slide (up : Bool) (d a : VReg) (n : Word) (k : KReg)
  | perm (d a b : VReg) (k : KReg)
  | red (ordered : Bool) (d a : VReg) (s : Word) (k : KReg)
  | redm (isMax : Bool) (d a : VReg) (s : Word)
  | scan (d a : VReg) (s : Word) (k : KReg)
  | recur (isMax : Bool) (d a : VReg) (s : Word) (k : KReg)
  | ext (d : SReg) (a : VReg) (i : Word)
  | setl (n : Word)
  | vtag (d : VReg) (t : BitVec 4)
  | fma (op : FmaOp) (d a b c : VReg) (k : KReg) (rm : BitVec 3)
  | tile (ordered : Bool) (d a b : VReg) (k : KReg) (g : Nat)
  | tileZero (d : VReg)
  | tileRead (d : VReg)
  | cvt (d a : VReg) (t : BitVec 4) (rm : BitVec 3) (sat : Bool)
  | ins (d : VReg) (x i : Word)
  | bcast (d : VReg) (x : Word)
  | iota (d : VReg)
  | compress (d a : VReg) (k : KReg)
  | mpopc (d : SReg) (k : KReg)
  | mfirst (d : SReg) (k : KReg)
  | ld (d : VReg) (base : Word) (m : VAddr) (firstOnly : Bool) (k : KReg)
  | st (v : VReg) (base : Word) (m : VAddr) (ordered : Bool) (k : KReg)
  | amo (op : AmoOp) (d : VReg) (base : Word) (b : VReg) (ish : Nat) (c : VReg) (k : KReg) (scope : Nat) (ar ret : Bool)
  | plane (v : VReg) (base : Word) (k : KReg) (p : Nat)
  | pop (d : VReg) (port : Nat) (k : KReg)
  | push (v : VReg) (port : Nat) (k : KReg)
  | popNw (d : VReg) (port : Nat) (k : KReg) (sd : SReg) (limit : Nat)
  | pushNw (v : VReg) (port : Nat) (k : KReg) (sd : SReg) (limit : Nat)
  | postv (d : SReg) (ea : Word) (va : VReg) (n : Nat) (k : KReg)
  deriving DecidableEq, Repr

/-- An entry of the vector queue: its operation, words, address and captured values (R169, R237, R253), and the address
space and level in force at its entry (R145). -/
structure VEntry where
  op : VOp
  w1 : IWord
  w2 : IWord
  pc : Word
  x1 : Word
  x2 : Word
  vl : Nat
  tag : BitVec 4
  frm : BitVec 3
  asid : BitVec 16
  ptbase : Word
  level : Level
  /-- the strip that it was issued in (R130) -/
  strip : Nat
  /-- the model's: its own number among the entries of its strand, that no instruction can change (R299) -/
  id : Nat
  /-- the model's: what a load that performed before the entries ahead of it took, whether that has an uncorrectable error, and the
  strip that was issued in then (R130; log 21) -/
  pre : Option (VBits × Bool × Nat)
  deriving DecidableEq, Repr

/-- Where the data of a vector register is (R246): never written, resident and never written, resident and equal to
its backing slot, resident, or in the backing slot alone. -/
inductive Res where
  | zero | rzero | clean | dirty | backed
  deriving DecidableEq, Repr

/-- One contribution of a `vmop.r` to an open tile: the eight row values, the column register, the active columns
and the captured rounding mode (R280). -/
structure TilePart where
  rows : List Nat
  cols : VBits
  act : MBits
  frm : BitVec 3
  deriving DecidableEq, Repr

/-- An open tile: its base register and what is not merged yet, oldest first (R243). -/
structure OpenTile where
  base : Nat
  parts : List TilePart
  deriving DecidableEq, Repr

/-- A vector in the FIFO of a stream port (R303). -/
structure SVec where
  data : VBits
  count : Nat
  tag : BitVec 4
  act : MBits
  /-- its data carries an uncorrectable error (R304) -/
  bad : Bool
  /-- a push of the strand put it there (R347) -/
  pushed : Bool
  deriving DecidableEq, Repr

/-- The binding of a stream port (R303). -/
inductive Bind where
  | unbound | arrival | departure
  deriving DecidableEq, Repr

/-- A stream port: its binding, whether it holds 8 KiB of port storage, and its FIFO (R303). -/
structure SPort where
  bind : Bind
  held : Bool
  fifo : List SVec
  deriving DecidableEq, Repr

/-- An unbound, empty stream port (R303). -/
def SPort.empty : SPort := ⟨.unbound, false, []⟩

/-- The statuses of a ticket (R23). -/
inductive TStat where
  | pending | done | fault | reset
  deriving DecidableEq, Repr

/-- A slot of the call table that holds a call (R22, R24): the ticket's fields, the status, the fault record and the
place in posting order. -/
structure Slot where
  seq : BitVec 16
  kind : Nat
  queue : Nat
  index : Nat
  stat : TStat
  record : Word
  order : Nat
  deriving DecidableEq, Repr

/-- A physical core (R15). -/
structure CoreId where
  die : Nat
  col : Nat
  row : Nat
  core : Nat
  deriving DecidableEq, Repr

/-- What a strand belongs to: a launch of a context of a partition (RCBs by IPA), the hypervisor strand, or a service
core at MON (R424, 19). -/
inductive Owner where
  | part (pid ctx rcb lid : Nat)
  | hyp
  | mon
  deriving DecidableEq, Repr

/-- A pending vector trap (R166): cause, TRAPVAL, and the IPA of a stage-2 fault (R149). -/
structure VTrap where
  cause : Nat
  val : Word
  ipa : Option (BitVec 48)
  deriving DecidableEq, Repr

/-- A register or mask of a strand that holds something computed from the result of a load or `vamo` of the strip that runs, and that
entry's number (R292). -/
structure Dep where
  mask : Bool
  reg : Nat
  load : Nat
  deriving DecidableEq, Repr

/-- A scalar load that has been issued and has not taken its value yet (R127, R131; log 11): its register, where it reads, whether
caches serve that place, how many bytes, whether it extends the sign, and whether its address came from a port word with an error
mark (R313). -/
structure Late where
  d : SReg
  addr : Nat
  lags : Bool
  size : Nat
  signed : Bool
  taint : Bool
  deriving DecidableEq, Repr

/-- A strand: its place, its scalar part, its vector part, its ports and its call table (R139-R146, R164-R169). -/
structure Strand where
  /-- the model's name of the strand -/
  uid : Nat
  /-- false before its start and after `end` or a kill -/
  live : Bool
  owner : Owner
  /-- logical position n (R38) and strand number (R186) -/
  pos : Nat
  num : BitVec 2
  /-- the core and slot that hold it; none: switched out (R164) -/
  place : Option (CoreId × Nat)
  /-- number of the physical cluster of its position (R186) -/
  clu : Nat
  /-- clk of its last placement (R192) -/
  placedAt : Nat
  pc : Word
  s : Vector Word 32
  pl : Level
  ie : Bool
  vheld : Bool
  sup : Bank
  hyp : Bank
  mon : Bank
  vl : BitVec 12
  gvl : BitVec 12
  vtag : BitVec 4
  vstart : BitVec 12
  vcommit : Word
  fflags : BitVec 5
  lanes : Vector (BitVec 5) 32
  frm : BitVec 3
  porten : BitVec 4
  routes : Vector Word 4
  bartimeout : BitVec 6
  cycle : Word
  asid : BitVec 16
  ptbase : Word
  spoison : BitVec 32
  kpoison : BitVec 8
  vpoison : BitVec 64
  wdog : BitVec 32
  wdgPend : Bool
  vback : Word
  /-- each word with its error mark (R313) -/
  ports : Vector (List (Word × Bool)) 4
  /-- the model's: has the instruction that executes read a port word with an error mark (R313)? -/
  taint : Bool
  calls : List (Option Slot)
  posts : BitVec 16
  postOrder : Nat
  mark : Bool
  /-- an `idle` has issued and waits (R220) -/
  idling : Bool
  /-- the barrier in whose `bar.wait` or `bar.aw` it waits (R321, R323) -/
  waitBar : Option Nat
  /-- scalar registers that queued entries will write (R238) -/
  spend : BitVec 32
  v : Vector VBits 64
  tags : Vector (BitVec 4) 64
  k : Vector MBits 8
  mstack : List MBits
  vpend : BitVec 64
  kpend : BitVec 8
  res : Vector Res 64
  stamp : Vector Word 64
  tiles : List OpenTile
  vq : List VEntry
  /-- pending vector trap of a forced save (R166) -/
  vtrap : Option VTrap
  /-- the vector state lies in the save record (R165, R166) -/
  vsaved : Bool
  sports : List SPort
  /-- CWDRAW target and RES for CWSTAT (R451) -/
  cwTarget : Option CoreId
  cwRes : BitVec 3
  hmStat : BitVec 8
  hmDetail : BitVec 8
  /-- the model's: does the vector unit execute entries as they are issued? (log 10) -/
  eager : Bool
  /-- the number of the strip that vector instructions are issued in, and that of the entry that executed last (R130) -/
  strip : Nat
  running : Nat
  /-- the model's: the number of its next queue entry, and what its registers hold of the loads of the strip that runs (R292, R299) -/
  vseq : Nat
  deps : List Dep
  /-- the model's: its scalar loads that have not taken their values yet (log 11) -/
  late : List Late
  /-- where its HYP and MON banks and VBACK lie in service memory while it is switched out (R164, R446) -/
  bankAt : Option Nat
  deriving DecidableEq, Repr

/-- A strand whose every register is 0 (R186), with the values R186 states: BARTIMEOUT 24, TAG and tags 15. -/
def Strand.fresh (uid : Nat) (owner : Owner) : Strand where
  uid := uid
  live := false
  owner := owner
  pos := 0
  num := 0
  place := none
  clu := 0
  placedAt := 0
  pc := 0
  s := Vector.replicate 32 0
  pl := .app
  ie := false
  vheld := false
  sup := Bank.zero
  hyp := Bank.zero
  mon := Bank.zero
  vl := 0
  gvl := 0
  vtag := 15
  vstart := 0
  vcommit := 0
  fflags := 0
  lanes := Vector.replicate 32 0
  frm := 0
  porten := 0
  routes := Vector.replicate 4 0
  bartimeout := 24
  cycle := 0
  asid := 0
  ptbase := 0
  spoison := 0
  kpoison := 0
  vpoison := 0
  wdog := 0
  wdgPend := false
  vback := 0
  ports := Vector.replicate 4 []
  taint := false
  calls := List.replicate 64 none
  posts := 0
  postOrder := 0
  mark := false
  idling := false
  waitBar := none
  spend := 0
  v := Vector.replicate 64 0
  tags := Vector.replicate 64 15
  k := Vector.replicate 8 0
  mstack := []
  vpend := 0
  kpend := 0
  res := Vector.replicate 64 .zero
  stamp := Vector.replicate 64 0
  tiles := []
  vq := []
  vtrap := none
  vsaved := false
  sports := List.replicate 8 SPort.empty
  cwTarget := none
  cwRes := 0
  hmStat := 0
  hmDetail := 0
  eager := true
  strip := 0
  running := 0
  vseq := 0
  deps := []
  late := []
  bankAt := none

/-- A record register of a `postv` (R306): its tag and bits. -/
structure RecReg where
  tag : BitVec 4
  bits : VBits
  deriving DecidableEq, Repr

/-- A call in an engine's queue or in progress (R19-R31, R345). -/
structure Call where
  /-- acceptance order: calls are numbered as they are accepted (R29) -/
  id : Nat
  uid : Nat
  slot : Nat
  seq : BitVec 16
  pid : Nat
  ctx : Nat
  rcb : Nat
  lid : Nat
  kind : Nat
  queue : Nat
  /-- logical index, and the physical engine: cluster 8·bh + row, or bulkhead -/
  index : Nat
  eng : Nat
  /-- the 64-byte record of a `post` -/
  record : BitVec 512
  /-- the record registers of a `postv`, its length and activity map -/
  regs : List RecReg
  vl : Nat
  act : MBits
  /-- the return registers of its type, and the return mask (R19, R31) -/
  rets : List Nat
  rk : Option Nat
  /-- the peer that a started put goes to, by device and partition (R461) -/
  peer : Option (Nat × Nat)
  /-- the effective priority of its queue RCB at the post (R339) -/
  prio : Nat
  asid : BitVec 16
  ptbase : Word
  level : Level
  /-- false: queued; true: started -/
  started : Bool
  /-- vectors moved by a feed (R347), tiles computed by a matrix job (R335), digit passes made by a sort (R361) -/
  moved : Nat
  /-- the elements of a transfer that have not been read yet, by number in its loop's order; those that are read but not
  written, with what was read; the full-bit granules that it has still to set (R346, R352, R353) -/
  todo : List Nat
  held : List (Nat × List Byte)
  grans : List Nat
  /-- the index words that a gather has read, by row (R346) -/
  rows : List (Nat × Nat)
  /-- the caller's logical position -/
  pos : Nat
  /-- the flags that a matrix job's tiles have raised (R337), how often it was suspended, and whether it is (R338, R339) -/
  flags : BitVec 5
  suspensions : Nat
  suspended : Bool
  deriving DecidableEq, Repr

/-- The share of a cluster's stash that a launch holds (R111): the 64 KiB units in order of the share's offsets,
scratch size S, port storage PRT, and the window table. -/
structure Split where
  lid : Nat
  cluster : Nat
  scr : Nat
  prt : Nat
  units : List Nat
  windows : List (Word × Word)
  deriving DecidableEq, Repr

/-- What became of a launch (R184-R188). -/
inductive LStat where
  | waiting | started | final
  deriving DecidableEq, Repr

/-- A launch taken from a queue (or a supervisor launch, R458): its record, ring index, context and strands left. -/
structure Launch where
  id : Nat
  pid : Nat
  queue : Option Nat
  index : Nat
  record : BitVec 512
  /-- its window table as read when the record was taken (R112) -/
  wins : List Byte
  ctx : Nat
  rcb : Nat
  level : Level
  stat : LStat
  left : Nat
  deriving DecidableEq, Repr

/-- A cached region control block (R175), with its core map if it is a context's (R39). -/
structure Rcb where
  ipa : Nat
  bits : BitVec 1024
  killed : Bool
  cmap : List (BitVec 32)
  deriving DecidableEq, Repr

/-- A launch queue (R180, R181, R191, R196). -/
structure LQueue where
  isOpen : Bool
  failed : Bool
  word0 : Word
  ring : Word
  tail : BitVec 32
  head : BitVec 32
  replay : BitVec 32
  restore : List Word
  dc : Int
  deriving DecidableEq, Repr

/-- A queue that is not open (R181, R191). -/
def LQueue.closed : LQueue := ⟨false, false, 0, 0, 0, 0, 0, [], 0⟩

/-- A barrier that is bound or has members (R319); participants are (position, strand number). -/
structure Barrier where
  id : Nat
  binding : Word
  ctx : Nat
  gen : Nat
  arrived : List (Nat × Nat)
  awp : List (Nat × Nat)
  marked : List (Nat × Nat)
  deadline : Nat
  deriving DecidableEq, Repr

/-- A word parked in the overflow store for a strand's port (R315). -/
structure Parked where
  uid : Nat
  port : Nat
  word : Word
  /-- it carries an error mark (R313) -/
  bad : Bool
  deriving DecidableEq, Repr

/-- An own pool's charge in its current period (R177); the RCB by IPA, 0 for the partition RCB. -/
structure Pool where
  rcb : Nat
  period : Nat
  charge : Nat
  deriving DecidableEq, Repr

/-- A held scheduler request: its TRAPVAL, and for request 0x04 the context that PTACTX then names (R195, R316). -/
structure Req where
  val : Word
  ctx : Option Nat
  deriving DecidableEq, Repr

/-- An open import window (R433, R436), with the bytes of its grant (R432). -/
structure Window where
  win : Nat
  exp : Nat
  grant : Nat
  wr : Bool
  base : Nat
  len : Nat
  rate : Nat
  grantData : List Byte
  deriving DecidableEq, Repr

/-- A valid leaf entry of a translation table (R117): page base and size, and its flags. -/
structure Leaf where
  oa : Nat
  size : Nat
  r : Bool
  w : Bool
  x : Bool
  u : Bool
  g : Bool
  det : Bool
  deriving DecidableEq, Repr

/-- A translation by both stages (R120): the page of the smaller size by virtual address and by IPA, and both leaves. -/
structure Page where
  va : Nat
  ipa : Nat
  size : Nat
  l1 : Leaf
  l2 : Leaf
  deriving DecidableEq, Repr

/-- The TLBs (R2, R121): a core's, a cluster's, a die's last-level TLB. -/
inductive TlbPlace where
  | core (c : CoreId)
  | cluster (n : Nat)
  | die (d : Nat)
  deriving DecidableEq, Repr

/-- What a TLB entry caches (R121): a page, or a valid non-leaf entry of stage 1 by the number of its level and the table that
it names. -/
inductive Cached where
  | page (x : Page)
  | table (lvl ipa : Nat)
  deriving DecidableEq, Repr

/-- A TLB entry (R121): where it is, its partition and ASID, the virtual addresses that it covers, and what it caches. -/
structure Tlb where
  place : TlbPlace
  pid : Nat
  asid : BitVec 16
  va : Nat
  size : Nat
  what : Cached
  deriving DecidableEq, Repr

/-- An active DET accumulator (R66, R72): the address of its element, format code (0 f32, 1 bf16, 2 f16), the fixed
point value and its flags, and the backing entry that holds it when it is spilled. -/
structure Accum where
  addr : Nat
  fmt : Nat
  acc : BitVec 320
  nan : Bool
  pinf : Bool
  ninf : Bool
  spill : Option Nat
  deriving DecidableEq, Repr

/-- A partition (R422, R427) and its partition-wide registers and objects. -/
structure Part where
  pid : Nat
  bhmask : BitVec 32
  w : Nat
  fmask : BitVec 5
  s2root : Word
  pver : BitVec 32
  /-- its HYP trap image as measured, and where that lies in service memory (R424, R427, R446) -/
  image : List Byte
  imageAt : Nat
  htvec : Word
  rcb : BitVec 1024
  /-- CREATE bytes 8-191 as last set (R440) -/
  create : List Byte
  suphome : Word
  pta : Bool
  ptaWord : Word
  ptaCtx : Nat
  ptactx : Word
  reqs : List Req
  reqLost : Bool
  detbase : Word
  detcnt : Word
  lqbase : Word
  xgrant : Word
  peertab : Word
  otoks : List (Nat × Nat)
  sems : List (Nat × Nat)
  bars : List Barrier
  parked : List Parked
  rcbs : List Rcb
  pools : List Pool
  queues : List LQueue
  last : List Nat
  windows : List Window
  vfstat : BitVec 2
  vfreason : BitVec 8
  /-- the partition RCB's killed mark (R179, R429) -/
  killed : Bool
  deriving DecidableEq, Repr

/-- The states of a bulkhead (R417). -/
inductive BhState where
  | off | scrub | free | owned | reset
  deriving DecidableEq, Repr

/-- A bulkhead: its state, its owner and its lost mark (R417, R421). -/
structure Bulkhead where
  state : BhState
  owner : Option Nat
  lost : Bool
  /-- the scheduler role has no spare core, or the rail is lost: the reset under way cannot recover (R421) -/
  dying : Bool
  /-- off, and being powered on (R420) -/
  rising : Bool
  deriving DecidableEq, Repr

/-- A bulkhead without power, clock and state (R417). -/
def Bulkhead.dark : Bulkhead := ⟨.off, none, false, false, false⟩

/-- A core that is withdrawn, scanned or removed (R451). -/
structure CoreCtl where
  core : CoreId
  wd : Bool
  aprio : BitVec 3
  /-- the strand whose `test.scan` runs on it -/
  scanBy : Option Nat
  removed : Bool
  /-- pattern and signature of its last complete scan -/
  pat : Nat
  sig : BitVec 32
  deriving DecidableEq, Repr

/-- The context that owns the vector state of a strand slot (R165). -/
structure SlotOwner where
  core : CoreId
  slot : Nat
  uid : Nat
  deriving DecidableEq, Repr

/-- A fragment batch that waits in the reorder window (R377). -/
structure WaitBatch where
  token : BitVec 32
  call : Call
  deriving DecidableEq, Repr

/-- An open slot of a tile store (R370). -/
structure RbeSlot where
  eng : Nat
  slot : Nat
  pid : Nat
  ctx : Nat
  planes : List VBits
  stopped : BitVec 256
  prog : List (BitVec 32)
  consts : List (BitVec 32)
  seq : Nat
  base : BitVec 32
  next : BitVec 32
  cancelled : List (BitVec 32)
  aexp : Nat
  timer : Option Nat
  expired : Nat
  ncancel : Nat
  flags : BitVec 5
  committed : Nat
  waiting : List WaitBatch
  deriving DecidableEq, Repr

/-- A binding of a ray engine (R397). -/
structure RayBind where
  eng : Nat
  pid : Nat
  ctx : Nat
  num : Nat
  root : Word
  ommb : Word
  hash : List (BitVec 32)
  deriving DecidableEq, Repr

/-- A hit: exact t, b1 and b2 as numerators over one positive denominator, PRIM and triangle address (R400, R402). -/
structure Hit where
  t : Int
  b1 : Int
  b2 : Int
  den : Int
  prim : BitVec 32
  addr : Nat
  deriving DecidableEq, Repr

/-- Where a ray stands (R398-R407): in the sorting buffer or in traversal, parked at a candidate, or final. -/
inductive RayStat where
  | flying
  | parked (h : Hit)
  | final
  deriving DecidableEq, Repr

/-- A ray: its index, its eight f32 components, where it stands, the call and lane that it last flew for, the clk at which
it entered the buffer, the best accepted hit, the way to the candidate that it parked at last in the order of its traversal (any-hit: child
slots, then the triangle), the triangles decided, and whether its results are unspecified (R413). -/
structure Ray where
  idx : Nat
  comp : List (BitVec 32)
  stat : RayStat
  cid : Nat
  lane : Nat
  since : Nat
  best : Option Hit
  passed : List Nat
  decided : List Nat
  loose : Bool
  deriving DecidableEq, Repr

/-- A ray set (R399, R405). -/
structure RaySet where
  eng : Nat
  pid : Nat
  ctx : Nat
  uid : Nat
  rsid : BitVec 16
  bind : Nat
  flags : BitVec 8
  rays : List Ray
  /-- call id of the trace that created it -/
  cid : Nat
  deriving DecidableEq, Repr

/-- An RTE result that a call collects for one lane until it completes (R403, R407): the status, the elements t, PRIM, b1 and b2,
and the ranges of memory that the ray has read (R413). -/
structure LaneRes where
  cid : Nat
  lane : Nat
  st : Nat
  vals : List Nat
  rsid : BitVec 16
  reads : List (Nat × Nat)
  deriving DecidableEq, Repr

/-- An open collection of a reorder unit (R408-R410): its port, the records of the batch that fills, with the tags of its
first deposit and the clk of its oldest record, and the vectors of released batches that wait for FIFO slots. -/
structure Coll where
  eng : Nat
  uid : Nat
  pid : Nat
  ctx : Nat
  port : Nat
  w : Nat
  lmax : Nat
  recs : List (List (BitVec 32))
  tags : List (BitVec 4)
  since : Nat
  batch : Nat
  out : List (List SVec)
  /-- the CLOSE that waits -/
  closing : Option Nat
  deriving DecidableEq, Repr

/-- A record of the field-removal log (R454). -/
structure Removal where
  core : CoreId
  pat : Nat
  sig : BitVec 32
  time : Word
  version : Nat
  mac : List Byte
  deriving DecidableEq, Repr

/-- The replay-protected flash (R443, R444, R450, R454): outside the device, kept over a device reset. -/
structure Flash where
  table : List Byte
  counter : Nat
  monitor : List Byte
  monCounter : Nat
  removals : List Removal
  deriving DecidableEq, Repr

/-- A policy image (R449). -/
structure Policy where
  version : BitVec 32
  image : List Byte
  /-- where it lies in service memory (R446) -/
  imageAt : Nat
  deriving DecidableEq, Repr

/-- What leaves the device (R456, R460, R462). -/
inductive Out where
  /-- the data of a host read -/
  | data (bytes : List Byte)
  /-- an unsupported-request completion -/
  | unsupported
  /-- a message-signalled interrupt -/
  | irq (pid vec : Nat)
  /-- the answer to an inbound put or put-add: 0 done, else the code that ends the call (R462) -/
  | answer (code : Nat)
  /-- an element that a remote put of a device and partition writes, or a put-add adds, at a peer -/
  | put (slid : BitVec 16) (pid : Nat) (dev : BitVec 16) (rpid : Nat) (add : Bool) (aop : BitVec 3) (esz : BitVec 2)
      (dst : Word) (bytes : List Byte)
  deriving DecidableEq, Repr

/-- Who may still miss a store of a strand (R28, R130, R131, R158; log 11). -/
inductive Viewer where
  /-- the strand's own scalar path, and the record reads of its posts, behind its vector store -/
  | scal | record
  /-- the strand's own vector path, behind its scalar store; the other vector accesses of the same strip -/
  | vec | strip
  /-- the strand's instruction fetch -/
  | fetch
  /-- the scalar, or the vector, paths of the other strands of a core -/
  | sibS (core : CoreId) | sibV (core : CoreId)
  /-- every engine but those of the clusters listed -/
  | engines (but : List Nat)
  /-- on every engine but those, the calls that the strands listed post: of a store that has performed otherwise (R28) -/
  | calls (uids but : List Nat)
  deriving DecidableEq, Repr

/-- A store to bytes of an aligned dword that somebody may still miss: the dword just before it in coherence order
(R126: accesses within a dword are single-copy atomic), the bytes that it wrote and that no later write seen by all
has replaced, the path that made it, its queue entry's number, the paths of other strands that have observed it (R128), those of them
that no longer go behind it (R126), the queue entries that have taken a value from it or a later store (R292), and who may miss it. -/
structure Recent where
  addr : Nat
  old : Word
  mask : BitVec 8
  uid : Nat
  vector : Bool
  entry : Nat
  known : List (Nat × Bool)
  fixed : List (Nat × Bool)
  taken : List (Nat × Nat)
  hid : List Viewer
  deriving DecidableEq, Repr

/-- Bytes written by another while a call may read or write them, the call by name (R340, R366, R391, R413); `soft`: by a digit
pass of a sort that is not its last. -/
structure Race where
  cid : Nat
  addr : Nat
  n : Nat
  soft : Bool
  deriving DecidableEq, Repr

/-- The operands of a step without an encoding. -/
structure EvArgs where
  x : Nat
  y : Nat
  z : Nat
  v : Word
  flag : Bool
  data : List Byte
  deriving DecidableEq, Repr

/-- No operands. -/
def EvArgs.none : EvArgs := ⟨0, 0, 0, 0, false, []⟩

/-- What moves next (log 12): a strand, a strand's vector queue, or a step without an encoding. -/
inductive Action where
  | run (uid : Nat)
  | vq (uid : Nat)
  /-- a strand issues a scalar load that takes its value later, and the load of a place among those takes it (log 11) -/
  | late (uid : Nat)
  | land (uid k : Nat)
  | event (i : Instr) (args : EvArgs)
  deriving DecidableEq, Repr

/-- The device. -/
structure State where
  /-- the model's: what moves next, oldest first (log 12) -/
  agenda : List Action
  /-- the model's: the operands of the step without an encoding that moves -/
  ev : EvArgs
  /-- the model's: the numbers of the step and of its next free value (log 7) -/
  tick : Nat
  draw : Nat
  /-- the model's: names for strands, launches and calls -/
  nextId : Nat
  /-- the strand that moves, or moved last, and the other strands -/
  me : Strand
  others : List Strand
  time : Word
  bootst : BitVec 4
  flash : Flash
  clus : List (BitVec 16)
  roles : List Byte
  scol : List Nat
  tabVersion : Nat
  bhs : List Bulkhead
  cores : List CoreCtl
  slots : List SlotOwner
  /-- cores that the field-removal log or a REMOVE took from the maps, and the spare that their cluster had (R42, R454) -/
  subs : List (CoreId × Option Nat)
  /-- the monitor request that the hypervisor strand waits for: its OP and bulkhead (R425) -/
  hmReq : Option (Nat × Nat)
  pfen : Bool
  fwlock : Bool
  fwbase : BitVec 11
  fwsize : BitVec 11
  fwdrop : BitVec 32
  monImage : List Byte
  policies : List Policy
  slid : BitVec 16
  mem : List Host.Cell
  bad : List Nat
  full : List Nat
  /-- the entries of every TLB (R121) -/
  tlb : List Tlb
  /-- stores that somebody may still miss, the last in coherence order first (log 11) -/
  recent : List Recent
  /-- bytes written while an accepted call may read them (R340, R366, R391, R413) -/
  raced : List Race
  accums : List Accum
  parts : List Part
  launches : List Launch
  splits : List Split
  calls : List Call
  /-- for each transfer engine that has served a call: the last call, and an element of its line in service (R355) -/
  served : List (Nat × Nat × Option Nat)
  rbe : List RbeSlot
  binds : List RayBind
  rsids : List (Nat × Nat × Nat × Nat)
  raysets : List RaySet
  laneRes : List LaneRes
  colls : List Coll
  outs : List Out
  /-- the model's: the contexts, or with 0 the partitions, that have broken an obligation, and at which level (R12; log 23) -/
  breached : List (Nat × Nat × Level)
  deriving DecidableEq, Repr

/-- The machine right after device reset (R443): BOOTST 0, no service core running, every bulkhead off, the flash as
it comes (empty here, log 5), and the boot controller about to move. -/
def State.reset : State where
  agenda := [.event .deviceReset EvArgs.none]
  ev := EvArgs.none
  tick := 0
  draw := 0
  nextId := 1
  me := Strand.fresh 0 .mon
  others := []
  time := 0
  bootst := 0
  flash := ⟨[], 0, [], 0, []⟩
  clus := []
  roles := []
  scol := []
  tabVersion := 0
  bhs := List.replicate 32 Bulkhead.dark
  cores := []
  slots := []
  subs := []
  hmReq := none
  pfen := false
  fwlock := false
  fwbase := 0
  fwsize := 0
  fwdrop := 0
  monImage := []
  policies := []
  slid := 0
  mem := []
  bad := []
  full := []
  tlb := []
  recent := []
  raced := []
  accums := []
  parts := []
  launches := []
  splits := []
  calls := []
  served := []
  rbe := []
  binds := []
  rsids := []
  raysets := []
  laneRes := []
  colls := []
  outs := []
  breached := []

end Sys2Proof.Machine
end

