-- ==== Sys2Proof/Machine/Bits.lean ====
section
/-! DEFINITION. Bit fields, two's complement, byte order (R3, R4), element access (R232), bounded loops and small list
tools. All by structural recursion, so that the kernel evaluates them. -/

namespace Sys2Proof.Machine

/-- Bits [lo + n - 1 : lo] of a number (R3). -/
def bits (x lo n : Nat) : Nat := (x >>> lo) % 2 ^ n

/-- Bit `i` of a number. -/
def bit (x i : Nat) : Bool := x.testBit i

/-- The value of the low `w` bits read as two's complement (R3, R44). -/
def toS (w x : Nat) : Int :=
  let y := x % 2 ^ w
  if y < 2 ^ (w - 1) then (y : Int) else (y : Int) - (2 ^ w : Nat)

/-- The low `w` bits of an integer (R45). -/
def ofI (w : Nat) (i : Int) : Nat := (i % ((2 ^ w : Nat) : Int)).toNat

/-- The word with the value `n` modulo 2^64. -/
def wd (n : Nat) : Word := BitVec.ofNat 64 n

/-- The number that a little-endian byte list holds (R4). -/
def leNat : List Byte → Nat
  | [] => 0
  | b :: t => b.toNat + 256 * leNat t

/-- The `n` little-endian bytes of a number (R4). -/
def leBytes : (n x : Nat) → List Byte
  | 0, _ => []
  | n + 1, x => BitVec.ofNat 8 x :: leBytes n (x / 256)

/-- The number that a big-endian byte list holds. -/
def beNat (l : List Byte) : Nat := leNat l.reverse

/-- The `n` big-endian bytes of a number. -/
def beBytes (n x : Nat) : List Byte := (leBytes n x).reverse

/-- Bytes `[i, i + n)` of a list, missing ones as 0. -/
def slice (l : List Byte) (i n : Nat) : List Byte :=
  let t := (l.drop i).take n
  t ++ List.replicate (n - t.length) 0

/-- Dword `i` of a byte list. -/
def dwordAt (l : List Byte) (i : Nat) : Nat := leNat (slice l (8 * i) 8)

/-- Element `e` of width `w` of a number read as a register (R232). -/
def elem (w e x : Nat) : Nat := (x >>> (w * e)) % 2 ^ w

/-- A number with element `e` of width `w` replaced (R232). -/
def setElem (w e v x : Nat) : Nat :=
  x - (elem w e x <<< (w * e)) + ((v % 2 ^ w) <<< (w * e))

/-- The numbers below `n`, ascending. -/
def below (n : Nat) : List Nat := List.range n

/-- Fold over the numbers below `n`, ascending. -/
def loop {σ : Type} (n : Nat) (f : Nat → σ → σ) (s : σ) : σ := (below n).foldl (fun t i => f i t) s

/-- A list with element `i` replaced (nothing beyond its end). -/
def setAt {α : Type} (l : List α) (i : Nat) (x : α) : List α := l.set i x

/-- Element `i` of a list, or the given one. -/
def nth {α : Type} (l : List α) (i : Nat) (d : α) : α := l.getD i d

/-- Insertion of an element into a list sorted by `le`. -/
def insertBy {α : Type} (le : α → α → Bool) (x : α) : List α → List α
  | [] => [x]
  | y :: t => if le x y then x :: y :: t else y :: insertBy le x t

/-- A stable insertion sort. -/
def sortBy {α : Type} (le : α → α → Bool) (l : List α) : List α := l.foldr (insertBy le) []

/-- The positions below `n` at which `p` holds, ascending. -/
def those (n : Nat) (p : Nat → Bool) : List Nat := (below n).filter p

/-- How many of the first `n` bits are 1. -/
def popcount (n x : Nat) : Nat := ((below n).filter (bit x)).length

/-- The number of the lowest 1 among the first `n` bits, or `n`. -/
def ctzN (n x : Nat) : Nat := ((below n).find? (bit x)).getD n

/-- The number of leading zeros of `n` bits. -/
def clzN (n x : Nat) : Nat := if x % 2 ^ n = 0 then n else n - 1 - Nat.log2 (x % 2 ^ n)

/-- The integer square root, by bits from `k` down. -/
def isqrtFrom (n : Nat) : (k : Nat) → (r : Nat) → Nat
  | 0, r => r
  | k + 1, r => if (r + 2 ^ k) * (r + 2 ^ k) ≤ n then isqrtFrom n k (r + 2 ^ k) else isqrtFrom n k r

/-- The integer square root. -/
def isqrt (n : Nat) : Nat := isqrtFrom n (Nat.log2 n / 2 + 1) 0

/-- Floor division of integers by a positive number. -/
def fdivI (a : Int) (b : Nat) : Int := a / (b : Int)

/-- The number of the ascending `i`-th bit set in `x` among the first `n`, or none. -/
def nthBit (n x i : Nat) : Option Nat := (those n (bit x))[i]?

/-- Are all the addresses bits [63:55] of a virtual address equal (R106)? -/
def canonical (a : Word) : Bool := bits a.toNat 55 9 = 0 || bits a.toNat 55 9 = 511

/-- The scratch aperture (R107). -/
def apertureBase : Nat := 0xFFFFFFFFFF000000

/-- Does the address lie in the scratch aperture (R107)? -/
def inAperture (a : Word) : Bool := apertureBase ≤ a.toNat

/-- Pieces of a range that no boundary of `g` bytes cuts. -/
def pieces (g : Nat) : (fuel va n : Nat) → List (Nat × Nat)
  | 0, _, _ => []
  | fuel + 1, va, n =>
    if n = 0 then [] else
      let k := min n (g - va % g)
      (va, k) :: pieces g fuel (va + k) (n - k)

/-- Do two ranges meet? -/
def meets (a n b m : Nat) : Bool := 0 < n && 0 < m && a < b + m && b < a + n

end Sys2Proof.Machine
end

