-- ==== Sys2Proof/Machine/Flags.lean ====
section
/-! DEFINITION. Floating point (R47-R60): formats, exact values, one rounding with the flags it raises, the operations,
compares, conversions, the correctly rounded functions, and the accumulator of R66-R69. A flag set is five bits: NX, UF,
OF, DZ, NV (R58). -/

namespace Sys2Proof.Machine

/-- A flag set (R58). -/
abbrev FSet := BitVec 5
/-- inexact -/
def fNX : FSet := 1
/-- tiny and inexact -/
def fUF : FSet := 2
/-- overflow or saturation -/
def fOF : FSet := 4
/-- exact infinity from a finite operand -/
def fDZ : FSet := 8
/-- invalid -/
def fNV : FSet := 16

/-- A result: its pattern and the flags raised. -/
abbrev FRes := Nat × FSet

/-- A floating-point format (R47): width, fraction bits, bias; `ieee` if all-ones exponents encode infinity and NaN. -/
structure Fmt where
  n : Nat
  fb : Nat
  bias : Nat
  ieee : Bool
  deriving DecidableEq, Repr

/-- f64 (R47). -/
def f64 : Fmt := ⟨64, 52, 1023, true⟩
/-- f32 (R47). -/
def f32 : Fmt := ⟨32, 23, 127, true⟩
/-- f16 (R47). -/
def f16 : Fmt := ⟨16, 10, 15, true⟩
/-- bf16 (R47). -/
def bf16 : Fmt := ⟨16, 7, 127, true⟩
/-- f8e5 (R47). -/
def f8e5 : Fmt := ⟨8, 2, 15, true⟩
/-- f8e4 (R47). -/
def f8e4 : Fmt := ⟨8, 3, 7, false⟩
/-- f4 (R47). -/
def f4 : Fmt := ⟨4, 1, 1, false⟩

/-- The format of a floating-point tag (R47). -/
def fmtOfTag (t : Nat) : Option Fmt :=
  match t with
  | 8 => some f16
  | 9 => some bf16
  | 10 => some f32
  | 11 => some f64
  | 12 => some f8e4
  | 13 => some f8e5
  | 14 => some f4
  | _ => none

/-- The fmt field of scalar floating point (R93). -/
def fmtOfField (x : Nat) : Fmt :=
  match x with
  | 0 => f32
  | 1 => f64
  | 2 => f16
  | _ => bf16

/-- A value: NaN (signalling or not), infinity, or (−1)^neg · m · 2^e (R48). -/
inductive FVal where
  | nan (sig : Bool)
  | inf (neg : Bool)
  | num (neg : Bool) (m : Nat) (e : Int)
  deriving DecidableEq, Repr

/-- The all-ones exponent field. -/
def Fmt.emax (f : Fmt) : Nat := 2 ^ (f.n - 1 - f.fb) - 1

/-- The value of a pattern (R48). -/
def unpack (f : Fmt) (x : Nat) : FVal :=
  let neg := bit x (f.n - 1)
  let ex := bits x f.fb (f.n - 1 - f.fb)
  let fr := bits x 0 f.fb
  if f.ieee && ex = f.emax then
    if fr = 0 then .inf neg else .nan (!bit fr (f.fb - 1))
  else if f.n = 8 && !f.ieee && ex = f.emax && fr = 7 then .nan false
  else if ex = 0 then .num neg fr (1 - (f.bias : Int) - f.fb)
  else .num neg (2 ^ f.fb + fr) ((ex : Int) - f.bias - f.fb)

/-- The sign bit of a format, set or not. -/
def Fmt.sign (f : Fmt) (neg : Bool) : Nat := if neg then 2 ^ (f.n - 1) else 0

/-- The canonical NaN (R51); f4 has none and gives +0 (R56). -/
def Fmt.nan (f : Fmt) : Nat :=
  if f.ieee then f.emax <<< f.fb + 2 ^ (f.fb - 1) else if f.n = 8 then 0x7F else 0

/-- ±∞ of an IEEE format (R48). -/
def Fmt.inf (f : Fmt) (neg : Bool) : Nat := f.sign neg + f.emax <<< f.fb

/-- The pattern of the largest finite magnitude (R47). -/
def Fmt.big (f : Fmt) (neg : Bool) : Nat :=
  f.sign neg + (if f.ieee then f.emax <<< f.fb - 1 else if f.n = 8 then 0x7E else 7)

/-- Does rounding a magnitude with the given parity, remainder below (lt), at (eq) or above (gt) a half, and sign go away
from zero (R53)? -/
def roundsUp (rm : Nat) (neg odd exact : Bool) (half : Ordering) : Bool :=
  !exact && (match rm with
    | 0 => half == .gt || (half == .eq && odd)
    | 1 => false
    | 2 => neg
    | 3 => !neg
    | _ => half != .lt)

/-- `num / den / 2^q` rounded to an integer, and whether it is exact (R53). -/
def roundAt (rm : Nat) (neg : Bool) (num den : Nat) (q : Int) : Nat × Bool :=
  let n := num * 2 ^ (-q).toNat
  let d := den * 2 ^ q.toNat
  let k := n / d
  let r := n % d
  let up := roundsUp rm neg (k % 2 == 1) (r == 0) (compare (2 * r) d)
  (if up then k + 1 else k, r == 0)

/-- floor(log2(num / den)) for positive num and den. -/
def flog2 (num den : Nat) : Int :=
  let e : Int := (Nat.log2 num : Int) - Nat.log2 den
  if num * 2 ^ (-e).toNat < den * 2 ^ e.toNat then e - 1 else e

/-- What an overflow gives (R54, R56); `sat`: the saturate bit. -/
def overflow (f : Fmt) (rm : Nat) (neg sat : Bool) : FRes :=
  let toInf := !sat && f.n != 4 && (rm == 0 || rm == 4 || (rm == 2 && neg) || (rm == 3 && !neg))
  let x := if toInf then (if f.ieee then f.inf neg else f.sign neg + 0x7F) else f.big neg
  (x, fOF ||| fNX)

/-- The positive rational num/den with the sign, rounded once to the format (R54): tininess is detected after rounding. -/
def roundRat (f : Fmt) (rm : Nat) (neg : Bool) (num den : Nat) (sat : Bool) : FRes :=
  let e := flog2 num den
  let lowest : Int := 1 - (f.bias : Int) - f.fb
  let qn := e - f.fb
  let q := max qn lowest
  let (k, exact) := roundAt rm neg num den q
  let (kn, _) := roundAt rm neg num den qn
  let tiny := decide (qn < lowest) && !(qn + 1 == lowest && kn == 2 ^ (f.fb + 1))
  let mag := ((q - lowest).toNat <<< f.fb) + k
  if mag > f.big false then overflow f rm neg sat
  else (f.sign neg + mag, (if exact then 0 else fNX) ||| (if tiny && !exact then fUF else 0))

/-- A dyadic m · 2^e with a sign, rounded; a zero keeps the sign (R54, R215). -/
def roundDy (f : Fmt) (rm : Nat) (neg : Bool) (m : Nat) (e : Int) (sat : Bool) : FRes :=
  if m = 0 then (f.sign neg, 0) else roundRat f rm neg (m * 2 ^ e.toNat) (2 ^ (-e).toNat) sat

/-- A signed dyadic, rounded; an exact zero takes the sign `zneg`. -/
def roundInt (f : Fmt) (rm : Nat) (x e : Int) (zneg sat : Bool) : FRes :=
  if x = 0 then (f.sign zneg, 0) else roundDy f rm (decide (x < 0)) x.natAbs e sat

/-- NV if the operand is a signalling NaN. -/
def FVal.nv : FVal → FSet
  | .nan true => fNV
  | _ => 0

/-- Is the operand a NaN? -/
def FVal.isNan : FVal → Bool
  | .nan _ => true
  | _ => false

/-- The value with its sign changed. -/
def FVal.negate : FVal → FVal
  | .nan s => .nan s
  | .inf n => .inf (!n)
  | .num n m e => .num (!n) m e

/-- The sign of a value. -/
def FVal.neg : FVal → Bool
  | .nan _ => false
  | .inf n => n
  | .num n _ _ => n

/-- The signed integer m · 2^(e − base) for base ≤ e. -/
def scaled (neg : Bool) (m : Nat) (e base : Int) : Int :=
  let x : Int := (m * 2 ^ (e - base).toNat : Nat)
  if neg then -x else x

/-- a + b, rounded (R215); the sign of an exact zero sum follows IEEE 754. -/
def addV (f : Fmt) (rm : Nat) (a b : FVal) (sat : Bool) : FRes :=
  match a, b with
  | .num n1 m1 e1, .num n2 m2 e2 =>
    let base := min e1 e2
    let zneg := if m1 = 0 && m2 = 0 && n1 == n2 then n1 else rm == 2
    roundInt f rm (scaled n1 m1 e1 base + scaled n2 m2 e2 base) base zneg sat
  | .nan _, _ => (f.nan, a.nv ||| b.nv)
  | _, .nan _ => (f.nan, a.nv ||| b.nv)
  | .inf n1, .inf n2 => if n1 = n2 then (if sat then f.big n1 else f.inf n1, 0) else (f.nan, fNV)
  | .inf n, _ => (if sat then f.big n else f.inf n, 0)
  | _, .inf n => (if sat then f.big n else f.inf n, 0)

/-- The exact product; an invalid one is none (R215). -/
def mulV (a b : FVal) : Option FVal :=
  match a, b with
  | .num n1 m1 e1, .num n2 m2 e2 => some (.num (n1 != n2) (m1 * m2) (e1 + e2))
  | .nan s, .nan t => some (.nan (s || t))
  | .nan s, _ => some (.nan s)
  | _, .nan s => some (.nan s)
  | .inf n1, .inf n2 => some (.inf (n1 != n2))
  | .inf n1, .num n2 m _ => if m = 0 then none else some (.inf (n1 != n2))
  | .num n1 m _, .inf n2 => if m = 0 then none else some (.inf (n1 != n2))

/-- A value rounded to a format of its own kind. -/
def roundV (f : Fmt) (rm : Nat) (a : FVal) (sat : Bool) : FRes :=
  match a with
  | .nan s => (f.nan, if s then fNV else 0)
  | .inf n => (if sat then f.big n else f.inf n, 0)
  | .num n m e => roundDy f rm n m e sat

/-- fadd (R215). -/
def fAdd (f : Fmt) (rm a b : Nat) : FRes := addV f rm (unpack f a) (unpack f b) false
/-- fsub (R215). -/
def fSub (f : Fmt) (rm a b : Nat) : FRes := addV f rm (unpack f a) (unpack f b).negate false
/-- fmul (R215). -/
def fMul (f : Fmt) (rm a b : Nat) : FRes :=
  match mulV (unpack f a) (unpack f b) with
  | none => (f.nan, fNV)
  | some v => roundV f rm v false
/-- fdiv (R215). -/
def fDiv (f : Fmt) (rm a b : Nat) : FRes :=
  let x := unpack f a
  let y := unpack f b
  match x, y with
  | .nan _, _ => (f.nan, x.nv ||| y.nv)
  | _, .nan _ => (f.nan, x.nv ||| y.nv)
  | .inf _, .inf _ => (f.nan, fNV)
  | .inf n1, .num n2 _ _ => (f.inf (n1 != n2), 0)
  | .num n1 _ _, .inf n2 => (f.sign (n1 != n2), 0)
  | .num n1 m1 e1, .num n2 m2 e2 =>
    if m2 = 0 then (if m1 = 0 then (f.nan, fNV) else (f.inf (n1 != n2), fDZ))
    else if m1 = 0 then (f.sign (n1 != n2), 0)
    else roundRat f rm (n1 != n2) (m1 * 2 ^ (e1 - e2).toNat) (m2 * 2 ^ (e2 - e1).toNat) false

/-- Square root (R55, R215): the remainder enters as a sticky half unit far below the last place. -/
def fSqrt (f : Fmt) (rm a : Nat) : FRes :=
  match unpack f a with
  | .nan s => (f.nan, if s then fNV else 0)
  | .inf n => if n then (f.nan, fNV) else (f.inf false, 0)
  | .num n m e =>
    if m = 0 then (f.sign n, 0)
    else if n then (f.nan, fNV)
    else
      let (m1, e1) := if e % 2 = 0 then (m, e) else (2 * m, e - 1)
      let k := f.fb + 4
      let big := m1 * 2 ^ (2 * k)
      let r := isqrt big
      let sticky := if r * r = big then 2 * r else 2 * r + 1
      roundDy f rm false sticky (e1 / 2 - k - 1) false

/-- Reciprocal (R55). -/
def fRcp (f : Fmt) (rm a : Nat) : FRes :=
  match unpack f a with
  | .nan s => (f.nan, if s then fNV else 0)
  | .inf n => (f.sign n, 0)
  | .num n m e =>
    if m = 0 then (f.inf n, fDZ)
    else roundRat f rm n (2 ^ (-e).toNat) (m * 2 ^ e.toNat) false

/-- Fused multiply-add (R218): a·b + c with the signs of product and addend as given, rounded once. 0 × ∞ is invalid
even with a quiet NaN addend. -/
def fFma (f : Fmt) (rm a b c : Nat) (negP negC : Bool) : FRes :=
  let x := unpack f a
  let y := unpack f b
  let z0 := unpack f c
  let z := if negC then z0.negate else z0
  match mulV x y with
  | none => (f.nan, fNV)
  | some p =>
    if p.isNan || z.isNan then (f.nan, x.nv ||| y.nv ||| z.nv)
    else addV f rm (if negP then p.negate else p) z false

/-- Comparison of two values that are not NaN: −0 equals +0. -/
def cmpV (a b : FVal) : Ordering :=
  match a, b with
  | .num n1 m1 e1, .num n2 m2 e2 =>
    let base := min e1 e2
    compare (scaled n1 m1 e1 base) (scaled n2 m2 e2 base)
  | .inf n1, .inf n2 => if n1 = n2 then .eq else if n1 then .lt else .gt
  | .inf n, _ => if n then .lt else .gt
  | _, .inf n => if n then .gt else .lt
  | _, _ => .eq

/-- minimumNumber and maximumNumber (R52): −0 orders below +0; NV for a signalling NaN alone. -/
def fMinMax (f : Fmt) (isMax : Bool) (a b : Nat) : FRes :=
  let x := unpack f a
  let y := unpack f b
  let fl := x.nv ||| y.nv
  let aLess := match cmpV x y with
    | .lt => true
    | .gt => false
    | .eq => x.neg || !y.neg
  if x.isNan && y.isNan then (f.nan, fl)
  else if x.isNan then (b % 2 ^ f.n, fl)
  else if y.isNan then (a % 2 ^ f.n, fl)
  else ((if aLess != isMax then a else b) % 2 ^ f.n, fl)

/-- Equality (R216): NV for a signalling NaN alone. -/
def fEq (f : Fmt) (a b : Nat) : Bool × FSet :=
  let x := unpack f a
  let y := unpack f b
  (!x.isNan && !y.isNan && cmpV x y == .eq, x.nv ||| y.nv)

/-- a < b, or a ≤ b (R216): NV for any NaN. -/
def fLess (f : Fmt) (orEq : Bool) (a b : Nat) : Bool × FSet :=
  let x := unpack f a
  let y := unpack f b
  if x.isNan || y.isNan then (false, fNV)
  else (cmpV x y == .lt || (orEq && cmpV x y == .eq), 0)

/-- The class bit of a pattern (R216). -/
def fClass (f : Fmt) (a : Nat) : Nat :=
  match unpack f a with
  | .nan true => 8
  | .nan false => 9
  | .inf true => 0
  | .inf false => 7
  | .num n m _ =>
    if m = 0 then (if n then 3 else 4)
    else if bits a f.fb (f.n - 1 - f.fb) = 0 then (if n then 2 else 5)
    else (if n then 1 else 6)

/-- Does a format hold every value of another that has infinities (R264)? -/
def Fmt.holds (dst src : Fmt) : Bool := decide (src.fb ≤ dst.fb) && decide (src.n - 1 - src.fb ≤ dst.n - 1 - dst.fb)

/-- Conversion between formats (R56); to one that holds every value of the source it is exact whatever `sat` is (R264). An infinity of f16
saturates in bf16, where R264 has one sentence for it and one against (DESIGN CHOICE, log 87). -/
def fToF (src dst : Fmt) (rm a : Nat) (sat : Bool) : FRes :=
  match unpack src a with
  | .nan s => (dst.nan, if s || dst.n = 4 then fNV else 0)
  | .inf n =>
    if dst.n = 4 then (dst.big n, fNV)
    else if dst.n = 8 && !dst.ieee then (if sat then (dst.big n, 0) else (dst.sign n + 0x7F, fNV))
    else (if sat && !dst.holds src then dst.big n else dst.inf n, 0)
  | .num n m e => roundDy dst rm n m e (sat || dst.n = 4)

/-- An integer format: its width and whether it is signed (R44). -/
structure IFmt where
  n : Nat
  sg : Bool
  deriving DecidableEq, Repr

/-- The integer format of tags 0-7 (R44). -/
def ifmtOfTag (t : Nat) : IFmt := ⟨8 * 2 ^ (t / 2), t % 2 = 1⟩

/-- The least and the greatest integer of a format (R44). -/
def IFmt.range (i : IFmt) : Int × Int :=
  if i.sg then (-(2 ^ (i.n - 1) : Nat), (2 ^ (i.n - 1) : Nat) - 1) else (0, (2 ^ i.n : Nat) - 1)

/-- The integer that a pattern of a format holds. -/
def IFmt.val (i : IFmt) (x : Nat) : Int := if i.sg then toS i.n x else ((x % 2 ^ i.n : Nat) : Int)

/-- A finite value rounded to an integer, and whether it is exact. -/
def toInteger (rm : Nat) (neg : Bool) (m : Nat) (e : Int) : Int × Bool :=
  let (k, exact) := roundAt rm neg (m * 2 ^ e.toNat) (2 ^ (-e).toNat) 0
  (if neg then -(k : Int) else k, exact)

/-- Conversion to an integer format, saturating, as an integer (R57). -/
def fToI (src : Fmt) (dst : IFmt) (rm a : Nat) : Int × FSet :=
  let (lo, hi) := dst.range
  match unpack src a with
  | .nan _ => (0, fNV)
  | .inf n => (if n then lo else hi, fNV)
  | .num n m e =>
    let (k, exact) := toInteger rm n m e
    if k < lo then (lo, fNV) else if k > hi then (hi, fNV) else (k, if exact then 0 else fNX)

/-- Conversion from an integer (R57). -/
def fOfI (dst : Fmt) (rm : Nat) (x : Int) (sat : Bool) : FRes := roundInt dst rm x 0 false (sat || dst.n = 4)

/-- 2^(2^-1), 2^(2^-2), ... as fixed point with `p` fraction bits, multiplied over the fraction bits of `fr` (an integer
below 2^p that stands for fr / 2^p): a lower bound of 2^(fr/2^p) within 4·p units. -/
def exp2Frac (p fr : Nat) : Nat :=
  let go := fun i (st : Nat × Nat) =>
    let root := isqrt (st.1 <<< p)
    (root, if bit fr (p - 1 - i) then (st.2 * root) >>> p else st.2)
  (loop p go (2 ^ (p + 1), 2 ^ p)).2

/-- Round a value known to lie strictly between lo/den and hi/den; where the two ends do not agree, `pick` chooses. -/
def roundBetween (f : Fmt) (rm : Nat) (neg : Bool) (lo hi den : Nat) (pick : Bool) : FRes :=
  let a := roundRat f rm neg lo den false
  let b := roundRat f rm neg hi den false
  if pick then a else b

/-- 2^x, correctly rounded (R55). The bounds are about 200 bits wide; `pick` decides only where they do not. -/
def fExp2 (f : Fmt) (rm a : Nat) (pick : Bool) : FRes :=
  match unpack f a with
  | .nan s => (f.nan, if s then fNV else 0)
  | .inf n => (if n then 0 else f.inf false, 0)
  | .num n m e =>
    let p := 256
    let top : Int := 4 * (2 ^ (f.n - 1 - f.fb) : Nat)
    let x := scaled n m (max e (-1200)) (-1200) >>> (if e < -1200 then (-1200 - e).toNat else 0)
    let i := x / (2 ^ 1200 : Nat)
    let frac := (x % (2 ^ 1200 : Nat)).toNat
    if m = 0 then roundDy f rm false 1 0 false
    else if i > top then overflow f rm false false
    else if i < -top then roundDy f rm false 1 (-top) false
    else if frac = 0 then roundDy f rm false 1 i false
    else
      let c := exp2Frac p (frac >>> (1200 - p))
      let w := 1300
      let lo := max ((c - 2) <<< (w - p)) (2 ^ w + 1)
      let hi := min ((c + 4 * p + 4) <<< (w - p)) (2 ^ (w + 1) - 1)
      let sc := fun (y : Nat) => y * 2 ^ i.toNat
      roundBetween f rm false (sc lo) (sc hi) (2 ^ (w + (-i).toNat)) pick

/-- `n` fraction bits of log2 of y / 2^p, 1 ≤ y / 2^p < 2, by squaring. -/
def log2Frac (p : Nat) : (n : Nat) → (y acc : Nat) → Nat
  | 0, _, acc => acc
  | n + 1, y, acc =>
    let z := (y * y) >>> p
    if z ≥ 2 ^ (p + 1) then log2Frac p n (z / 2) (2 * acc + 1) else log2Frac p n z (2 * acc)

/-- log2 x, correctly rounded (R55): 200 fraction bits from 512; `pick` decides only where they do not. -/
def fLog2 (f : Fmt) (rm a : Nat) (pick : Bool) : FRes :=
  match unpack f a with
  | .nan s => (f.nan, if s then fNV else 0)
  | .inf n => if n then (f.nan, fNV) else (f.inf false, 0)
  | .num n m e =>
    if m = 0 then (f.inf true, fDZ)
    else if n then (f.nan, fNV)
    else
      let k := Nat.log2 m
      let i : Int := e + k
      if m = 2 ^ k then roundInt f rm i 0 false false
      else
        let p := 512
        let fr := log2Frac p 200 (m <<< (p - k)) 0
        let lo : Int := i * (2 ^ 200 : Nat) + fr
        if lo ≥ 0 then roundBetween f rm false (max (4 * lo.natAbs - 1) 1) (4 * lo.natAbs + 5) (2 ^ 202) pick
        else roundBetween f rm true (max (4 * lo.natAbs - 5) 1) (4 * lo.natAbs + 1) (2 ^ 202) pick

/-- The start value of an accumulator's fixed point: bit 0 weighs 2^-149 (R66). -/
def accOf (v : FVal) : Int :=
  match v with
  | .num n m e => scaled n m e (-149)
  | _ => 0

/-- The three formats of DET accumulation, by their code (R72). -/
def accFmt (c : Nat) : Fmt := if c = 0 then f32 else if c = 1 then bf16 else f16

/-- An accumulator with an addend added (R66). -/
def Accum.add (a : Accum) (v : FVal) : Accum :=
  match v with
  | .nan _ => { a with nan := true }
  | .inf n => if n then { a with ninf := true } else { a with pinf := true }
  | .num _ _ _ => { a with acc := a.acc + BitVec.ofInt 320 (accOf v) }

/-- An accumulator that holds exactly a value (R67, R69). -/
def Accum.set (a : Accum) (v : FVal) : Accum :=
  Accum.add { a with acc := 0, nan := false, pinf := false, ninf := false } v

/-- The value that a load of an active element returns (R68). -/
def Accum.value (a : Accum) : Nat :=
  let f := accFmt a.fmt
  if a.nan || (a.pinf && a.ninf) then f.nan
  else if a.pinf then f.inf false
  else if a.ninf then f.inf true
  else (roundInt f 0 a.acc.toInt (-149) false false).1

end Sys2Proof.Machine
end

