-- ==== Sys2Proof/Machine/Base.lean ====
section
/-! DEFINITION. The monad of a meaning, its ways to stop short, free choices, and access to strands, partitions,
bulkheads and the physical layout. -/

namespace Sys2Proof.Machine

/-- Where a trap goes (R149): by the strand's level, to HYP (feature masked), to HYP with the IPA of a stage-2 fault,
or to MON whatever HTRAPVEC holds. -/
inductive Route where
  | sup
  | hyp
  | s2 (ipa : BitVec 48)
  | mon
  deriving DecidableEq, Repr

/-- A synchronous trap: cause, TRAPVAL and route (R148, R149, R159). -/
structure Trap where
  cause : Nat
  val : Word
  route : Route
  deriving DecidableEq, Repr

/-- A meaning that does not retire: it traps, or it waits and reissues in full (R152, R156). With `keep` what it did to
anything but the executing strand stays (R223, R323). -/
inductive Stop where
  | trap (t : Trap) (keep : Bool)
  | stall (keep : Bool)
  deriving DecidableEq, Repr

/-- The monad of a meaning. -/
abbrev M := EStateM Stop State

/-- Raise a trap: nothing of the instruction is committed (R152). -/
def trapAt (cause : Nat) (val : Word) (route : Route := .sup) : M α := throw (.trap ⟨cause, val, route⟩ false)

/-- Wait: nothing is committed and the instruction reissues in full (R156). -/
def stall : M α := throw (.stall false)

/-- Wait; what has happened to everything but the executing strand stays. -/
def stallKeep : M α := throw (.stall true)

/-- Wait unless the condition holds. -/
def waitFor (b : Bool) : M Unit := if b then pure () else stall

/-- A fresh free value (log 7). -/
def free : M Nat := do
  let s ← get
  set { s with draw := s.draw + 1 }
  return Config.free s.tick s.draw

/-- A free choice among `n` options, 0 if there is at most one (log 7). -/
def freeBelow (n : Nat) : M Nat := if n ≤ 1 then pure 0 else do return (← free) % n

/-- A free choice between two outcomes. -/
def freeBool : M Bool := do return (← freeBelow 2) = 1

/-- A fresh name. -/
def newId : M Nat := do
  let s ← get
  set { s with nextId := s.nextId + 1 }
  return s.nextId

/-- The executing strand. -/
def me : M Strand := do return (← get).me

/-- Change the executing strand. -/
def modMe (f : Strand → Strand) : M Unit := modify fun s => { s with me := f s.me }

/-- Every strand of the model, the executing one first. -/
def State.strands (s : State) : List Strand := s.me :: s.others

/-- The strand of a name. -/
def State.strand? (s : State) (uid : Nat) : Option Strand := s.strands.find? (·.uid == uid)

/-- Change the strand of a name. -/
def State.modStrand (s : State) (uid : Nat) (f : Strand → Strand) : State :=
  if s.me.uid = uid then { s with me := f s.me }
  else { s with others := s.others.map fun t => if t.uid = uid then f t else t }

/-- Change every strand. -/
def State.mapStrands (s : State) (f : Strand → Strand) : State :=
  { s with me := f s.me, others := s.others.map f }

/-- Make the strand of a name the executing one. -/
def State.switchTo (s : State) (uid : Nat) : State :=
  if s.me.uid = uid then s
  else match s.others.find? (·.uid == uid) with
    | none => s
    | some t => { s with me := t, others := s.me :: s.others.filter (·.uid != uid) }

/-- The partition of an owner (R424: the hypervisor strand and MON have none). -/
def Owner.pid? : Owner → Option Nat
  | .part pid _ _ _ => some pid
  | _ => none

/-- The context RCB of an owner. -/
def Owner.ctx : Owner → Nat
  | .part _ c _ _ => c
  | _ => 0

/-- The queue RCB of an owner. -/
def Owner.rcb : Owner → Nat
  | .part _ _ r _ => r
  | _ => 0

/-- The launch of an owner. -/
def Owner.lid : Owner → Nat
  | .part _ _ _ l => l
  | _ => 0

/-- The partition of a PID. -/
def State.part? (s : State) (pid : Nat) : Option Part := s.parts.find? (·.pid == pid)

/-- Change the partition of a PID. -/
def State.modPart (s : State) (pid : Nat) (f : Part → Part) : State :=
  { s with parts := s.parts.map fun p => if p.pid = pid then f p else p }

/-- The partition of the executing strand. -/
def State.myPart? (s : State) : Option Part := s.me.owner.pid?.bind s.part?

/-- Change the partition of the executing strand. -/
def modMyPart (f : Part → Part) : M Unit := modify fun s =>
  match s.me.owner.pid? with
  | none => s
  | some pid => s.modPart pid f

/-- Number of bulkheads of a partition (R422). -/
def Part.nb (p : Part) : Nat := popcount 32 p.bhmask.toNat

/-- Height of the logical torus (R38). -/
def Part.h (p : Part) : Nat := 64 * p.nb / p.w

/-- The physical bulkhead of a logical one (R422). -/
def Part.bh (p : Part) (lb : Nat) : Nat := (nthBit 32 p.bhmask.toNat lb).getD 0

/-- The logical number of a physical bulkhead. -/
def Part.lb (p : Part) (bh : Nat) : Nat := (those bh (bit p.bhmask.toNat)).length

/-- The level as a number (R9). -/
def Level.num : Level → Nat
  | .app => 0
  | .sup => 1
  | .hyp => 2
  | .mon => 3

/-- The level of a number. -/
def Level.of (n : Nat) : Level :=
  match n with
  | 0 => .app
  | 1 => .sup
  | 2 => .hyp
  | _ => .mon

/-- A bulkhead by number. -/
def State.bh (s : State) (b : Nat) : Bulkhead := nth s.bhs b Bulkhead.dark

/-- Change a bulkhead. -/
def State.modBh (s : State) (b : Nat) (f : Bulkhead → Bulkhead) : State :=
  { s with bhs := s.bhs.set b (f (s.bh b)) }

/-- The physical bulkhead of a column of a die, none for the service column (R13). -/
def State.bhOf (s : State) (die col : Nat) : Option Nat :=
  let sc := nth s.scol die 9
  if col = sc || col > 8 || die > 3 then none
  else some (8 * die + (if col < sc then col else col - 1))

/-- The physical column of a bulkhead (R13). -/
def State.colOf (s : State) (b : Nat) : Nat :=
  let sc := nth s.scol (b / 8) 9
  if b % 8 < sc then b % 8 else b % 8 + 1

/-- The bulkhead of a core. -/
def State.coreBh (s : State) (c : CoreId) : Option Nat := s.bhOf c.die c.col

/-- The number of a core's cluster: 8 · bulkhead + row (R14). -/
def State.coreCluster (s : State) (c : CoreId) : Option Nat := (s.coreBh c).map fun b => 8 * b + c.row

/-- The CLUS entry of the physical cluster of a core (R444). -/
def State.clusOf (s : State) (c : CoreId) : Nat := (nth s.clus (72 * c.die + 8 * c.col + c.row) 0).toNat

/-- The withdrawal state of a core (R451). -/
def State.ctl (s : State) (c : CoreId) : CoreCtl := (s.cores.find? (·.core == c)).getD ⟨c, false, 0, none, false, 0, 0⟩

/-- Change the withdrawal state of a core. -/
def State.modCtl (s : State) (c : CoreId) (f : CoreCtl → CoreCtl) : State :=
  { s with cores := f (s.ctl c) :: s.cores.filter (·.core != c) }

/-- The core that holds a strand, or its vector state while it is switched out (R164). -/
def State.coreOf (s : State) (t : Strand) : Option CoreId :=
  match t.place with
  | some (c, _) => some c
  | none => (s.slots.find? (·.uid == t.uid)).map (·.core)

/-- A strand is resident when it holds a slot (R177). -/
def Strand.resident (t : Strand) : Bool := t.live && t.place.isSome

/-- The cluster of a strand's place. -/
def State.strandCluster (s : State) (t : Strand) : Option Nat := t.place.bind fun (c, _) => s.coreCluster c

/-- HBM byte `loc` of a bulkhead in the model's one address space (R109). -/
def hbmAt (bh loc : Nat) : Nat := bh * 2 ^ 34 + loc
/-- Byte `off` of service memory (R446). -/
def svcAt (off : Nat) : Nat := 2 ^ 40 + off
/-- Byte `off` of the stash of a cluster (R111). -/
def stashAt (cluster off : Nat) : Nat := 2 ^ 41 + cluster * 2 ^ 22 + off
/-- Byte `a` of host bus memory (R108, R459). -/
def hostAt (a : Nat) : Nat := 2 ^ 47 + a

/-- Size of HYP memory, clipped to service memory (R447). -/
def State.hypSize (s : State) : Nat :=
  min (s.fwsize.toNat * 65536) (2 ^ 27 - s.fwbase.toNat * 65536)

/-- The address of a HYP-memory offset (R447). -/
def State.hypAt (s : State) (off : Nat) : Nat := svcAt (s.fwbase.toNat * 65536 + off)

/-- A PMA placed on HBM (R109). -/
def Part.pmaAt (p : Part) (pma : Nat) : Nat × Nat :=
  let g := pma / 4096
  (p.bh (g % p.nb), g / p.nb * 4096 + pma % 4096)

/-- The split that a launch holds in a cluster (R111). -/
def State.split? (s : State) (lid cluster : Nat) : Option Split :=
  s.splits.find? fun x => x.lid == lid && x.cluster == cluster

/-- The address of an offset of a launch's share of stash, none beyond it (R111). -/
def Split.at (x : Split) (off : Nat) : Option Nat :=
  (x.units[off / 65536]?).map fun u => stashAt x.cluster (u * 65536 + off % 65536)

/-- The context or queue RCB that a partition holds for an IPA (R175). -/
def Part.rcb? (p : Part) (ipa : Nat) : Option Rcb := p.rcbs.find? (·.ipa == ipa)

/-- The core of a position under the core map of a context, none if absent (R39, R41). -/
def Part.coreAt (p : Part) (ctx n : Nat) : Option CoreId :=
  match (p.rcb? ctx).bind (·.cmap[n]?) with
  | none => none
  | some e =>
    let x := e.toNat
    if bit x 0 then some ⟨bits x 1 2, bits x 3 4, bits x 7 3, bits x 10 4⟩ else none

/-- The fields of TRAPCAUSE (R144). -/
def causeMask : Word := 0x1FFF#64

/-- The fields of TRAPVEC (R144). -/
def vecMask : Word := ~~~0x3C#64

/-- IPA of the backing slot of register `r` (R169). -/
def Strand.slotIpa (t : Strand) (r : Nat) : Nat := bits t.vback.toNat 17 31 <<< 17 + 1024 * r

/-- IPA of descriptor `q` (R181). -/
def Part.descIpa (p : Part) (q : Nat) : Nat := bits p.lqbase.toNat 12 36 <<< 12 + 64 * q

/-- ASID and PTBASE of a context (R173). -/
def Part.space (p : Part) (ctx : Nat) : BitVec 16 × Word :=
  match p.rcb? ctx with
  | none => (0, 0)
  | some r => (BitVec.ofNat 16 (bits r.bits.toNat 384 16), wd (bits r.bits.toNat 461 35 <<< 13))

/-- The partition that owns the home of a physical address. -/
def State.homePart (s : State) (a : Nat) : Option Part := (s.bh (a / 2 ^ 34)).owner.bind s.part?

/-- IPA of backing entry `i` (R72, R136). -/
def Part.backingIpa (p : Part) (i : Nat) : Nat := bits p.detbase.toNat 16 32 <<< 16 + 48 * i

end Sys2Proof.Machine
end

