-- ==== Sys2Proof/Machine/Entry.lean ====
section
/-! DEFINITION. What a queued entry names (R232-R242, R247): element widths, the registers of a strand, and the registers and masks that
each operation reads and writes. -/

namespace Sys2Proof.Machine

/-- The element width of a tag (R233). -/
def widthOf (tag : Nat) : Nat :=
  if tag = 6 || tag = 7 || tag = 11 then 64
  else if tag = 4 || tag = 5 || tag = 10 then 32
  else if tag = 2 || tag = 3 || tag = 8 || tag = 9 then 16
  else if tag = 14 then 4 else 8

/-- VLMAX of a tag (R233). -/
def vlmax (tag : Nat) : Nat := 8192 / widthOf tag

/-- Register `r` of a strand's vector file. -/
def Strand.vreg (t : Strand) (r : Nat) : VBits := t.v.toList.getD r 0
/-- Tag of register `r`. -/
def Strand.vtagOf (t : Strand) (r : Nat) : Nat := (t.tags.toList.getD r 15).toNat
/-- Data state of register `r`. -/
def Strand.vres (t : Strand) (r : Nat) : Res := t.res.toList.getD r .zero
/-- Mask register `r`: k0 reads as all ones (R140). -/
def Strand.kreg (t : Strand) (r : Nat) : MBits := if r = 0 then BitVec.allOnes 2048 else t.k.toList.getD r 0

/-- Registers base .. base + g - 1. -/
def group (base : VReg) (g : Nat) : List Nat := (below g).map (base.toNat + ·)

/-- Group size of the wide and of the narrow operand of a conversion (R242). -/
def cvtGroup (src dst : Nat) : Nat × Nat :=
  (max 1 (widthOf src / widthOf dst), max 1 (widthOf dst / widthOf src))

/-- The register of a second operand, if it is one. -/
def VSrc.names : VSrc → List Nat
  | .reg r => [r.toNat]
  | .val _ => []

/-- The vector registers that an address form names. -/
def VAddr.names : VAddr → List Nat
  | .index r _ => [r.toNat]
  | _ => []

/-- The vector registers that an operation reads and those that it writes (R242, R247); `tag` is the tag of a register. -/
def VOp.uses (tag : VReg → Nat) : VOp → List Nat × List Nat
  | .bin _ d a b _ => (a.toNat :: b.names, [d.toNat])
  | .un _ d a _ => ([a.toNat], [d.toNat])
  | .wmul d a b _ => ([a.toNat, b.toNat], group d 2)
  | .dot4 d a b _ => ([a.toNat, b.toNat, d.toNat], [d.toNat])
  | .cmp _ _ a b _ => ([a.toNat, b.toNat], [])
  | .sel d a b _ => ([a.toNat, b.toNat], [d.toNat])
  | .mif _ => ([], [])
  | .melse => ([], [])
  | .mend => ([], [])
  | .mbrk _ => ([], [])
  | .mlog _ _ _ _ => ([], [])
  | .slide _ d a _ _ => ([a.toNat], [d.toNat])
  | .perm d a b _ => ([a.toNat, b.toNat], [d.toNat])
  | .red _ d a _ _ => ([a.toNat], [d.toNat])
  | .redm _ d a _ => ([a.toNat], [d.toNat])
  | .scan d a _ _ => ([a.toNat], [d.toNat])
  | .recur _ d a _ _ => ([a.toNat, d.toNat], [d.toNat])
  | .ext _ a _ => ([a.toNat], [])
  | .setl _ => ([], [])
  | .vtag d _ => ([], [d.toNat])
  | .fma _ d a b c _ _ => ([a.toNat, b.toNat, c.toNat], [d.toNat])
  | .tile _ d a b _ _ => ([a.toNat, b.toNat] ++ group d 8, group d 8)
  | .tileZero d => ([], group d 8)
  | .tileRead d => ([], group d 8)
  | .cvt d a t _ _ =>
    let (gs, gd) := cvtGroup (tag a) t.toNat
    (group a gs, group d gd)
  | .ins d _ _ => ([], [d.toNat])
  | .bcast d _ => ([], [d.toNat])
  | .iota d => ([], [d.toNat])
  | .compress d a _ => ([a.toNat], [d.toNat])
  | .mpopc _ _ => ([], [])
  | .mfirst _ _ => ([], [])
  | .ld d _ m _ _ => (m.names, [d.toNat])
  | .st v _ m _ _ => (v.toNat :: m.names, [])
  | .amo _ d _ b _ c _ _ _ ret => ([b.toNat, c.toNat], if ret then [d.toNat] else [])
  | .plane v _ _ _ => ([v.toNat], [])
  | .pop d _ _ => ([], [d.toNat])
  | .push v _ _ => ([v.toNat], [])
  | .popNw d _ _ _ _ => ([], [d.toNat])
  | .pushNw v _ _ _ _ => ([v.toNat], [])
  | .postv _ _ va n _ => (group va n, [])

/-- The mask registers, k0 apart, that an operation reads or writes. -/
def VOp.masks (o : VOp) : List Nat :=
  let l : List KReg := match o with
    | .bin _ _ _ _ k => [k]
    | .un _ _ _ k => [k]
    | .wmul _ _ _ k => [k]
    | .dot4 _ _ _ k => [k]
    | .cmp _ d _ _ k => [d, k]
    | .sel _ _ _ k => [k]
    | .mif c => [c]
    | .melse => []
    | .mend => []
    | .mbrk c => [c]
    | .mlog _ d a b => [d, a, b]
    | .slide _ _ _ _ k => [k]
    | .perm _ _ _ k => [k]
    | .red _ _ _ _ k => [k]
    | .redm _ _ _ _ => []
    | .scan _ _ _ k => [k]
    | .recur _ _ _ _ k => [k]
    | .ext _ _ _ => []
    | .setl _ => []
    | .vtag _ _ => []
    | .fma _ _ _ _ _ k _ => [k]
    | .tile _ _ _ _ k _ => [k]
    | .tileZero _ => []
    | .tileRead _ => []
    | .cvt _ _ _ _ _ => []
    | .ins _ _ _ => []
    | .bcast _ _ => []
    | .iota _ => []
    | .compress _ _ k => [k]
    | .mpopc _ k => [k]
    | .mfirst _ k => [k]
    | .ld _ _ _ _ k => [k]
    | .st _ _ _ _ k => [k]
    | .amo _ _ _ _ _ _ k _ _ _ => [k]
    | .plane _ _ k _ => [k]
    | .pop _ _ k => [k]
    | .push _ _ k => [k]
    | .popNw _ _ k _ _ => [k]
    | .pushNw _ _ k _ _ => [k]
    | .postv _ _ _ _ k => [k]
  (l.filter (· != 0)).map BitVec.toNat

/-- The masks that an operation writes (R262, R267). -/
def VOp.maskDest : VOp → List Nat
  | .cmp _ d _ _ _ => [d.toNat]
  | .mlog _ d _ _ => [d.toNat]
  | _ => []

/-- The masks, k0 apart, that an operation reads. -/
def VOp.maskSrc (o : VOp) : List Nat :=
  match o with
  | .cmp _ _ _ _ k => ([k].filter (· != 0)).map BitVec.toNat
  | .mlog _ _ a b => ([a, b].filter (· != 0)).map BitVec.toNat
  | _ => o.masks

/-- The vector registers that an entry names. -/
def VEntry.names (e : VEntry) (t : Strand) : List Nat :=
  let (r, w) := e.op.uses fun x => t.vtagOf x.toNat
  r ++ w

end Sys2Proof.Machine
end

