-- ==== Sys2Proof/Machine/Mem.lean ====
section
/-! DEFINITION. Memory: one list of cells in canonical form (log 1), DET accumulators over it (R66-R69), poisoned lines
(R142), full bits (R114), and the stores that somebody may still miss (R124-R131; log 11). -/

namespace Sys2Proof.Machine

/-- The byte at an address: an unlisted one reads 0 (log 1). -/
def Mem.read : List Host.Cell → Nat → Byte
  | [], _ => 0
  | (k, v) :: t, a => if a < k then 0 else if a = k then v else Mem.read t a

/-- Write a byte, keeping the canonical form: writing 0 removes the entry. -/
def Mem.write : List Host.Cell → Nat → Byte → List Host.Cell
  | [], a, b => if b = 0 then [] else [(a, b)]
  | (k, v) :: t, a, b =>
    if a < k then (if b = 0 then (k, v) :: t else (a, b) :: (k, v) :: t)
    else if a = k then (if b = 0 then t else (a, b) :: t)
    else (k, v) :: Mem.write t a b

/-- Every address of the list is greater than `a`. -/
def Mem.above (a : Nat) : List Host.Cell → Bool
  | [] => true
  | (k, _) :: _ => a < k

/-- The canonical form: addresses strictly rising and no entry equal to what an unlisted address reads as (log 1). -/
def Memory.wf : List Host.Cell → Bool
  | [] => true
  | (k, v) :: t => v != 0 && Mem.above k t && Memory.wf t

/-- Write a list of bytes at ascending addresses. -/
def Mem.writeL (m : List Host.Cell) (a : Nat) : List Byte → List Host.Cell
  | [] => m
  | b :: t => Mem.writeL (Mem.write m a b) (a + 1) t

/-- The bytes of an accumulator's element. -/
def Accum.size (c : Accum) : Nat := if c.fmt = 0 then 4 else 2

/-- Does the element of an accumulator meet [a, a + n)? -/
def Accum.meets (c : Accum) (a n : Nat) : Bool := c.addr < a + n && a < c.addr + c.size

/-- One byte of memory as every agent reads it in coherence order: an active element reads its rounded value (R68). -/
def State.byteAt (s : State) (a : Nat) : Byte :=
  match s.accums.find? (·.meets a 1) with
  | some c => BitVec.ofNat 8 (c.value >>> (8 * (a - c.addr)))
  | none => Mem.read s.mem a

/-- `n` bytes from an address. -/
def State.bytesAt (s : State) (a n : Nat) : List Byte := (below n).map fun i => s.byteAt (a + i)

/-- The little-endian number in `n` bytes from an address. -/
def State.natAt (s : State) (a n : Nat) : Nat := leNat (s.bytesAt a n)

/-- Does [a, a + n) meet a poisoned line (R142)? -/
def State.badAt (s : State) (a n : Nat) : Bool := s.bad.any fun l => l * 64 < a + n && a < l * 64 + 64

/-- Is the full bit of the granule that holds an address set (R114)? -/
def State.fullAt (s : State) (a : Nat) : Bool := s.full.contains (a / 64)

/-- Set the full bit of a granule by its number (R114). -/
def State.setFull (s : State) (g : Nat) : State :=
  if s.full.contains g then s else { s with full := insertBy (fun x y => x < y) g s.full }

/-- Clear the full bit of a granule by its number (R114). -/
def State.clrFull (s : State) (g : Nat) : State := { s with full := s.full.filter (· != g) }

/-- A write that replaces a poisoned line whole clears its poison (R142). -/
def State.cleanBad (s : State) (a n : Nat) : State :=
  { s with bad := s.bad.filter fun l => !(a ≤ l * 64 && l * 64 + 64 ≤ a + n) }

/-- Zero [a, a + n) and make it plain: cells, poison and full bits (R114, R419, R429). -/
def State.wipe (s : State) (a n : Nat) : State :=
  { s with
    mem := s.mem.filter fun c => !(a ≤ c.1 && c.1 < a + n)
    bad := s.bad.filter fun l => !(a ≤ l * 64 && l * 64 < a + n)
    full := s.full.filter fun g => !(a ≤ g * 64 && g * 64 < a + n)
    recent := s.recent.filter fun x => !(a ≤ x.addr && x.addr < a + n) }

/-- The aligned dword of an address. -/
def dwordOf (a : Nat) : Nat := a / 8 * 8

/-- The bytes of a dword that `n` bytes from `a` touch. -/
def maskOf (a n : Nat) : BitVec 8 := BitVec.ofNat 8 ((2 ^ n - 1) <<< (a % 8))

/-- `n` bytes at `a` out of the dword that holds them. -/
def outOf (d a n : Nat) : Nat := (d >>> (8 * (a % 8))) % 2 ^ (8 * n)

/-- A dword with the bytes of a mask taken from another. -/
def patch (d e : Nat) (m : BitVec 8) : Nat :=
  loop 8 (fun i d => if m.getLsbD i then setElem 8 i (elem 8 i e) d else d) d

/-- The stores that somebody may still miss, after one that nobody misses any more has replaced what is older at its bytes;
`cov`: what newer such stores have replaced. -/
def sweep : List Recent → (cov : List (Nat × BitVec 8)) → List Recent
  | [], _ => []
  | x :: t, cov =>
    let m := cov.foldl (fun m c => if c.1 = x.addr then m &&& ~~~c.2 else m) x.mask
    if m = 0 then sweep t cov
    else if x.hid.isEmpty then sweep t ((x.addr, m) :: cov)
    else { x with mask := m } :: sweep t cov

/-- Change who may miss each recent store. -/
def State.reveal (s : State) (f : Recent → List Viewer) : State :=
  { s with recent := sweep (s.recent.map fun x => { x with hid := f x }) [] }

/-- A write that everybody sees at once ends what could be missed of those bytes. -/
def State.cover (s : State) (a n : Nat) : State :=
  let gone := fun (d : Nat) => (below 8).foldl (fun (m : BitVec 8) i =>
    if a ≤ d + i && d + i < a + n then m ||| BitVec.ofNat 8 (2 ^ i) else m) 0
  { s with recent := (s.recent.map fun x => { x with mask := x.mask &&& ~~~(gone x.addr) }).filter (·.mask != 0) }

/-- Who reads (R124): the scalar path of a strand, a post that reads its record, an entry of a vector path, the engine of a cluster or of
a bulkhead for a call of a strand. -/
inductive Reader where
  | scalar (uid : Nat) (core : Option CoreId)
  | record (uid : Nat) (core : Option CoreId)
  | vector (uid : Nat) (core : Option CoreId) (entry : Nat)
  | engine (uid : Nat) (cluster : Option Nat)
  deriving DecidableEq, Repr

/-- The path of a strand that reads: its name, and whether it is the vector path. -/
def Reader.path : Reader → Option (Nat × Bool)
  | .scalar u _ => some (u, false)
  | .record u _ => some (u, false)
  | .vector u _ _ => some (u, true)
  | .engine _ _ => none

/-- May a call of a strand on the engine of a cluster, or of a bulkhead, still miss a store (R28, R125)? -/
def Viewer.missesCall (u : Nat) (cl : Option Nat) : Viewer → Bool
  | .engines but => cl.all fun n => !but.contains n
  | .calls us but => us.contains u && cl.all fun n => !but.contains n
  | _ => false

/-- May a reader still miss a store? A path that has been ordered after it may not (R126). -/
def Recent.missed (x : Recent) (r : Reader) : Bool :=
  !(r.path.any x.fixed.contains) &&
  match r with
  | .scalar u c => if x.uid = u then x.hid.contains .scal else c.any fun c => x.hid.contains (.sibS c)
  | .record u c => if x.uid = u then x.hid.contains .scal && x.hid.contains .record
      else c.any fun c => x.hid.contains (.sibS c)
  | .vector u c _ => if x.uid = u then x.hid.contains .vec || x.hid.contains .strip
      else c.any fun c => x.hid.contains (.sibV c)
  | .engine u cl => x.hid.any (Viewer.missesCall u cl)

/-- A list with one more member. -/
def withMember {α : Type} [DecidableEq α] (l : List α) (x : α) : List α := if l.contains x then l else x :: l

/-- A store that another path of a strand has observed (R128). -/
def Recent.note (x : Recent) (u : Nat) (vector : Bool) : Recent :=
  if x.uid = u && x.vector = vector then x else { x with known := withMember x.known (u, vector) }

/-- A path of a strand no longer goes behind a store (R126). -/
def Recent.fix (x : Recent) (u : Nat) (vector : Bool) : Recent :=
  if x.uid = u then { x with hid := x.hid.filter fun v => if vector then v != .vec && v != .strip else v != .scal }
  else { x with fixed := withMember x.fixed (u, vector) }

/-- A store that a reader has seen: the scalar path does not go back on it (R126, R127); of the vector path the entry has taken its
value (R292), and it goes back at most within its strip (R130). -/
def Recent.seen (x : Recent) : Reader → Recent
  | .scalar u _ => (x.note u false).fix u false
  | .record u _ => (x.note u false).fix u false
  | .vector u _ e => { x.note u true with taken := withMember x.taken (u, e) }
  | .engine _ _ => x

/-- Has a path of a strand made a store, or observed it? -/
def Recent.heldBy (x : Recent) (u : Nat) (vector : Bool) : Bool :=
  (x.uid = u && x.vector = vector) || x.known.contains (u, vector)

/-- Does a recent store touch some of these bytes of a dword? -/
def Recent.touches (x : Recent) (d : Nat) (m : BitVec 8) : Bool := x.addr = d && x.mask &&& m != 0

/-- A dword as the strand's instruction fetch sees it: without the strand's own stores that no fence with i in its successor
set has followed (R158). -/
def fetchView (u d : Nat) : List Recent → (fixed : BitVec 8) → (v : Nat) → Nat
  | [], _, v => v
  | x :: t, fixed, v =>
    if x.addr ≠ d then fetchView u d t fixed v
    else if x.uid = u && x.hid.contains .fetch then fetchView u d t fixed (patch v x.old.toNat (x.mask &&& ~~~fixed))
    else fetchView u d t (fixed ||| x.mask) v

/-- An instruction word as a strand fetches it (R158). -/
def State.fetched (s : State) (u a : Nat) : IWord :=
  BitVec.ofNat 32 (outOf (fetchView u (dwordOf a) s.recent 0 (s.natAt (dwordOf a) 8)) a 4)

/-- A write to memory races with the accepted calls that may read those bytes (R340, R366, R391, R413); `w`: the call that
writes, 0 for none. A job does not race with one of its own engine (R340). -/
def State.race (s : State) (a n w : Nat) (soft : Bool := false) : State :=
  let own := s.calls.find? (·.id == w)
  let meets := fun (c : Call) => [0, 2, 3, 5].contains c.kind && c.id != w &&
    !(c.kind = 0 && own.any fun d => d.kind = 0 && d.eng = c.eng)
  { s with raced := (s.calls.filter meets).map (fun c => ⟨c.id, a, n, soft⟩) ++ s.raced }

end Sys2Proof.Machine
end

