-- ==== Sys2Proof/Machine/Xlate.lean ====
section
/-! DEFINITION. Translation: table walks of both stages (R116-R120), cached translations (R121), regions (R108), windows
(R435), the scratch aperture (R107), and the untranslated accesses of service strands (R424, R446, R447). -/

namespace Sys2Proof.Machine

/-- What an access does (R118); `rw` is an atomic. -/
inductive Acc where
  | r | w | rw | x
  deriving DecidableEq, Repr

/-- Does the access write? -/
def Acc.writes : Acc → Bool
  | .w => true
  | .rw => true
  | _ => false

/-- What serves an address (R107, R108, R446). -/
inductive RKind where
  | pma | win | host | scratch | svc
  deriving DecidableEq, Repr

/-- Where an access lands: its address in the model's address space, what serves it, and the DET attribute. -/
structure Place where
  addr : Nat
  kind : RKind
  det : Bool
  deriving DecidableEq, Repr

/-- A translation that fails: a permission fault or a translation fault; at stage 2 with its IPA; or answered NACK by a
gate (R118, R421, R435). -/
structure XErr where
  perm : Bool
  s2 : Option Nat
  nack : Bool
  deriving DecidableEq, Repr

/-- A stage-1 translation fault. -/
def XErr.s1 : XErr := ⟨false, none, false⟩

/-- A level of a table (R116): lowest index bit, index bits, alignment of the next table, page size (0: none). -/
structure Lvl where
  lo : Nat
  n : Nat
  next : Nat
  leaf : Nat
  deriving DecidableEq, Repr

/-- The five levels (R116). -/
def levels : List Lvl :=
  [⟨46, 10, 2048, 0⟩, ⟨38, 8, 2048, 0⟩, ⟨30, 8, 512, 2 ^ 30⟩, ⟨24, 6, 2048, 2 ^ 24⟩, ⟨16, 8, 0, 2 ^ 16⟩]

/-- The address field of an entry (R117). -/
def pteOa (e : Nat) : Nat := bits e 9 39 <<< 9

/-- The page size of a leaf: 2 MiB for B2M (R119). -/
def pteSize (l : Lvl) (e : Nat) : Nat := if bit e 8 then 2 ^ 21 else l.leaf

/-- Is a leaf entry well formed at its level (R117-R120)? -/
def pteLeafOk (stage2 : Bool) (l : Lvl) (e : Nat) : Bool :=
  l.leaf != 0 && !(bit e 8 && l.next != 0) && !(stage2 && (bit e 5 || bit e 6 || bit e 7)) && pteOa e % pteSize l e = 0

/-- A walk of one stage (R118): one entry per level, read by `rd`; `bad` is the error of a malformed entry. At L4 it reads the entry
that the address indexes, also where R119 lets it use another of the 32 of a 2 MiB range that differ (DESIGN CHOICE, log 24). -/
def walk (rd : Nat → Except XErr Nat) (bad : XErr) (stage2 : Bool) (x : Nat) : List Lvl → Nat → Except XErr Leaf
  | [], _ => .error bad
  | l :: t, tbl =>
    match rd (tbl + 8 * bits x l.lo l.n) with
    | .error e => .error e
    | .ok e =>
      if !bit e 0 || bits e 48 8 != 0 then .error bad
      else if bit e 1 then
        if pteLeafOk stage2 l e then
          .ok ⟨pteOa e, pteSize l e, bit e 2, bit e 3, bit e 4, bit e 5, bit e 6, bit e 7⟩
        else .error bad
      else if l.next = 0 || bits e 2 7 != 0 || pteOa e % l.next != 0 then .error bad
      else walk rd bad stage2 x t (pteOa e)

/-- Does a leaf refuse the access (R118)? U counts at stage 1 alone. -/
def Leaf.refuses (l : Leaf) (acc : Acc) (app : Bool) : Bool :=
  (!l.r && l.w) || (app && !l.u) ||
  (match acc with
    | .r => !l.r
    | .w => !l.w
    | .rw => !l.r || !l.w
    | .x => !l.x)

/-- The stage-2 leaf of an IPA (R116, R120): tables lie in HYP memory. The spec lets a walk without an S2INV use the old entry
or the new one; this one reads the newest (DESIGN CHOICE, log 24). -/
def State.stage2 (s : State) (p : Part) (ipa : Nat) : Except XErr Leaf :=
  let bad : XErr := ⟨false, some ipa, false⟩
  let rd := fun a => if a + 8 ≤ s.hypSize then .ok (s.natAt (s.hypAt a) 8) else .error bad
  walk rd bad true ipa levels (bits p.s2root.toNat 13 35 <<< 13)

/-- The place of a PMA of a partition: NACK unless its home is up (R109, R418, R421). A closed gate lets the service mark
through (`svc`). -/
def State.pmaPlace (s : State) (p : Part) (pma : Nat) (kind : RKind) (det svc : Bool) : Except XErr Place :=
  let (b, loc) := p.pmaAt pma
  if (s.bh b).state = .owned || (svc && (s.bh b).state = .reset) then .ok ⟨hbmAt b loc, kind, det⟩ else .error ⟨false, none, true⟩

/-- The place of a stage-2 output address (R108, R435). -/
def State.region (s : State) (p : Part) (ipa out : Nat) (write det svc : Bool) : Except XErr Place :=
  let bad : XErr := ⟨false, some ipa, false⟩
  let r := bits out 46 2
  if det && r != 0 then .error XErr.s1
  else if r = 0 then
    if bits out 0 46 < 2 ^ 34 * p.nb then s.pmaPlace p (bits out 0 46) .pma det svc else .error bad
  else if r = 1 then
    match p.windows.find? (·.win == bits out 42 4) with
    | none => .error bad
    | some w =>
      if bits out 0 42 ≥ w.len then .error bad
      else if write && !w.wr then .error ⟨true, some ipa, false⟩
      else match s.part? w.exp with
        | none => .error bad
        | some q => s.pmaPlace q (w.base + bits out 0 42) .win false svc
  else if r = 2 then .ok ⟨hostAt (bits out 0 46), .host, false⟩
  else .error bad

/-- An IPA through stage 2 alone (R457, R185, R195); `svc`: with the service mark (R418). -/
def State.ipaPlace (s : State) (p : Part) (ipa : Nat) (acc : Acc) (svc : Bool := false) : Except XErr Place :=
  match s.stage2 p ipa with
  | .error e => .error e
  | .ok l =>
    if l.refuses acc false then .error ⟨true, some ipa, false⟩
    else s.region p ipa (l.oa + ipa % l.size) acc.writes false svc

/-- An entry of a stage-1 table, through stage 2 (R118). The spec fixes it for a store that has performed at partition scope;
the walk reads the newest value of one that has not (DESIGN CHOICE, log 24). Where the 32 entries of a 2 MiB page differ, R119 lets a
translation use any of them: a walk uses the one that the address indexes (DESIGN CHOICE, log 24). -/
def State.entryAt (s : State) (p : Part) (a : Nat) (svc : Bool := false) : Except XErr Nat :=
  match s.ipaPlace p a .r svc with
  | .error e => .error e
  | .ok pl => .ok (s.natAt pl.addr 8)

/-- The translation by both stages that a leaf of stage 1 gives a virtual address (R120). -/
def State.pageOf (s : State) (p : Part) (va : Nat) (l1 : Leaf) : Except XErr Page :=
  let ipa := l1.oa + va % l1.size
  match s.stage2 p ipa with
  | .error e => .error e
  | .ok l2 =>
    let size := min l1.size l2.size
    .ok ⟨va / size * size, ipa / size * size, size, l1, l2⟩

/-- A walk of both stages for a virtual address, from a table of stage 1 on (R116, R120, R121), with the stage-1 refusals that
stop it; `svc`: with the service mark (R418). -/
def State.walkFrom (s : State) (p : Part) (ls : List Lvl) (tbl va : Nat) (acc : Acc) (app : Bool) (svc : Bool := false) :
    Except XErr Page :=
  match walk (s.entryAt p · svc) XErr.s1 false (va % 2 ^ 56) ls tbl with
  | .error e => .error e
  | .ok l1 => if l1.refuses acc app then .error ⟨true, none, false⟩ else s.pageOf p va l1

/-- The stage-1 root of an address space (R116). -/
def rootOf (ptbase : Word) : Nat := bits ptbase.toNat 13 35 <<< 13

/-- A fresh walk of both stages for a virtual address. -/
def State.walkBoth (s : State) (p : Part) (ptbase : Word) (va : Nat) (acc : Acc) (app : Bool) (svc : Bool := false) :
    Except XErr Page :=
  s.walkFrom p levels (rootOf ptbase) va acc app svc

/-- A translation applied to an access (R118, R120, R135). -/
def State.usePage (s : State) (p : Part) (t : Page) (va : Nat) (acc : Acc) (app : Bool) (svc : Bool := false) :
    Except XErr Place :=
  let ipa := t.ipa + va % t.size
  if t.l1.refuses acc app then .error ⟨true, none, false⟩
  else if t.l2.refuses acc false then .error ⟨true, some ipa, false⟩
  else s.region p ipa (t.l2.oa + ipa % t.l2.size) acc.writes t.l1.det svc

/-- The valid non-leaf entries that a walk of stage 1 meets (R121): level number and next table. -/
def tablesMet (rd : Nat → Except XErr Nat) (x : Nat) : List Lvl → Nat → List (Nat × Nat)
  | [], _ => []
  | l :: t, tbl =>
    match rd (tbl + 8 * bits x l.lo l.n) with
    | .ok e => if bit e 0 && !bit e 1 then (4 - t.length, pteOa e) :: tablesMet rd x t (pteOa e) else []
    | .error _ => []

/-- Entries that a TLB holds (R2). -/
def TlbPlace.cap : TlbPlace → Nat
  | .core _ => 64
  | .cluster _ => 2048
  | .die _ => 16384

/-- The TLBs that serve a core (R121). -/
def State.coreTlbs (s : State) (c : CoreId) : List TlbPlace :=
  .core c :: ((s.coreCluster c).map TlbPlace.cluster).toList ++ [.die c.die]

/-- The TLBs that serve the executing strand. -/
def State.myTlbs (s : State) : List TlbPlace := ((s.coreOf s.me).map s.coreTlbs).getD []

/-- Does an entry match every ASID (R121)? -/
def Cached.global : Cached → Bool
  | .page x => x.l1.g
  | .table _ _ => false

/-- Does an entry serve an address of an address space (R121)? -/
def Tlb.serves (t : Tlb) (pid : Nat) (asid : BitVec 16) (a : Nat) : Bool :=
  t.pid = pid && (t.what.global || t.asid = asid) && t.va ≤ a && a < t.va + t.size

/-- Do two entries of one TLB stand for the same thing, so that the later replaces the earlier? -/
def Tlb.rival (t u : Tlb) : Bool :=
  t.place = u.place && t.pid = u.pid && (t.what.global || u.what.global || t.asid = u.asid) &&
  t.va < u.va + u.size && u.va < t.va + t.size &&
  (match t.what, u.what with
    | .page _, .page _ => true
    | .table i _, .table j _ => i = j
    | _, _ => false)

/-- Put an entry into its TLB (R2, R121): where that is full one leaves it, by the free value `f`. -/
def State.cache (f : Nat) (s : State) (t : Tlb) : State :=
  if s.tlb.contains t then s
  else
    let l := s.tlb.filter fun u => !t.rival u
    let here := l.filter (·.place == t.place)
    let l := if here.length < t.place.cap then l else match here[f % here.length]? with
      | some u => l.filter (· != u)
      | none => l
    { s with tlb := t :: l }

/-- What a walk leaves in the TLBs that serve it (R121): the pages, if any, and the non-leaf entries that it met. -/
def State.cacheMet (s : State) (at' : List TlbPlace) (p : Part) (asid : BitVec 16) (ls : List Lvl) (tbl va : Nat) (xs : List Page) :
    State :=
  let met := tablesMet (s.entryAt p) (va % 2 ^ 56) ls tbl
  let span := fun (i : Nat) => 2 ^ ((levels[i]?.map fun l => l.lo).getD 0)
  at'.foldl (fun s pl =>
    (xs.map (fun (x : Page) => (⟨pl, p.pid, asid, x.va, x.size, .page x⟩ : Tlb)) ++
      met.map fun (i, t) => (⟨pl, p.pid, asid, va / span i * span i, span i, .table i t⟩ : Tlb)).foldl
      (State.cache (Config.free s.tick (2 ^ 20 + s.draw))) s) s

/-- What a walk that finds its page leaves in the TLBs. -/
def State.cacheAll (s : State) (at' : List TlbPlace) (p : Part) (asid : BitVec 16) (ls : List Lvl) (tbl va : Nat) (x : Page) :
    State := s.cacheMet at' p asid ls tbl va [x]

/-- A walk for no access that completes: a valid entry may be cached at any time, also one that refuses the access that met it, and
the tables on the way to an entry that is not valid (R121; log 24). -/
def State.walkAhead (s : State) (at' : List TlbPlace) (pid : Nat) (asid : BitVec 16) (ptbase : Word) (va : Nat) : State :=
  match s.part? pid with
  | none => s
  | some p =>
    if !canonical (wd va) then s
    else
      let xs := match walk (s.entryAt p) XErr.s1 false (va % 2 ^ 56) levels (rootOf ptbase) with
        | .ok l1 => (s.pageOf p va l1).toOption.toList
        | .error _ => []
      s.cacheMet at' p asid levels (rootOf ptbase) va xs

/-- Translate a virtual address for a partition, an address space and a level, by the TLBs of the one who asks. A cached entry
may be used while it is there, a page or the table that a walk goes on from, or a walk from the root (R121): a free choice. -/
def xlate (at' : List TlbPlace) (pid : Nat) (asid : BitVec 16) (ptbase : Word) (level : Level) (va : Word) (acc : Acc) :
    M (Except XErr Place) := do
  let s ← get
  match s.part? pid with
  | none => return .error XErr.s1
  | some p =>
    if !canonical va then return .error XErr.s1
    let app := level = .app
    let a := va.toNat
    let hits := s.tlb.filter fun t => at'.contains t.place && t.serves pid asid a
    let k ← freeBelow (hits.length + 1)
    let hit : Option Cached := if k = 0 then none else hits[k - 1]?.map (·.what)
    match hit with
    | some (.page x) => return s.usePage p x a acc app
    | h =>
      let (ls, tbl) := match h with
        | some (.table i t) => (levels.drop (i + 1), t)
        | _ => (levels, rootOf ptbase)
      match s.walkFrom p ls tbl a acc app with
      | .error e => return .error e
      | .ok x =>
        modify fun s => s.cacheAll at' p asid ls tbl a x
        return s.usePage p x a acc app

/-- The fault cause of an access kind (R148). -/
def Acc.cause : Acc → Nat
  | .r => 6
  | .x => 5
  | _ => 7

/-- The place of an address in the scratch aperture for the executing strand (R107). -/
def scratchPlace (va : Word) : M (Option Nat) := do
  let s ← get
  let off := va.toNat - apertureBase
  match s.split? s.me.owner.lid s.me.clu with
  | none => return none
  | some x => return if off < x.scr * 65536 then x.at off else none

/-- Why an address of the executing strand has no place: answered NACK by a gate (R421), and the route of its fault. -/
structure PErr where
  nack : Bool
  route : Route
  deriving DecidableEq, Repr

/-- The error of a translation (R118, R149). -/
def XErr.place (e : XErr) : PErr :=
  ⟨e.nack, match e.s2 with
    | some ipa => .s2 (BitVec.ofNat 48 ipa)
    | none => .sup⟩

/-- The place of an access of the executing strand, or why it has none (R106-R108, R205). Service strands are not
translated: the hypervisor strand reaches HYP memory, MON reaches service memory (R424, R446, R447). -/
def placeE (va : Word) (acc : Acc) : M (Except PErr Place) := do
  let s ← get
  match s.me.owner with
  | .mon => return if va.toNat < 2 ^ 27 then .ok ⟨svcAt va.toNat, .svc, false⟩ else .error ⟨false, .mon⟩
  | .hyp => return if va.toNat < s.hypSize then .ok ⟨s.hypAt va.toNat, .svc, false⟩ else .error ⟨false, .mon⟩
  | .part pid _ _ _ =>
    if inAperture va then
      let a ← if acc = .x then pure none else scratchPlace va
      return match a with
        | some a => .ok ⟨a, .scratch, false⟩
        | none => .error ⟨false, .sup⟩
    else
      match ← xlate s.myTlbs pid s.me.asid s.me.ptbase s.me.pl va acc with
      | .ok pl => return .ok pl
      | .error e => return .error e.place

/-- The place of an access of the executing strand, or its fault. -/
def place (va : Word) (acc : Acc) (cause : Nat) : M Place := do
  match ← placeE va acc with
  | .ok pl => return pl
  | .error e => trapAt cause va e.route

end Sys2Proof.Machine
end

