-- ==== Sys2Proof/Machine/Breach.lean ====
section
/-! DEFINITION. Breaches of what software shall not do (R12) that an access can show: memory that it shall not write now, a DET page
that it reaches as a plain one, and what HYP shall not unmap (log 23). -/

namespace Sys2Proof.Machine

/-- A context, or with 0 a whole partition, has broken an obligation at a level (R12). -/
def State.breach (s : State) (pid ctx : Nat) (lv : Level) : State :=
  if s.breached.contains (pid, ctx, lv) then s else { s with breached := (pid, ctx, lv) :: s.breached }

/-- The memory of an IPA range of a partition, as far as it translates. -/
def State.ipaSpots (s : State) (p : Part) (ipa n : Nat) : List (Nat × Nat) :=
  (pieces 4096 (n / 4096 + 2) ipa n).filterMap fun (a, k) =>
    match s.ipaPlace p a .r with
    | .ok pl => some (pl.addr, k)
    | .error _ => none

/-- The memory of a started launch's completion word (R187). -/
def State.cwSpots (s : State) (p : Part) (l : Launch) : List (Nat × Nat) :=
  let va := bits l.record.toNat 320 64
  match s.walkBoth p (p.space l.ctx).2 va .rw (l.level = .app) with
  | .ok t => match s.usePage p t va .rw (l.level = .app) with
    | .ok pl => [(pl.addr, 8)]
    | .error _ => []
  | .error _ => []

/-- HEAD of the queues whose descriptors hold EN = 1, and REPLAY of those that are open as well (R181, R182), in the table of descriptors
if [a, a + n) meets it. -/
def State.indexSpots (s : State) (p : Part) (a n : Nat) : List (Nat × Nat) :=
  if !bit p.lqbase.toNat 0 then []
  else match s.ipaPlace p (p.descIpa 0) .r with
    | .error _ => []
    | .ok t =>
      if !meets a n t.addr 4096 then []
      else p.queues.zipIdx.flatMap fun (x, q) =>
        let d := t.addr + 64 * q
        if bit (s.natAt d 8) 0 then [(d + 24, 4), (d + 32, 4)] else if x.isOpen then [(d + 32, 4)] else []

/-- Memory of a partition that software shall not write as things are, and whether R12 then holds for the whole partition: HEAD and
REPLAY of a queue (R182; those that [a, a + n) can meet), a backing entry in use (R72), the completion word of a launch that runs (R187),
and the record of a switched-out strand (R170). -/
def State.guarded (s : State) (p : Part) (a n : Nat) : List (Nat × Nat × Bool) :=
  let mark := fun (b : Bool) (l : List (Nat × Nat)) => l.map fun (a, n) => (a, n, b)
  mark true (s.indexSpots p a n) ++
  (s.accums.flatMap fun c => match c.spill with
    | some i => if (s.homePart c.addr).map (·.pid) = some p.pid then mark true (s.ipaSpots p (p.backingIpa i) 48) else []
    | none => []) ++
  ((s.launches.filter fun l => l.pid = p.pid && l.stat = .started).flatMap fun l => mark false (s.cwSpots p l)) ++
  ((s.strands.filter fun t => t.live && t.place.isNone && t.owner.pid? = some p.pid && bit t.vback.toNat 0).flatMap fun t =>
    mark false (s.ipaSpots p (t.slotIpa 0) 131072))

/-- Has stage 2 lost a page of an IPA range? -/
def State.lost (s : State) (p : Part) (ipa n : Nat) : Bool :=
  (below ((n + 65535) / 65536)).any fun i => match s.stage2 p (ipa + 65536 * i) with
    | .ok _ => false
    | .error _ => true

/-- A partition whose valid save area, or whose backing area in use, HYP has unmapped (R136, R168). -/
def State.unmappedUnder (s : State) (p : Part) : Bool :=
  (p.detcnt.toNat % 2 ^ 24 != 0 && s.lost p (p.backingIpa 0) (48 * (p.detcnt.toNat % 2 ^ 24))) ||
  s.strands.any fun t => t.live && t.owner.pid? = some p.pid && bit t.vback.toNat 0 && s.lost p (t.slotIpa 0) 131072

/-- A write of a context at a level to bytes of memory may break an obligation (R12). -/
def State.noteWrite (s : State) (pid ctx : Nat) (lv : Level) (a n : Nat) : State :=
  match s.part? pid with
  | none => s
  | some p =>
    let hits := (s.guarded p a n).filter fun (b, m, _) => meets a n b m
    if hits.isEmpty then s else s.breach pid (if hits.any (·.2.2) then 0 else ctx) lv

/-- A write of the executing strand may break an obligation (R12): also one that meets an active element through a leaf without DET
(R137), and one of HYP that unmaps what the device has pinned. -/
def State.noteStore (s : State) (pl : Place) (n : Nat) : State :=
  match s.me.owner with
  | .part pid ctx _ _ =>
    let s := s.noteWrite pid ctx s.me.pl pl.addr n
    if !pl.det && s.accums.any (·.meets pl.addr n) then s.breach pid ctx s.me.pl else s
  | .hyp => (s.parts.filter s.unmappedUnder).foldl
      (fun s p => [Level.app, .sup, .hyp].foldl (fun s lv => s.breach p.pid 0 lv) s) s
  | .mon => s

end Sys2Proof.Machine
end

