-- ==== Sys2Proof/Machine/Access.lean ====
section
/-! DEFINITION. Loads and stores as the paths of a strand perform them (R110, R126-R131), DET accumulators and their
backing area (R66-R72), and what a fence makes visible. -/

namespace Sys2Proof.Machine

/-- The address of byte `j` of backing entry `i` of a partition, by stage 2 (R72, R136). -/
def State.backingAt (s : State) (p : Part) (i j : Nat) : Option Nat :=
  match s.ipaPlace p (p.backingIpa i + j) .w with
  | .ok pl => some pl.addr
  | .error _ => none

/-- Write the bytes of a backing entry from byte `j` on (R72). -/
def State.putBacking (s : State) (p : Part) (i j : Nat) (l : List Byte) : State :=
  loop l.length (fun k t => match s.backingAt p i (j + k) with
    | some a => { t with mem := Mem.write t.mem a (nth l k 0) }
    | none => t) s

/-- The 48 bytes of a backing entry in use (R72). -/
def Accum.entry (c : Accum) : List Byte :=
  leBytes 40 c.acc.toNat ++
  leBytes 8 (c.fmt + (if c.nan then 4 else 0) + (if c.pinf then 8 else 0) + (if c.ninf then 16 else 0) + 32 +
    ((c.addr / 2) % 2 ^ 47) <<< 8)

/-- A spilled accumulator's backing entry returns to V = 0 (R72); its other bits stay as they are (log 77). -/
def State.freeEntry (s : State) (c : Accum) : State :=
  match c.spill, s.homePart c.addr with
  | some i, some p => match s.backingAt p i 40 with
    | some a => s.putBacking p i 40 [Mem.read s.mem a &&& 0xDF]
    | none => s
  | _, _ => s

/-- How many accumulators an L2 slice holds (R72). -/
def State.held (s : State) (home : Nat) : Nat :=
  (s.accums.filter fun c => c.spill.isNone && c.addr / 2 ^ 34 = home).length

/-- The free backing entries of a partition: those that no spilled accumulator has (R72). -/
def State.freeEntries (s : State) (p : Part) : List Nat :=
  let used := (s.accums.filter fun c => c.spill.isSome && (s.homePart c.addr).map (·.pid) = some p.pid).map (·.spill)
  those (p.detcnt.toNat % 2 ^ 24) fun i => !used.contains (some i)

/-- The state after one accumulator of a home, not that of `keep`, is spilled to the backing area; none: the area is full.
Which one, and to which entry, are the free values `f` and `g` (R72). -/
def State.spill (s : State) (home keep f g : Nat) : Option State := do
  let p ← (s.bh home).owner.bind s.part?
  let cs := s.accums.filter fun c => c.spill.isNone && c.addr / 2 ^ 34 = home && c.addr != keep
  let es := s.freeEntries p
  let c ← cs[f % cs.length]?
  let i ← es[g % es.length]?
  let s := s.putBacking p i 0 c.entry
  return { s with accums := s.accums.map fun x => if x.addr = c.addr then { x with spill := some i } else x }

/-- A spilled accumulator comes back into its store, and its entry is free again (R72). -/
def State.unspill (s : State) (c : Accum) : State :=
  let s := s.freeEntry c
  { s with accums := s.accums.map fun x => if x.addr = c.addr then { x with spill := none } else x }

/-- Where the store of an accumulator's home then holds one too many, another takes a backing entry (R72). -/
def State.respill (s : State) (c : Accum) : State :=
  let home := c.addr / 2 ^ 34
  if s.held home ≤ 65536 then s
  else (s.spill home c.addr (Config.free s.tick 999961) (Config.free s.tick 999959)).getD s

/-- A spilled accumulator is filled back on use (R72): its entry is free again, and where its store is full another takes
one. -/
def State.fill (s : State) (c : Accum) : State := if c.spill.isNone then s else (s.unspill c).respill c

/-- An access to bytes of memory: the spilled accumulators that it meets are filled back (R72). -/
def State.touch (s : State) (a n : Nat) : State := (s.accums.filter (·.meets a n)).foldl State.fill s

/-- Collapse an active element: its rounded value becomes plain contents (R69, R71). -/
def State.collapse (s : State) (c : Accum) : State :=
  let s := s.freeEntry c
  { s with
    mem := Mem.writeL s.mem c.addr (leBytes c.size c.value)
    accums := s.accums.filter (·.addr != c.addr) }

/-- Write bytes in coherence order: an active element covered whole is filled back and set exactly, one covered in part is
collapsed first (R69, R72); a whole line loses its poison (R142). -/
def State.put (s : State) (a : Nat) (l : List Byte) : State :=
  let n := l.length
  let hits := s.accums.filter (·.meets a n)
  let whole := fun (c : Accum) => decide (a ≤ c.addr ∧ c.addr + c.size ≤ a + n)
  let s : State := (hits.filter fun c => !whole c).foldl State.collapse s
  let back := hits.filter fun c => whole c && c.spill.isSome
  let s := back.foldl State.unspill s
  let stored := fun (c : Accum) => c.set (unpack (accFmt c.fmt) (leNat (slice l (c.addr - a) c.size)))
  let s := { s with accums := s.accums.map fun (c : Accum) => if c.meets a n then stored c else c }
  let s := back.foldl State.respill s
  let s := loop n (fun i t =>
    if t.accums.any (·.meets (a + i) 1) then t else { t with mem := Mem.write t.mem (a + i) (nth l i 0) }) s
  s.cleanBad a n

/-- Write a number of `n` bytes. -/
def State.putN (s : State) (a n v : Nat) : State := s.put a (leBytes n v)

/-- A write by an engine's call `w`, or with 0 by the host or the device itself: everybody sees it. -/
def State.putBy (s : State) (w a : Nat) (l : List Byte) (soft : Bool := false) : State :=
  let s := ((s.put a l).cover a l.length).race a l.length w soft
  match s.calls.find? fun c => c.id = w && w != 0 with
  | some c => s.noteWrite c.pid c.ctx c.level a l.length
  | none => s

/-- A write by the host or the device itself. -/
def State.putDev (s : State) (a : Nat) (l : List Byte) : State := s.putBy 0 a l

/-- Do paths see this place through caches that can lag (R107, R108, R110, R135)? -/
def Place.lags (pl : Place) : Bool := !pl.det && (pl.kind = .pma || pl.kind = .scratch)

/-- The core of the executing strand. -/
def State.myCore (s : State) : Option CoreId := s.coreOf s.me

/-- The number of the queue entry that a strand runs. -/
def Strand.entryId (t : Strand) : Nat := (t.vq.head?.map (·.id)).getD 0

/-- How a path of the executing strand reads. -/
def State.reader (s : State) (vector : Bool) : Reader :=
  if vector then .vector s.me.uid s.myCore s.me.entryId else .scalar s.me.uid s.myCore

/-- What a reader sees of some bytes of dword `d`, the recent stores newest first: each that it may miss it sees or misses, a
free choice (R126, R131; log 11); bytes in `fixed` are decided. -/
def look (r : Reader) (d : Nat) (m : BitVec 8) : List Recent → (fixed : BitVec 8) → (v : Nat) → M (Nat × List Recent)
  | [], _, v => return (v, [])
  | x :: t, fixed, v => do
    if !x.touches d (m &&& ~~~fixed) then
      let (y, l) ← look r d m t fixed v
      return (y, x :: l)
    else if ← (if x.missed r then freeBool else pure false) then
      let (y, l) ← look r d m t fixed (patch v x.old.toNat (x.mask &&& ~~~fixed))
      return (y, x :: l)
    else
      let (y, l) ← look r d m t (fixed ||| x.mask) v
      return (y, x.seen r :: l)

/-- Read up to 8 bytes within a dword as a reader sees them. -/
def readAs (r : Reader) (a n : Nat) : M Nat := do
  modify fun s => s.touch a n
  let s ← get
  let d := dwordOf a
  if !s.recent.any (·.addr = d) then return s.natAt a n
  let (v, l) ← look r d (maskOf a n) s.recent 0 (s.natAt d 8)
  modify fun s => { s with recent := sweep l [] }
  return outOf v a n

/-- Load `n` bytes at an address for a path of the executing strand, which may lag there or not. -/
def loadFrom (vector lags : Bool) (a n : Nat) : M Nat := do
  let s ← get
  if lags then readAs (s.reader vector) a n
  else
    modify fun s => s.touch a n
    return (← get).natAt a n

/-- Load `n` bytes for a path of the executing strand. -/
def loadPath (vector : Bool) (pl : Place) (n : Nat) : M Nat := loadFrom vector pl.lags pl.addr n

/-- The recent stores split where a new access to some bytes of dword `d` comes in coherence order: after those above it, which
its path may still miss (R126, R130, R131), and `ordered` does not forbid; a free choice at each. -/
def orderPoint (r : Reader) (d : Nat) (m : BitVec 8) (free? : Recent → Bool) : List Recent → M (List Recent × List Recent)
  | [] => return ([], [])
  | x :: t => do
    if x.touches d m then
      if x.missed r && free? x then
        if ← freeBool then
          let (a, b) ← orderPoint r d m free? t
          return (x :: a, b)
      return ([], x :: t)
    else
      let (a, b) ← orderPoint r d m free? t
      return (x :: a, b)

/-- The newer stores after `v` was written just before them: what they replaced holds it. -/
def lift (d : Nat) (m : BitVec 8) (v : Nat) (above : List Recent) : List Recent :=
  (above.foldr (fun x (l, cov) =>
    if x.addr = d then ({ x with old := wd (patch x.old.toNat v (m &&& ~~~cov)) } :: l, cov ||| x.mask) else (x :: l, cov))
    (([], 0) : List Recent × BitVec 8)).1

/-- Do the data, index or vc of the entry that runs depend on a value that a load or `vamo` of its strip took from a store or a later
one (R292)? -/
def Strand.dependsOn (t : Strand) (x : Recent) : Bool :=
  let mine := (t.vq.head?.map fun e => (e.op.uses fun r => t.vtagOf r.toNat).1).getD []
  t.deps.any fun q => !q.mask && mine.contains q.reg && x.taken.contains (t.uid, q.load)

/-- An access of the executing strand that writes up to 8 bytes within a dword: `f` gives the bytes written from those it
finds, none if it writes nothing; it answers what it finds. Where its path has unordered stores to the same bytes, it may come
before them (R126, R130, R131), unless it is `ordered` after those of its own queue entry (R299) or its entry depends on a load that
saw them (R292). On pages that no path lags behind (R107, R108, R135), the elements of an instruction land in rising order (DESIGN CHOICE,
log 21). `hid`: who may miss it. -/
def writeAs (vector ordered : Bool) (hid : List Viewer) (pl : Place) (n : Nat) (f : Nat → Option Nat) : M Nat := do
  modify fun s => s.touch pl.addr n
  let s ← get
  let a := pl.addr
  let d := dwordOf a
  let m := maskOf a n
  let r := s.reader vector
  let mine := fun (x : Recent) => ordered && x.uid = s.me.uid && x.vector && x.entry = s.me.entryId
  let free? := fun (x : Recent) => !mine x && !(vector && s.me.dependsOn x)
  let (above, below') ← if pl.lags then orderPoint r d m free? s.recent else pure ([], s.recent)
  let found := above.foldl (fun v x => if x.addr = d then patch v x.old.toNat x.mask else v) (s.natAt d 8)
  let old := outOf found a n
  match f old with
  | none => modify fun s => { s with recent := sweep (above ++ below'.map fun x => if x.touches d m then x.seen r else x) [] }
  | some v =>
    let top := above.foldl (fun c x => if x.addr = d then c ||| x.mask else c) (0 : BitVec 8)
    let new : Recent := ⟨d, wd found, m, s.me.uid, vector, if vector then s.me.entryId else 0, [], [],
      if vector then [(s.me.uid, s.me.entryId)] else [], hid⟩
    let whole := (v % 2 ^ (8 * n)) <<< (8 * (a % 8))
    modify fun s =>
      let s := if top &&& m = 0 then s.putN a n v
        else { s with mem := loop 8 (fun i q => if m.getLsbD i && !top.getLsbD i
          then Mem.write q (d + i) (BitVec.ofNat 8 (elem 8 i whole)) else q) s.mem }
      ({ s.race a n 0 with recent := sweep (lift d m whole above ++ new :: below') [] } : State).noteStore pl n
  return old

/-- Who may miss a plain store of the executing strand (R28, R110, R127, R130, R131, R158). A place that no cache of a core serves has
its accesses performed in order (R135), but for the operands of the strand's own calls (R28). -/
def State.missers (s : State) (vector : Bool) (pl : Place) : List Viewer :=
  let sibs := (s.myCore.map fun c => [Viewer.sibS c, Viewer.sibV c]).getD []
  if !pl.lags then [.fetch, .calls [s.me.uid] []]
  else if vector then [.scal, .record, .strip, .fetch, .engines []] ++ sibs
  else [.vec, .fetch, .engines []] ++ sibs

/-- Store `n` bytes (within a dword) for a path. -/
def storeAs (vector ordered : Bool) (pl : Place) (n v : Nat) : M Unit := do
  let _ ← writeAs vector ordered ((← get).missers vector pl) pl n fun _ => some v

/-- Store `n` bytes (within a dword) for a path. -/
def storePath (vector : Bool) (pl : Place) (n v : Nat) : M Unit := storeAs vector false pl n v

/-- Who may still miss a store that has performed at a scope before accesses of the classes s (0), v (1), e (2) and i (3)
begin (R128): `own` tells the strand's own stores, `us` is the strand and the store's writer, `cl` its cluster. A fence's scope holds
the other strands of the core. -/
def Viewer.past (own : Bool) (us : List Nat) (q : Nat → Bool) (scope : Nat) (cl : Option Nat) : Viewer → List Viewer
  | .scal => if own && q 0 then [] else [.scal]
  | .record => if own && (q 0 || q 2) then [] else [.record]
  | .vec => if own && q 1 then [] else [.vec]
  | .strip => if own && q 1 then [] else [.strip]
  | .fetch => if own && q 3 then [] else [.fetch]
  | .sibS _ => []
  | .sibV _ => []
  | .engines but =>
    if scope = 0 then [.engines but]
    else
      let near := cl.toList.filter (fun n => !but.contains n) ++ but
      (if 2 ≤ scope then [] else [.engines near]) ++ (if q 2 then [] else [.calls us but])
  | .calls vs but =>
    if !(q 2) || scope = 0 then [.calls vs but]
    else if 2 ≤ scope then []
    else [.calls vs (cl.toList.filter (fun n => !but.contains n) ++ but)]

/-- The recent stores after the dirty lines of the executing strand's L1D are written back (R110, R128): no vector path of its core
misses the scalar stores of that core any more. -/
def State.linesBack (s : State) : List Recent :=
  match s.myCore with
  | none => s.recent
  | some c => sweep (s.recent.map fun x =>
      if x.vector || 2 ^ 40 ≤ x.addr || (s.strand? x.uid).bind s.coreOf != some c then x
      else { x with hid := x.hid.filter fun v => v != .vec && v != .sibV c }) []

/-- What a fence of the executing strand makes performed (R128): its own accesses of the classes `p`, and the stores that
they read, before its later accesses of the classes `q` begin; from s to v it writes the core's dirty lines back. -/
def State.order (s : State) (p q : Nat → Bool) (scope : Nat) : State :=
  let u := s.me.uid
  let l := if p 0 && q 1 then s.linesBack else s.recent
  { s with recent := sweep (l.map fun x =>
      if (p 0 && x.heldBy u false) || (p 1 && x.heldBy u true) then
        let y := if p 1 && q 1 && x.heldBy u true then x.fix u true else x
        { y with hid := (y.hid.flatMap (Viewer.past (x.uid = u) [u, x.uid] q scope (s.strandCluster s.me))).eraseDups }
      else x) [] }

/-- Every earlier access of the executing strand has performed at partition scope before its later accesses to memory begin (R189,
R325, R329); that its own later calls see them takes a fence with e (R28, R363). -/
def State.settleAll (s : State) : State := s.order (fun _ => true) (· ≤ 1) 2

/-- May a strand of the writer's core still miss a store? -/
def Viewer.isSib : Viewer → Bool
  | .sibS _ => true
  | .sibV _ => true
  | _ => false

/-- A strand acquires what others released (R129, R132, R182, R189, R325, R329): the stores that every strand sees count as
accesses of its own, of both classes (R128, R354). -/
def State.acquireFor (s : State) (u : Nat) : State :=
  { s with recent := s.recent.map fun x => if x.hid.any Viewer.isSib then x else (x.note u false).note u true }

/-- The executing strand acquires what others released. -/
def State.acquire (s : State) : State := s.acquireFor s.me.uid

/-- The strip that a strand's entries run in ends (R130): its accesses have performed at core scope before those of the next, and its
vector path no longer goes behind what it has observed; the strand's own scalar path is apart (R131). -/
def State.closeStrip (s : State) : State :=
  let u := s.me.uid
  { s with recent := sweep (s.recent.map fun x =>
      let y := if x.known.contains (u, true) then x.fix u true else x
      if x.uid != u || !x.vector then y
      else { y with hid := y.hid.filter fun v => v != .strip && !v.isSib }) [] }

/-- Make room in the accumulator store of a home for one more, spilling one of its accumulators to the backing area;
false: both are full (R72). Which one and where is free. -/
def spillFor (home : Nat) (keep : Nat) : M Bool := do
  let s ← get
  if s.held home < 65536 then return true
  match s.spill home keep (← free) (← free) with
  | none => return false
  | some s' =>
    set { s' with draw := (← get).draw }
    return true

/-- `fadd` of a value to an element of a DET page: the value read just before the add, or none for a store fault
(R66, R67, R68, R72); `w`: the call that adds, 0 for none. -/
def detAdd (a fmt v w : Nat) : M (Option Nat) := do
  let n := if fmt = 0 then 4 else 2
  let x := unpack (accFmt fmt) v
  modify fun s => s.touch a n
  let s ← get
  match s.accums.find? (·.meets a n) with
  | some c =>
    if c.addr = a && c.fmt = fmt then
      set ({ s with accums := s.accums.map fun (y : Accum) => if y.addr = a then c.add x else y }.race a n w)
      return some c.value
    else return none
  | none =>
    if ← spillFor (a / 2 ^ 34) a then
      let c0 : Accum := Accum.set ⟨a, fmt, 0, false, false, false, none⟩ (unpack (accFmt fmt) (s.natAt a n))
      modify fun s => { s with accums := c0.add x :: s.accums }.race a n w
      return some c0.value
    else return none

/-- Discard every accumulator of a partition without a collapse; its backing entries return to V = 0 (R419). -/
def State.dropAccums (s : State) (p : Part) : State :=
  let mine := s.accums.filter fun c => (s.homePart c.addr).map (·.pid) = some p.pid
  let s := mine.foldl State.freeEntry s
  { s with accums := s.accums.filter fun c => !mine.contains c }

end Sys2Proof.Machine
end

