-- ==== Sys2Proof/Machine/Ipa.lean ====
section
/-! DEFINITION. The device's own accesses by IPA (R168, R181, R185, R468) and by virtual address for a context: those of the
monitor and the dispatchers come from the service column and carry the service mark (R418), `svc`. -/

namespace Sys2Proof.Machine

/-- Read `n` bytes at an IPA through stage 2, in pieces that no page or home boundary cuts (R109); none if a piece does
not translate. -/
def State.getIpa (s : State) (p : Part) (svc : Bool) : (fuel ipa n : Nat) → Option (List Byte)
  | 0, _, _ => some []
  | fuel + 1, ipa, n =>
    if n = 0 then some []
    else
      let k := min n (4096 - ipa % 4096)
      match s.ipaPlace p ipa .r svc with
      | .error _ => none
      | .ok pl => (s.getIpa p svc fuel (ipa + k) (n - k)).map (s.bytesAt pl.addr k ++ ·)

/-- `n` bytes at an IPA. -/
def State.ipaBytes (s : State) (p : Part) (ipa n : Nat) (svc : Bool := true) : Option (List Byte) :=
  s.getIpa p svc (n / 4096 + 2) ipa n

/-- The number in `n` bytes at an IPA. -/
def State.ipaNat (s : State) (p : Part) (ipa n : Nat) (svc : Bool := true) : Option Nat :=
  (s.ipaBytes p ipa n svc).map leNat

/-- Write bytes at an IPA through stage 2; a piece that does not translate is left out, and the answer says so. -/
def State.putIpaF (p : Part) (svc : Bool) : (fuel ipa : Nat) → List Byte → State → State × Bool
  | 0, _, _, s => (s, true)
  | fuel + 1, ipa, l, s =>
    if l.isEmpty then (s, true)
    else
      let k := 4096 - ipa % 4096
      match s.ipaPlace p ipa .w svc with
      | .error _ => (s, false)
      | .ok pl => State.putIpaF p svc fuel (ipa + k) (l.drop k) (s.putDev pl.addr (l.take k))

/-- Write bytes at an IPA. -/
def State.putIpa (s : State) (p : Part) (ipa : Nat) (l : List Byte) (svc : Bool := true) : State × Bool :=
  State.putIpaF p svc (l.length / 4096 + 2) ipa l s

/-- Is the IPA mapped by stage 2 with the permission (R136, R168, R180, R440)? A home that is down is still mapped. -/
def State.ipaMapped (s : State) (p : Part) (ipa : Nat) (acc : Acc) : Bool :=
  match s.ipaPlace p ipa acc with
  | .ok _ => true
  | .error e => e.nack

/-- The first IPA of a range that stage 2 does not map with R and W. -/
def State.unmapped (s : State) (p : Part) (ipa n : Nat) : Option Nat :=
  let first := ipa / 65536
  let pages := (below ((ipa + n - 1) / 65536 - first + 1)).map fun i => max ipa ((first + i) * 65536)
  if n = 0 then none else pages.find? fun a => !s.ipaMapped p a .rw

/-- Translate a virtual address without the choice of a cached entry, for the device's own accesses (R468). -/
def State.freshPlace (s : State) (p : Part) (ptbase : Word) (level : Level) (va : Word) (acc : Acc)
    (svc : Bool := true) : Except XErr Place :=
  if !canonical va || inAperture va then .error XErr.s1
  else match s.walkBoth p ptbase va.toNat acc (level = .app) svc with
    | .error e => .error e
    | .ok t => s.usePage p t va.toNat acc (level = .app) svc

/-- `n` bytes at a virtual address of an address space, in pieces; none if one does not translate. -/
def State.getVa (s : State) (p : Part) (ptbase : Word) (level : Level) :
    (fuel va n : Nat) → Option (List Byte)
  | 0, _, _ => some []
  | fuel + 1, va, n =>
    if n = 0 then some []
    else
      let k := min n (4096 - va % 4096)
      match s.freshPlace p ptbase level (wd va) .r with
      | .error _ => none
      | .ok pl => (s.getVa p ptbase level fuel (va + k) (n - k)).map (s.bytesAt pl.addr k ++ ·)

end Sys2Proof.Machine
end

