-- ==== Sys2Proof/Machine/Record.lean ====
section
/-! DEFINITION. The save record of a strand (R22, R164-R170): its layout, and the writing of what changes while the strand is
switched out. -/

namespace Sys2Proof.Machine

/-- Does a strand own vector state: that of the slot that holds it, or held last (R144, R164, R165)? -/
def State.vown (s : State) (t : Strand) : Bool :=
  match t.place with
  | some (c, k) => s.slots.any fun o => o.core = c && o.slot = k && o.uid = t.uid
  | none => s.slots.any fun o => o.uid = t.uid

/-- STATUS of a strand (R144). -/
def State.statusWord (s : State) (t : Strand) : Nat :=
  t.pl.num + (if t.ie then 4 else 0) + (if s.vown t then 8 else 0) + (if t.vheld then 16 else 0)

/-- VLEN (R144). -/
def Strand.vlenWord (t : Strand) : Nat := t.vl.toNat + t.gvl.toNat <<< 16
/-- VTYPE (R144). -/
def Strand.vtypeWord (t : Strand) : Nat := t.vtag.toNat + vlmax t.vtag.toNat <<< 16

/-- The status code of a final or pending ticket (R23). -/
def TStat.code : TStat → Nat
  | .pending => 0
  | .done => 1
  | .fault => 2
  | .reset => 3

/-- The ticket of a slot (R22). -/
def Slot.ticket (x : Slot) (i : Nat) : Nat :=
  i + x.seq.toNat <<< 6 + x.kind <<< 22 + x.queue <<< 26 + x.index <<< 30

/-- The dword at 0x1_01A0 of a save record (R169). -/
def Strand.miscWord (t : Strand) : Nat :=
  t.kpend.toNat + t.mstack.length <<< 8 + t.vq.length <<< 13 + (if t.vtrap.isSome then 2 ^ 20 else 0) +
    (if t.mark then 2 ^ 21 else 0)

/-- One saved port (R169); the error marks of its words (R313) have no place in the record. -/
def portImage (q : List (Word × Bool)) : List Byte :=
  leBytes 8 q.length ++ (below 16).flatMap fun i => leBytes 8 (nth q i (0, false)).1.toNat

/-- One saved slot of the call table (R169). -/
def slotImage (i : Nat) (o : Option Slot) : List Byte :=
  match o with
  | none => leBytes 16 0
  | some x => leBytes 8 (x.ticket i + x.stat.code <<< 60 + 2 ^ 63) ++ leBytes 8 (if x.stat = .fault then x.record.toNat else 0)

/-- The pieces of a save record that a switch-out writes, by offset from 0x1_0000 (R164, R169). -/
def State.scalarImage (s : State) (t : Strand) : List (Nat × List Byte) :=
  let d := fun (l : List Nat) => l.flatMap (leBytes 8)
  [(0, d ((t.s.toList.map BitVec.toNat).set 0 0)),
   (0x100, d [t.pc.toNat, s.statusWord t, t.vlenWord, t.vtypeWord]),
   (0x130, d [t.fflags.toNat, t.frm.toNat, t.porten.toNat]),
   (0x148, d (t.routes.toList.map BitVec.toNat)),
   (0x168, d [t.bartimeout.toNat, t.cycle.toNat, t.asid.toNat, t.ptbase.toNat,
     t.spoison.toNat + t.kpoison.toNat <<< 32]),
   (0x1A0, d [t.miscWord]),
   (0x1B8, d [t.wdog.toNat, t.sup.pc.toNat, t.sup.cause.toNat, t.sup.val.toNat, t.sup.vec.toNat, t.sup.vpc.toNat]),
   (0x240, t.ports.toList.flatMap portImage),
   (0x480, (t.calls.zipIdx).flatMap fun (o, i) => slotImage i o)]

/-- One held entry (R169). -/
def VEntry.image (e : VEntry) : List Byte :=
  leBytes 4 e.w1.toNat ++ leBytes 4 e.w2.toNat ++ leBytes 8 e.pc.toNat ++ leBytes 8 e.x1.toNat ++ leBytes 8 e.x2.toNat

/-- The pieces of a save record that a forced save writes (R166, R169). -/
def vectorImage (t : Strand) : List (Nat × List Byte) :=
  let d := fun (l : List Nat) => l.flatMap (leBytes 8)
  [(0x110, d [t.vlenWord, t.vtypeWord, t.vstart.toNat, t.vcommit.toNat]),
   (0x188, d [t.spoison.toNat + t.kpoison.toNat <<< 32, t.vpoison.toNat, t.vpend.toNat, t.miscWord]),
   (0x1A8, d [(t.vtrap.map VTrap.cause).getD 0, ((t.vtrap.map VTrap.val).getD 0).toNat]),
   (0x200, leBytes 32 ((t.tags.toList.zipIdx.map fun (x, i) => x.toNat <<< (4 * i)).foldl (· + ·) 0)),
   (0x220, t.lanes.toList.map (·.setWidth 8)),
   (0x880, t.vq.flatMap VEntry.image),
   (0x1080, (below 7).flatMap fun i => leBytes 256 (t.kreg (i + 1)).toNat),
   (0x1780, t.mstack.flatMap fun m => leBytes 256 m.toNat)]

/-- What lies in service memory, by offset and size (R446): the monitor, HYP memory, policy and trap images, saved banks. -/
def State.svcRanges (s : State) : List (Nat × Nat) :=
  [(0, s.monImage.length), (s.fwbase.toNat * 65536, s.hypSize)] ++
  s.policies.map (fun x => (x.imageAt, x.image.length)) ++ s.parts.map (fun p => (p.imageAt, p.image.length)) ++
  (s.strands.filterMap (·.bankAt)).map fun a => (a, 128)

/-- Room for `n` bytes in service memory, none if there is none: the highest multiple of 64 (DESIGN CHOICE, log 81). -/
def State.svcRoom (s : State) (n : Nat) : Option Nat :=
  let ok := fun (a : Nat) => s.svcRanges.all fun (b, m) => m = 0 || a + n ≤ b || b + m ≤ a
  let ends := (2 ^ 27 :: s.svcRanges.map Prod.fst).filter (n ≤ ·)
  ((ends.map fun e => (e - n) / 64 * 64).filter ok).foldl (fun best a => some (max a (best.getD 0))) none

/-- The HYP and MON banks and VBACK of a strand as service memory holds them (R164). -/
def bankImage (t : Strand) : List Byte :=
  let d := fun (b : Bank) => [b.pc, b.cause, b.val, b.vec, b.vpc, b.ipa.setWidth 64]
  (d t.hyp ++ d t.mon ++ [t.vback]).flatMap fun x => leBytes 8 x.toNat

/-- The HYP and MON banks and VBACK of a strand that is switched out go to service memory (R164, R446); where there is no room for
them they stay as they are (log 81). -/
def State.saveBanks (s : State) (uid : Nat) : State :=
  match s.strand? uid, s.svcRoom 128 with
  | some t, some a => (s.putDev (svcAt a) (bankImage t)).modStrand uid fun t => { t with bankAt := some a }
  | _, _ => s

/-- On resumption they come back (R164). -/
def State.loadBanks (s : State) (uid : Nat) : State :=
  match (s.strand? uid).bind (·.bankAt) with
  | none => s
  | some a =>
    let x := fun (i : Nat) => wd (s.natAt (svcAt (a + 8 * i)) 8)
    let bank := fun (i : Nat) => (⟨x i, x (i + 1), x (i + 2), x (i + 3), x (i + 4), (x (i + 5)).setWidth 48⟩ : Bank)
    s.modStrand uid fun t => { t with hyp := bank 0, mon := bank 6, vback := x 12, bankAt := none }

/-- Write pieces of a strand's save record (R168: the area's translation is pinned). -/
def State.writeRecord (s : State) (t : Strand) (l : List (Nat × List Byte)) : State :=
  match t.owner.pid?.bind s.part? with
  | none => s
  | some p => l.foldl (fun s (o, b) => (s.putIpa p (t.slotIpa 64 + o) b false).1) s

/-- The save record of a switched-out strand follows what an engine's result, an ended call or a queued entry changes in it (R31,
R170); that of a resident strand the device does not write. -/
def State.resave (s : State) (uid : Nat) : State :=
  match s.strand? uid with
  | none => s
  | some t =>
    if !t.live || t.place.isSome || !bit t.vback.toNat 0 then s
    else s.writeRecord t (s.scalarImage t ++ if t.vsaved then vectorImage t else [])

end Sys2Proof.Machine
end

