-- ==== Sys2Proof/Machine/Calls.lean ====
section
/-! DEFINITION. Returns and ends of engine calls (R22-R36), semaphores (R328), scheduler requests (R195) and completion
words (R187, R188, R468). -/

namespace Sys2Proof.Machine

/-- Set bit `i` of a word to a value. -/
def setBit {w : Nat} (x : BitVec w) (i : Nat) (b : Bool) : BitVec w :=
  if b then x ||| BitVec.ofNat w (2 ^ i) else x &&& ~~~(BitVec.ofNat w (2 ^ i))

/-- Is the data of a register in a physical slot (R246)? -/
def Res.inSlot : Res → Bool
  | .rzero => true
  | .clean => true
  | .dirty => true
  | _ => false

/-- Write a register's data, in its slot or to its backing slot (R31, R246). With VBACK.V = 0 there is no backing slot for one that is not
resident: it becomes resident and dirty beside the others, also beyond the 128 slots of its core (DESIGN CHOICE, log 86). -/
def State.setVData (s : State) (uid r : Nat) (x : VBits) : State :=
  let s := s.modStrand uid fun t => { t with v := t.v.setIfInBounds r x }
  match s.strand? uid with
  | none => s
  | some t =>
    if (t.vres r).inSlot then s.modStrand uid fun t => { t with res := t.res.setIfInBounds r .dirty }
    else match t.owner.pid?.bind s.part? with
      | none => s.modStrand uid fun t => { t with res := t.res.setIfInBounds r .dirty }
      | some p =>
        if !bit t.vback.toNat 0 then s.modStrand uid fun t => { t with res := t.res.setIfInBounds r .dirty }
        else (s.putIpa p (t.slotIpa r) (leBytes 1024 x.toNat) false).1.modStrand uid
          fun t => { t with res := t.res.setIfInBounds r .backed }

/-- An engine's result for a return vector register: data and tag; it leaves the pending state (R31). -/
def State.returnV (s : State) (uid r : Nat) (x : VBits) (tag : Nat) : State :=
  (s.setVData uid r x).modStrand uid fun t => { t with
    tags := t.tags.setIfInBounds r (BitVec.ofNat 4 tag)
    vpoison := setBit t.vpoison r false
    vpend := setBit t.vpend r false }

/-- An engine's result for a return mask register (R31). -/
def State.returnK (s : State) (uid r : Nat) (x : MBits) : State :=
  s.modStrand uid fun t => { t with
    k := t.k.setIfInBounds r x
    kpoison := setBit t.kpoison r false
    kpend := setBit t.kpend r false }

/-- The return registers of a call that ends FAULT or RESET are written with poison (R31). -/
def State.poisonReturns (s : State) (c : Call) : State :=
  let s := c.rets.foldl (fun s r => s.modStrand c.uid fun t => { t with
    vpoison := setBit t.vpoison r true, vpend := setBit t.vpend r false }) s
  match c.rk with
  | none => s
  | some r => s.modStrand c.uid fun t => { t with
      kpoison := setBit t.kpoison r true, kpend := setBit t.kpend r false }

/-- A fault record (R25): code, kind, queue, address. -/
def faultRecord (code kind queue : Nat) (va : Nat) : Word :=
  wd (code + kind <<< 8 + queue <<< 12 + (va / 65536) <<< 16)

/-- Does an engine sit in each cluster (R16)? -/
def perCluster (kind : Nat) : Bool := kind < 3

/-- The physical engine of a logical index for a context: cluster 8 · bulkhead + row, or bulkhead. A cluster to which the
map names no core keeps its place number as row (DEDUCED, log 17). -/
def State.engOf (s : State) (p : Part) (ctx kind index : Nat) : Nat :=
  if perCluster kind then
    match (below 8).findSome? fun i => (p.coreAt ctx (8 * index + i)).bind s.coreCluster with
    | some c => c
    | none => 8 * p.bh (index / 8) + index % 8
  else p.bh index

/-- The logical clusters whose scratch the record of a transfer names as an operand (R343, R345). -/
def Call.scratchClusters (c : Call) (n : Nat) : List Nat :=
  let r := c.record.toNat
  let at' := fun (x : Nat) => if x = 0xFFF then c.pos / 8 else x
  (if bit r 28 then [at' (bits r 16 12)] else []) ++
  (if !bit r 44 then []
    else if bits r 0 4 = 3 then (those 8 fun i => bit r (384 + i)).map fun i => (at' (bits r 32 12) + i * bits r 392 12) % n
    else [at' (bits r 32 12)])

/-- Does a pending call use scratch of its launch in a cluster (R330, R345)? -/
def State.usesScratch (s : State) (c : Call) (cluster : Nat) : Bool :=
  if c.kind = 0 then c.eng = cluster
  else c.kind = 1 && (s.part? c.pid).any fun p => (c.scratchClusters (8 * p.nb)).any fun n => s.engOf p c.ctx 1 n = cluster

/-- Free the stash splits of launches that have no live strand in the cluster and no call that uses its scratch (R186, R303, R330, R342,
R345); full bits and contents are cleared when the units are next taken (R114). -/
def State.freeSplits (s : State) : State :=
  { s with splits := s.splits.filter fun x =>
      (s.strands.any fun t => t.live && t.owner.lid = x.lid && t.clu = x.cluster) ||
      (s.calls.any fun c => c.lid = x.lid && s.usesScratch c x.cluster) }

/-- The call leaves its engine and its slot takes a final status; the completion mark is set (R23, R220). Nothing races with it
any more, a split that only it kept is free (R330), and the record of a switched-out strand follows (R31). -/
def State.settleCall (s : State) (c : Call) (st : TStat) (rc : Word) : State :=
  let upd := fun (o : Option Slot) => match o with
    | some x => if x.seq = c.seq then some { x with stat := st, record := rc } else some x
    | none => none
  let s := { s with calls := s.calls.filter (·.id != c.id), raced := s.raced.filter (·.cid != c.id) }.freeSplits
  (s.modStrand c.uid fun t => if t.live then { t with calls := t.calls.modify c.slot upd, mark := true } else t).resave c.uid

/-- DONE (R23). -/
def State.callDone (s : State) (c : Call) : State := s.settleCall c .done 0

/-- FAULT with a code and the address, 0 where there is none (R25, R26). -/
def State.callFault (s : State) (c : Call) (code va : Nat) : State :=
  (s.poisonReturns c).settleCall c .fault (faultRecord code c.kind c.queue va)

/-- RESET (R36). -/
def State.callReset (s : State) (c : Call) : State := (s.poisonReturns c).settleCall c .reset 0

/-- How far a token is ahead of the next one of a slot (R377). -/
def RbeSlot.ahead (x : RbeSlot) (t : BitVec 32) : Nat := (t - x.next).toNat

/-- NEXT passes the cancelled tokens (R377). -/
def RbeSlot.skip : (fuel : Nat) → RbeSlot → RbeSlot
  | 0, x => x
  | fuel + 1, x =>
    if x.cancelled.contains x.next then
      RbeSlot.skip fuel { x with next := x.next + 1, cancelled := x.cancelled.filter (· != x.next) }
    else x

/-- A slot with NEXT moved: it passes what is cancelled, and the gap timer restarts (R377, R379). -/
def RbeSlot.moveTo (x : RbeSlot) (now : Nat) (t : BitVec 32) : RbeSlot :=
  let y := RbeSlot.skip (x.cancelled.length + 1) { x with next := t }
  { y with timer := x.timer.map fun _ => now }

/-- A token of a slot is cancelled (R34, R378): NEXT moves if it was the next. -/
def RbeSlot.cancelTok (x : RbeSlot) (now : Nat) (t : BitVec 32) : RbeSlot :=
  let y := { x with cancelled := t :: x.cancelled, waiting := x.waiting.filter (·.token != t) }
  if x.next = t then y.moveTo now t else y

/-- Change a slot of a tile store. -/
def State.modRbe (s : State) (eng slot : Nat) (f : RbeSlot → RbeSlot) : State :=
  { s with rbe := s.rbe.map fun x => if x.eng = eng && x.slot = slot then f x else x }

/-- An open slot of a tile store. -/
def State.rbeSlot? (s : State) (eng slot : Nat) : Option RbeSlot := s.rbe.find? fun x => x.eng == eng && x.slot == slot

/-- Element `e` of 32 bits of a record register. -/
def Call.word (c : Call) (r e : Nat) : Nat :=
  if c.vl ≤ e then 0 else elem 32 e (((c.regs[r]?).map (·.bits.toNat)).getD 0)

/-- A fragment batch that is discarded by a reset cancels its token (R34, R378): another batch that waits with it ends FAULT
0x19. -/
def State.discardToken (s : State) (c : Call) : State :=
  let t := BitVec.ofNat 32 (c.word 0 0)
  match s.rbeSlot? c.eng (bits (c.word 0 1) 8 5) with
  | none => s
  | some x =>
    if c.kind = 4 && c.queue = 1 && x.pid = c.pid && x.ctx = c.ctx && x.seq = bits (c.word 0 1) 0 8 && x.ahead t < 2 ^ 31 &&
        !x.cancelled.contains t then
      ((x.waiting.filter fun w => w.token = t && w.call.id != c.id).foldl (fun s w => s.callFault w.call 0x19 0) s).modRbe
        x.eng x.slot fun x => x.cancelTok s.time.toNat t
    else s

/-- A field of a launch record (R183): bits [lo + n - 1 : lo] of its 64 bytes. -/
def recBits (r : BitVec 512) (lo n : Nat) : Nat := bits r.toNat lo n

/-- The output regions and the work area of a sort (R357, R358), by its record: address and length. -/
def sortRegions (r : BitVec 512) : List (Nat × Nat) :=
  let ks := nth [2, 4, 8, 8] (recBits r 6 2) 8
  let vs := 4 * recBits r 8 2
  let n := recBits r 64 32
  if 2 ^ 30 < n then []
  else [(recBits r 256 64, n * ks), (recBits r 320 64, n * vs), (recBits r 384 64, (n * (ks + vs) + 63) / 64 * 64)]

/-- A sort that ends RESET leaves its outputs and its work area unspecified, where they translate, also on a bulkhead that is in reset
(R362, R366; log 7). -/
def State.spoilSort (s : State) (c : Call) : State :=
  match s.part? c.pid with
  | none => s
  | some p =>
    if c.kind != 3 then s
    else (sortRegions c.record).foldl (fun s (a, n) => loop n (fun i s =>
      match s.freshPlace p c.ptbase c.level (wd (a + i)) .w with
      | .ok pl => s.putDev pl.addr [BitVec.ofNat 8 (Config.free s.tick (2 ^ 50 + pl.addr))]
      | .error _ => s) s) s

/-- Every call that satisfies `p` ends RESET, and with it the lanes it collects and the tokens it holds. -/
def State.resetCalls (s : State) (p : Call → Bool) : State :=
  let gone := s.calls.filter p
  let s := gone.foldl State.spoilSort s
  let s := gone.foldl State.discardToken (gone.foldl State.callReset s)
  { s with laneRes := s.laneRes.filter fun l => !gone.any (·.id == l.cid) }

/-- The count of a semaphore (R328). -/
def Part.sem (p : Part) (n : Nat) : Nat := ((p.sems.find? (·.1 == n)).map (·.2)).getD 0

/-- Set the count of a semaphore. -/
def Part.setSem (p : Part) (n c : Nat) : Part :=
  { p with sems := (if c = 0 then [] else [(n, c)]) ++ p.sems.filter (·.1 != n) }

/-- A signal: count := min(max(count + b, 0), 2^64 − 1) (R329). -/
def Part.signal (p : Part) (n : Nat) (b : Int) : Part :=
  p.setSem n (min (max ((p.sem n : Int) + b) 0).toNat (2 ^ 64 - 1))

/-- Raise a scheduler request: at most 64 are held, a further one is dropped and leaves the lost mark (R156, R195). -/
def State.request (s : State) (pid : Nat) (val : Nat) (ctx : Option Nat := none) : State :=
  s.modPart pid fun p =>
    if p.reqs.length < 64 then { p with reqs := p.reqs ++ [⟨wd val, ctx⟩] } else { p with reqLost := true }

/-- The place of a virtual address for the device's write of a launch's completion word (R185, R468): the scratch aperture has none. -/
def State.cwAt (s : State) (l : Launch) (va : Nat) : Option Place :=
  match s.part? l.pid with
  | none => none
  | some p => (s.freshPlace p (p.space l.ctx).2 l.level (wd va) .rw).toOption

/-- The place of a launch's completion word. -/
def State.cwPlace (s : State) (l : Launch) : Option Place := s.cwAt l (recBits l.record 320 64)

/-- The bytes of a launch's completion word: two ranges where a misaligned one of a record that is refused crosses a page; none if one
does not translate. -/
def State.cwRanges (s : State) (l : Launch) : Option (List (Nat × Nat)) :=
  (pieces 4096 2 (recBits l.record 320 64) 8).mapM fun (a, k) => (s.cwAt l a).map fun pl => (pl.addr, k)

/-- Write bytes over ranges that follow each other. -/
def State.putRanges (s : State) : List (Nat × Nat) → List Byte → State
  | [], _ => s
  | (a, k) :: t, l => (s.putDev a (l.take k)).putRanges t (l.drop k)

/-- Write a launch's completion word through its context; false: the write failed (R185, R468). -/
def State.writeCw (s : State) (l : Launch) (f : Nat → Nat) : State × Bool :=
  match s.cwRanges l with
  | none => (s, false)
  | some r => (s.putRanges r (leBytes 8 (f (leNat (r.flatMap fun (a, k) => s.bytesAt a k)))), true)

/-- Write a completion word; a failed write raises scheduler request 0x01 (R185, R195). A supervisor launch has no queue and no
ring index: the request says 0 for both (DESIGN CHOICE, log 78). -/
def State.cwOrRequest (s : State) (l : Launch) (f : Nat → Nat) : State :=
  match s.writeCw l f with
  | (s, true) => s
  | (s, false) => s.request l.pid (1 + (l.queue.getD 0) <<< 8 + (l.index % 2 ^ 32) <<< 16)

/-- A completion word (R187). -/
def cwWord (st flags reason count : Nat) : Nat := st + flags <<< 8 + reason <<< 16 + count <<< 32

/-- Signal of a launch that is DONE (R189). -/
def State.signalDone (s : State) (l : Launch) : State :=
  if recBits l.record 412 1 = 1 then
    s.modPart l.pid fun p => p.signal (recBits l.record 400 12) (recBits l.record 496 16)
  else s

/-- Change a launch. -/
def State.modLaunch (s : State) (id : Nat) (f : Launch → Launch) : State :=
  { s with launches := s.launches.map fun l => if l.id = id then f l else l }

/-- The launch of a name. -/
def State.launch? (s : State) (id : Nat) : Option Launch := s.launches.find? (·.id == id)

end Sys2Proof.Machine
end

