-- ==== Sys2Proof/Machine/Kill.lean ====
section
/-! DEFINITION. Removing strands and killing fault domains (R36, R171, R179, R222, R303, R327, R405, R412, R415). -/

namespace Sys2Proof.Machine

/-- Discard the work that is bound to a strand: ray sets, collections, its pending traces and replies, and its calls on the
reorder unit (R32, R405). -/
def State.dropBound (s : State) (uid : Nat) : State :=
  let s := s.resetCalls fun c => c.uid = uid && (c.kind = 5 && c.queue ≤ 1 || c.kind = 6)
  { s with
    raysets := s.raysets.filter (·.uid != uid)
    colls := s.colls.filter (·.uid != uid) }

/-- A strand that is gone reads nothing: only its core's other strands and the engines may still miss its stores. -/
def State.forgetStores (s : State) (uid : Nat) : State :=
  s.reveal fun x => if x.uid != uid then x.hid else x.hid.filter fun v => match v with
    | .sibS _ => true
    | .sibV _ => true
    | .engines _ => true
    | .calls _ _ => true
    | _ => false

/-- A barrier without the AWP and marked memberships of a participant (R327). -/
def Barrier.forget (b : Barrier) (q : Nat × Nat) : Barrier :=
  { b with awp := b.awp.filter (· != q), marked := b.marked.filter (· != q) }

/-- A strand that has ended: nothing of it is left but its name. -/
def Strand.ended (t : Strand) : Strand :=
  { Strand.fresh t.uid t.owner with clu := t.clu, pc := t.pc }

/-- Remove a strand: its slot, its vector state, its words, its memberships (R222, R179). -/
def State.removeStrand (s : State) (uid : Nat) : State :=
  match s.strand? uid with
  | none => s
  | some t =>
    let s := (s.dropBound uid).forgetStores uid
    let s := { s with
      slots := s.slots.filter (·.uid != uid)
      others := s.others.filter (·.uid != uid)
      me := if s.me.uid = uid then t.ended else s.me }
    let s := match t.owner.pid? with
      | none => s
      | some pid => s.modPart pid fun p => { p with
          parked := p.parked.filter (·.uid != uid)
          bars := p.bars.map fun (b : Barrier) => b.forget (t.pos, t.num.toNat) }
    s.freeSplits

/-- Is something of a context and a queue RCB under the subtree of a root (0: the partition)? -/
def under (root ctx rcb : Nat) : Bool := root = 0 || ctx = root || rcb = root

/-- Is the strand under the subtree of a root of a partition? -/
def Strand.under (t : Strand) (pid root : Nat) : Bool :=
  match t.owner with
  | .part p c r _ => p = pid && Machine.under root c r
  | _ => false

/-- Free what engines hold for a context, or for the whole partition (R383, R412). -/
def State.dropContext (s : State) (pid root : Nat) : State :=
  let mine := fun (p c : Nat) => p = pid && (root = 0 || c = root)
  { s with
    rbe := s.rbe.filter fun x => !mine x.pid x.ctx
    binds := s.binds.filter fun x => !mine x.pid x.ctx
    rsids := s.rsids.filter fun (_, p, c, _) => !mine p c
    raysets := s.raysets.filter fun x => !mine x.pid x.ctx
    colls := s.colls.filter fun x => !mine x.pid x.ctx }

/-- Kill the subtree of an RCB of a partition (R179): `root` is its IPA, 0 for the partition RCB; `reason` is the cause
code, 0 for RCBCTL KILL. A record already taken that still waits ends KILLED like one in its queue. -/
def State.kill (s : State) (pid root reason : Nat) : State :=
  let s := s.resetCalls fun c => c.pid = pid && under root c.ctx c.rcb
  let s := s.dropContext pid root
  let hit := s.launches.filter fun l => l.pid = pid && under root l.ctx l.rcb &&
    (l.stat = .started || (l.stat = .waiting && l.queue.isSome))
  let why := fun (l : Launch) => if l.stat = .started then reason else 0
  let s := hit.foldl (fun s l =>
    (s.cwOrRequest l fun w => cwWord 4 (bits w 8 5) (why l) l.left).modLaunch l.id fun l => { l with stat := .final }) s
  let s := ((s.strands.filter fun t => t.live && t.under pid root).map (·.uid)).foldl State.removeStrand s
  let s := s.modPart pid fun p =>
    if root = 0 then { p with killed := true }
    else { p with rcbs := p.rcbs.map fun r => if r.ipa = root then { r with killed := true } else r }
  s.request pid (3 + (root / 128) <<< 16)

/-- The root of a strand's fault domain: the nearest RCB at or above its queue RCB with FD = 1 (R179). -/
def Part.domain (p : Part) (ctx rcb : Nat) : Nat :=
  let fd := fun ipa => match p.rcb? ipa with
    | some r => bit r.bits.toNat 3
    | none => false
  if fd rcb then rcb else if fd ctx then ctx else 0

/-- Kill the fault domain of a strand (R150, R249). A service strand belongs to none: it stops. -/
def State.killDomain (s : State) (uid reason : Nat) : State :=
  match s.strand? uid with
  | none => s
  | some t =>
    match t.owner with
    | .part pid ctx rcb _ =>
      match s.part? pid with
      | none => s.removeStrand uid
      | some p => s.kill pid (p.domain ctx rcb) reason
    | _ => s.removeStrand uid

end Sys2Proof.Machine
end

