-- ==== Sys2Proof/Machine/Save.lean ====
section
/-! DEFINITION. Sums in a free order (R64, R274, R280), open tiles (R243), residency of vector registers (R246-R249), and
saving a strand's state to its save area (R164-R169). -/

namespace Sys2Proof.Machine

/-- a + b in a tag's format: rounded for a float, modulo 2^w for an integer (R274). -/
def tagAdd (tag rm a b : Nat) : FRes :=
  match fmtOfTag tag with
  | some f => fAdd f rm a b
  | none => ((a + b) % 2 ^ widthOf tag, 0)

/-- a × b + c in a tag's format (R279). -/
def tagFma (tag rm a b c : Nat) : FRes :=
  match fmtOfTag tag with
  | some f => fFma f rm a b c false false
  | none => ((a * b + c) % 2 ^ widthOf tag, 0)

/-- A term of a sum: a value, or a product not yet rounded; and the modes of the entries that contributed (R280). -/
structure Term where
  prod : Bool
  a : Nat
  b : Nat
  rms : List Nat
  deriving DecidableEq, Repr

/-- A product rounded once (R280). -/
def Term.round (tag : Nat) (t : Term) : Term × FSet :=
  if t.prod then
    let (x, f) := match fmtOfTag tag with
      | some f => fMul f (nth t.rms 0 0) t.a t.b
      | none => (t.a * t.b % 2 ^ widthOf tag, 0)
    (⟨false, x, 0, t.rms⟩, f)
  else (t, 0)

/-- Two terms added: at most one product is fused into the addition; the mode is one of the contributors' (R280). -/
def addTerms (tag : Nat) (x y : Term) : M (Term × FSet) := do
  let (y, f0) := y.round tag
  let rms := x.rms ++ y.rms
  let rm := nth rms (← freeBelow rms.length) 0
  let fuse ← if x.prod then freeBool else pure false
  if fuse then
    let (v, f) := tagFma tag rm x.a x.b y.a
    return (⟨false, v, 0, rms⟩, f0 ||| f)
  else
    let (x, f1) := x.round tag
    let (v, f) := tagAdd tag rm x.a y.a
    return (⟨false, v, 0, rms⟩, f0 ||| f1 ||| f)

/-- The sum of terms in an order and grouping that are free: while two are left, two of them are added. -/
def freeSum (tag : Nat) : (fuel : Nat) → List Term → M (Nat × FSet)
  | 0, l => return (((l.head?.getD ⟨false, 0, 0, []⟩).round tag).1.a, 0)
  | fuel + 1, l => do
    if l.length ≤ 1 then
      let (t, f) := (l.head?.getD ⟨false, 0, 0, []⟩).round tag
      return (t.a, f)
    let i ← freeBelow l.length
    let x := nth l i ⟨false, 0, 0, []⟩
    let l := l.eraseIdx i
    let j ← freeBelow l.length
    let y := nth l j ⟨false, 0, 0, []⟩
    let (z, f) ← addTerms tag x y
    let (v, g) ← freeSum tag fuel (z :: l.eraseIdx j)
    return (v, f ||| g)

/-- OR flags into lane set `e mod 32` of a strand (R59). -/
def Strand.laneOr (t : Strand) (e : Nat) (f : FSet) : Strand :=
  if f = 0 then t else { t with lanes := t.lanes.setIfInBounds (e % 32) (t.lanes.toList.getD (e % 32) 0 ||| f) }

/-- Merge an open tile of a strand into its registers, in a free order, and close it (R243, R280). -/
def mergeTile (uid base : Nat) : M Unit := do
  match (← get).strand? uid with
  | none => pure ()
  | some t =>
    match t.tiles.find? (·.base == base) with
    | none => pure ()
    | some o =>
      let tag := t.vtagOf base
      let w := widthOf tag
      for i in below 8 do
        for j in below (8192 / w) do
          let ps := o.parts.filter fun p => p.act.getLsbD j
          if !ps.isEmpty then
            let x := ((← get).strand? uid).elim 0 fun t => (t.vreg (base + i)).toNat
            let terms := ⟨false, elem w j x, 0, []⟩ ::
              ps.map fun p => ⟨true, nth p.rows i 0, elem w j p.cols.toNat, [p.frm.toNat]⟩
            let (v, f) ← freeSum tag terms.length terms
            modify fun s => s.modStrand uid fun t =>
              { (t.laneOr j f) with v := t.v.setIfInBounds (base + i) (BitVec.ofNat 8192 (setElem w j v x)) }
        modify fun s => s.modStrand uid fun t =>
          if (t.vres (base + i)).inSlot then { t with res := t.res.setIfInBounds (base + i) .dirty } else t
      modify fun s => s.modStrand uid fun t => { t with tiles := t.tiles.filter (·.base != base) }

/-- Merge the open tile that a register belongs to, if any (R243). -/
def mergeFor (uid r : Nat) : M Unit := do
  match (← get).strand? uid with
  | none => pure ()
  | some t => if t.tiles.any (·.base == r / 8 * 8) then mergeTile uid (r / 8 * 8)

/-- A dirty register is written to its backing slot; afterwards its data is only there, or was never written (R246). -/
def State.evict (s : State) (uid r : Nat) : State :=
  match s.strand? uid with
  | none => s
  | some t =>
    let after : Res := if t.vres r = .rzero then .zero else .backed
    let s := match t.vres r, t.owner.pid?.bind s.part? with
      | .dirty, some p => (s.putIpa p (t.slotIpa r) (leBytes 1024 (t.vreg r).toNat) false).1
      | _, _ => s
    s.modStrand uid fun t => { t with res := t.res.setIfInBounds r after }

/-- A forced save of a strand's vector state (R166). Without a save area it kills the fault domain (R249). -/
def forceSave (uid : Nat) : M Unit := do
  match (← get).strand? uid with
  | none => modify fun s => { s with slots := s.slots.filter (·.uid != uid) }
  | some t =>
    if !bit t.vback.toNat 0 then modify fun s => s.killDomain uid 0x0A
    else
      for o in t.tiles do
        mergeTile uid o.base
      modify fun s => (below 64).foldl (fun s r =>
        match s.strand? uid with
        | some t => if (t.vres r).inSlot then s.evict uid r else s
        | none => s) s
      modify fun s =>
        let s := match s.strand? uid with
          | some t => s.writeRecord t (vectorImage t)
          | none => s
        { s.modStrand uid fun t => { t with vsaved := true } with slots := s.slots.filter (·.uid != uid) }

/-- The executing strand takes over the vector state of its slot, after a forced save of the owner (R165). -/
def takeVector : M Unit := do
  let s ← get
  if s.vown s.me then return
  match s.me.place with
  | none => pure ()
  | some (c, k) =>
    match s.slots.find? fun o => o.core = c && o.slot = k with
    | some o => forceSave o.uid
    | none => pure ()
    if !(← me).live then stallKeep
    modify fun s => { s with
      slots := ⟨c, k, s.me.uid⟩ :: s.slots.filter fun o => !(o.core = c && o.slot = k)
      me := { s.me with vsaved := false } }

/-- The number of physical slots that a strand holds (R247). -/
def Strand.held (t : Strand) : Nat := (t.res.toList.filter Res.inSlot).length

/-- The strands whose vector state is on a core. -/
def State.onCore (s : State) (c : CoreId) : List Strand :=
  s.strands.filter fun t => s.slots.any fun o => o.core = c && o.uid = t.uid

/-- The register of a strand with the oldest stamp that is in a slot and not named, lowest number first (R247 step 4). -/
def Strand.victim (t : Strand) (named : List Nat) : Option Nat :=
  let cs := (below 64).filter fun r => (t.vres r).inSlot && !named.contains r
  cs.foldl (fun best r => match best with
    | none => some r
    | some b => if (t.stamp.toList.getD r 0).toNat < (t.stamp.toList.getD b 0).toNat then some r else some b) none

/-- Take a slot from a strand: the victim's tile is merged, its data written back if dirty (R243, R247). False: that
write needs a backing area and there is none (R249). Where the victim is another strand's, its own VBACK counts, since its data goes to
its own area; the fault is the needing entry's all the same, with the register that it brings in (DESIGN CHOICE, log 86). -/
def takeSlot (uid : Nat) (named : List Nat) : M Bool := do
  match (← get).strand? uid with
  | none => return true
  | some t =>
    match t.victim named with
    | none => return false
    | some r =>
      mergeFor uid r
      match (← get).strand? uid with
      | none => return true
      | some t =>
        if t.vres r = .dirty && !bit t.vback.toNat 0 then return false
        modify fun s => s.evict uid r
        return true

/-- Find a free physical slot on the executing strand's core (R247 steps 1-4). Which switched-out owner is saved at step 2, and
which strand gives at step 3, the spec leaves open: free choices (log 79). -/
def freeSlot (named : List Nat) : M Bool := do
  let s ← get
  match s.coreOf s.me with
  | none => return true
  | some c =>
    let on := s.onCore c
    if (on.map Strand.held).foldl (· + ·) 0 < 128 then return true
    let outs := on.filter fun t => t.uid != s.me.uid && t.place.isNone && 0 < t.held
    let window := fun (t : Strand) => (t.vq.take 1).flatMap (·.names t)
    let rich := on.filter fun t => t.uid != s.me.uid && 16 < t.held && (t.victim (window t)).isSome
    match outs[← freeBelow outs.length]? with
    | some t =>
      forceSave t.uid
      return true
    | none =>
      let givers := if s.me.held < 16 then rich else []
      match givers[← freeBelow givers.length]? with
      | some t => takeSlot t.uid (window t)
      | none => takeSlot s.me.uid named

/-- Make a register of the executing strand resident (R246, R247). False: register backing fault (R249), which names this register also
where the write of a victim is what lacks an area (DESIGN CHOICE, log 86). -/
def makeResident (r : Nat) (named : List Nat) : M Bool := do
  let t ← me
  if (t.vres r).inSlot then return true
  if t.vres r = .backed && !bit t.vback.toNat 0 then return false
  if !(← freeSlot named) then return false
  let s ← get
  let t := s.me
  match t.vres r with
  | .backed =>
    match t.owner.pid?.bind s.part? with
    | none => modMe fun t => { t with res := t.res.setIfInBounds r .clean }
    | some p =>
      let data := (s.ipaBytes p (t.slotIpa r) 1024 false).getD []
      let bad := match s.ipaPlace p (t.slotIpa r) .r with
        | .ok pl => s.badAt pl.addr 1024
        | .error _ => false
      modMe fun t => { t with
        v := t.v.setIfInBounds r (BitVec.ofNat 8192 (leNat data))
        vpoison := if bad then setBit t.vpoison r true else t.vpoison
        res := t.res.setIfInBounds r .clean }
  | _ => modMe fun t => { t with res := t.res.setIfInBounds r .rzero }
  return true

end Sys2Proof.Machine
end

