-- ==== Sys2Proof/Machine/Ops.lean ====
section
/-! DEFINITION. The shared operations of every meaning: taking a trap and returning from one (R147-R160), fetching,
the checks of privilege, features and service strands (R98, R99, R467), and running a meaning to its outcome. -/

namespace Sys2Proof.Machine

/-- The trap bank of a level; APP has none and shows the SUP bank. -/
def Strand.bank (t : Strand) : Level → Bank
  | .hyp => t.hyp
  | .mon => t.mon
  | _ => t.sup

/-- Replace the trap bank of a level. -/
def Strand.setBank (t : Strand) (l : Level) (b : Bank) : Strand :=
  match l with
  | .hyp => { t with hyp := b }
  | .mon => { t with mon := b }
  | _ => { t with sup := b }

/-- What a fetch of one word gives: the word, or the fault with its route (R118, R149, R158, R424). -/
inductive Fetch where
  | word (w : IWord)
  | fault (r : Route)
  deriving DecidableEq, Repr

/-- The address of an instruction word: untranslated for service strands, in the partition's HYP trap image at HYP and
MON, translated below (R424, R446, R447). -/
inductive FetchFrom where
  | mem (a : Nat)
  | fault (r : Route)
  deriving DecidableEq, Repr

/-- The route of a failed translation (R118). -/
def XErr.route (e : XErr) : Route :=
  match e.s2 with
  | some ipa => .s2 (BitVec.ofNat 48 ipa)
  | none => .sup

/-- A word of the HYP trap image in service memory, or the fetch fault that MON takes (R424, R446). -/
def imageWord (p : Part) (pc : Word) : FetchFrom :=
  if pc.toNat + 4 ≤ p.image.length then .mem (svcAt (p.imageAt + pc.toNat)) else .fault .mon

/-- The fetch of a strand of a partition below HYP. -/
def fetchPart (pid : Nat) (asid : BitVec 16) (ptbase : Word) (pl : Level) (pc : Word) : M FetchFrom := do
  if inAperture pc then return .fault .sup
  let s ← get
  match ← xlate s.myTlbs pid asid ptbase pl pc .x with
  | .ok p => return .mem p.addr
  | .error e => return .fault e.route

/-- Where the executing strand fetches a word. -/
def fetchFrom (pl : Level) (pc : Word) : M FetchFrom := do
  let s ← get
  match s.me.owner with
  | .mon => return if pc.toNat < 2 ^ 27 then .mem (svcAt pc.toNat) else .fault .mon
  | .hyp => return if pc.toNat < s.hypSize then .mem (s.hypAt pc.toNat) else .fault .mon
  | .part pid _ _ _ =>
    if 2 ≤ pl.num then
      match s.part? pid with
      | none => return .fault .mon
      | some p => return imageWord p pc
    else fetchPart pid s.me.asid s.me.ptbase pl pc

/-- Fetch one word for the executing strand at a level. -/
def fetchWord (pl : Level) (pc : Word) : M Fetch := do
  match ← fetchFrom pl pc with
  | .fault r => return .fault r
  | .mem a =>
    modify fun s => s.touch a 4
    let s ← get
    return .word (s.fetched s.me.uid a)

/-- The handler address of a level for a cause (R151). -/
def Bank.handler (b : Bank) (cause : Nat) : Word :=
  let base := wd (b.vec.toNat / 64 * 64)
  if bit b.vec.toNat 1 then base + wd (64 * cause) else base

/-- The scalar register that a queued operation will write (R238). -/
def VOp.sd : VOp → Option SReg
  | .ext d _ _ => some d
  | .mpopc d _ => some d
  | .mfirst d _ => some d
  | .popNw _ _ _ d _ => some d
  | .pushNw _ _ _ d _ => some d
  | .postv d _ _ _ _ => some d
  | _ => none

/-- The pending marks of a queue (R238). -/
def sdMask (q : List VEntry) : BitVec 32 :=
  q.foldl (fun m e => match e.op.sd with
    | some d => if d = 0 then m else setBit m d.toNat true
    | none => m) 0

/-- A strand whose vector queue is held by a trap, and a new strip (R130, R153): at a trap of the queue's head (`vec`) the mark
of its scalar destination is dropped (R238; log 14). -/
def Strand.hold (t : Strand) (vec : Bool) : Strand :=
  { t with
    vheld := !t.vq.isEmpty
    spend := if vec then sdMask (t.vq.drop 1) else t.spend
    strip := t.strip + 1
    idling := false
    waitBar := none }

/-- Trap entry at a level (R151): the bank is filled, the vector queue is held, the handler starts. -/
def Strand.enter (t : Strand) (l : Level) (cause : Nat) (val : Word) (async vec : Bool) (ipa : Option (BitVec 48)) :
    Strand :=
  let old := t.bank l
  let b : Bank := {
    pc := t.pc
    cause := wd (cause + (if async then 2 ^ 8 else 0) + (if vec then 2 ^ 9 else 0) + t.pl.num <<< 10 +
      (if t.ie then 2 ^ 12 else 0))
    val := val
    vec := old.vec
    vpc := (t.vq.head?.map (·.pc)).getD 0
    ipa := ipa.getD old.ipa }
  { ((t.hold vec).setBank l b) with pl := l, ie := false, pc := old.handler cause }

/-- The first instruction word of a handler, without the choices of a fetch: a fresh walk (R150). -/
def State.peek (s : State) (l : Level) (pc : Word) : Fetch :=
  let at' := fun (a : Nat) => Fetch.word (s.fetched s.me.uid a)
  match s.me.owner with
  | .mon => if pc.toNat < 2 ^ 27 then at' (svcAt pc.toNat) else .fault .mon
  | .hyp => if pc.toNat < s.hypSize then at' (s.hypAt pc.toNat) else .fault .mon
  | .part pid _ _ _ =>
    match s.part? pid with
    | none => .fault .mon
    | some p =>
      if 2 ≤ l.num then
        match imageWord p pc with
        | .mem a => at' a
        | .fault r => .fault r
      else match s.freshPlace p s.me.ptbase l pc .x false with
        | .ok pl => at' pl.addr
        | .error e => .fault e.route

/-- Take a trap at the first of the levels that can (R150): a bank with EN = 0 is passed over, and so is a level whose
handler cannot be fetched or starts with a second word, with cause 0x05 or 0x02 and the handler address. Beyond MON the
context is killed. -/
def State.trapUp (s : State) (async vec : Bool) : List Level → Nat → Word → Option (BitVec 48) → State
  | [], cause, _, _ => s.killDomain s.me.uid cause
  | l :: up, cause, val, ipa =>
    let b := s.me.bank l
    if !bit b.vec.toNat 0 then s.trapUp async vec up cause val ipa
    else
      let h := b.handler cause
      match s.peek l h with
      | .fault r => s.trapUp async vec up 5 h (match r with
          | .s2 i => some i
          | _ => none)
      | .word w =>
        if wordKind w = 3 then s.trapUp async vec up 2 h none
        else { s with me := s.me.enter l cause val async vec ipa }

/-- The level of a route (R149). -/
def Route.level : Route → Nat
  | .sup => 1
  | .hyp => 2
  | .s2 _ => 2
  | .mon => 3

/-- The levels from `n` up to MON. -/
def levelsFrom (n : Nat) : List Level :=
  if n ≤ 1 then [.sup, .hyp, .mon] else if n = 2 then [.hyp, .mon] else [.mon]

/-- TAKING AN EXCEPTION (R149-R153): the executing strand traps with its resume address in its pc. -/
def State.takeTrap (s : State) (t : Trap) (async vec : Bool) : State :=
  s.trapUp async vec (levelsFrom (max t.route.level s.me.pl.num)) t.cause t.val
    (match t.route with
      | .s2 i => some i
      | _ => none)

/-- The state of a meaning that stopped, with the executing strand as it was before, unless it was killed. -/
def State.keepMe (old new : State) : State := if old.me.live && !new.me.live then new else { new with me := old.me }

/-- The outcome of a meaning. A trap commits nothing of the instruction but what it says it keeps; a wait likewise. -/
def runInstr (m : M Unit) (s : State) : Host.Outcome State Fault Refusal :=
  match m.run s with
  | .ok _ s' => .next s'
  | .error (.trap t keep) s' =>
    .next ((if keep then s.keepMe s' else s).takeTrap t false false)
  | .error (.stall keep) s' => .next (if keep then s.keepMe s' else s)

/-- Move past an instruction of `n` bytes. -/
def advance (n : Nat) : M Unit := modMe fun t => { t with pc := t.pc + wd n }

/-- A scalar instruction of one word: its effect, then the next instruction. -/
def scalar (m : M Unit) (s : State) : Host.Outcome State Fault Refusal := runInstr (do m; advance 4) s

/-- A scalar instruction of two words. -/
def scalar2 (m : M Unit) (s : State) : Host.Outcome State Fault Refusal := runInstr (do m; advance 8) s

/-- A step without an encoding: it changes the state and no pc; where it traps or waits, as an instruction does. -/
def event (m : M Unit) (s : State) : Host.Outcome State Fault Refusal := runInstr m s

/-- The words of an instruction as TRAPVAL holds them (R99). -/
def Instr.words (i : Instr) : Word :=
  match encode i with
  | [a] => a.setWidth 64
  | [a, b] => a.setWidth 64 ||| (b.setWidth 64 <<< 32)
  | _ => 0

/-- Illegal instruction (R97, R99). -/
def illegal (i : Instr) : M α := trapAt 1 (Instr.words i)

/-- An instruction of a masked feature group traps to HYP (R98). -/
def needGroup (g : Nat) (i : Instr) : M Unit := do
  let s ← get
  match s.myPart? with
  | some p => if p.fmask.getLsbD g then trapAt 3 (Instr.words i) .hyp
  | none => pure ()

/-- The lowest level that may execute an instruction (R86). -/
def needLevel (l : Level) (i : Instr) : M Unit := do
  if (← me).pl.num < l.num then trapAt 4 (Instr.words i)

/-- Instructions that need a partition are illegal on service strands (R467). -/
def needPart (i : Instr) : M Part := do
  let s ← get
  match s.myPart? with
  | some p => return p
  | none => illegal i

/-- Release the held vector entries (R154): the registers that they will write are pending again, that of the head too, whose mark its trap
had dropped (DEDUCED, log 14), and what is issued from
now on is in a new strip (R130). -/
def Strand.release (t : Strand) : Strand := { t with vheld := false, spend := sdMask t.vq, strip := t.strip + 1 }

/-- RETURN FROM AN EXCEPTION (R160). -/
def returnFromTrap : M Unit := do
  let t ← me
  let b := t.bank t.pl
  let ppl := bits b.cause.toNat 10 2
  if t.pl.num < ppl then trapAt 4 (Instr.words .tret)
  if bits b.pc.toNat 0 2 ≠ 0 then trapAt 8 b.pc
  modMe fun t => { t.release with pl := Level.of ppl, ie := bit b.cause.toNat 12, pc := b.pc }

/-- The strand that SUPHOME names; of several, the one placed last (R146, R156). -/
def State.supTarget (s : State) (p : Part) : Option Nat :=
  let x := p.suphome.toNat
  if !bit x 63 then none
  else
    let pos := bits x 16 11 % p.h * p.w + bits x 0 11 % p.w
    let cs := s.strands.filter fun t =>
      t.live && t.owner.pid? = some p.pid && t.pos = pos && t.num.toNat = bits x 28 2
    (cs.foldl (fun best t => match best with
      | none => some t
      | some b => if b.placedAt < t.placedAt || (b.placedAt = t.placedAt && b.uid < t.uid) then some t else some b) (none : Option Strand)).map (·.uid)

/-- Is the executing strand the target of its partition's events? -/
def State.isTarget (s : State) (p : Part) : Bool := s.supTarget p = some s.me.uid

/-- The asynchronous events that the executing strand may take now, lowest cause first (R156). -/
def State.pendingAsync (s : State) : List Nat :=
  let t := s.me
  if !(t.pl = .app || t.ie) || s.cores.any fun k => k.scanBy = some t.uid then []
  else
    let (pta, srq) := match s.myPart? with
      | some p => if s.isTarget p then (p.pta, !p.reqs.isEmpty) else (false, false)
      | none => (false, false)
    (if pta then [0x0B] else []) ++ (if t.wdgPend then [0x13] else []) ++ (if srq then [0x14] else [])

/-- Asynchronous trap entry of the executing strand (R156, R316): one event, its pending bit cleared. -/
def State.takeAsync (s : State) : State :=
  match s.pendingAsync with
  | [] => s
  | c :: _ =>
    match c, s.myPart? with
    | 0x13, _ =>
      { s with me := { s.me with wdgPend := false } }.takeTrap ⟨0x13, 0, .sup⟩ true false
    | 0x0B, some p =>
      (s.modPart p.pid fun p => { p with pta := false, ptaWord := 0, ptactx := wd p.ptaCtx }).takeTrap ⟨0x0B, p.ptaWord, .sup⟩ true false
    | 0x14, some p =>
      match p.reqs with
      | [] => s
      | r :: rest =>
        let val := if p.reqLost then r.val ||| wd (2 ^ 63) else r.val
        (s.modPart p.pid fun p => { p with
          reqs := rest, reqLost := false, ptactx := (r.ctx.map wd).getD p.ptactx }).takeTrap ⟨0x14, val, .sup⟩ true false
    | _, _ => s

end Sys2Proof.Machine
end

