-- ==== Sys2Proof/Machine/Operands.lean ====
section
/-! DEFINITION. Operands of scalar instructions (R139, R141-R143, R199, R238): registers, ports (R312-R316), poison,
pending registers, effective addresses (R204-R206), flags (R59). -/

namespace Sys2Proof.Machine

/-- The outcome of a meaning. -/
abbrev StepOut := Host.Outcome State Fault Refusal

/-- Register `r` of a strand as it stands: s0 is 0 (R139). -/
def Strand.sreg (t : Strand) (r : SReg) : Word := if r = 0 then 0 else t.s.toList.getD r.toNat 0

/-- A strand with register `r` written and its poison cleared, or set by a port word with an error mark that the instruction has
read; a write to s0 is discarded (R139, R142, R313). -/
def Strand.setS (t : Strand) (r : SReg) (x : Word) : Strand :=
  if r = 0 then t else { t with s := t.s.setIfInBounds r.toNat x, spoison := setBit t.spoison r.toNat t.taint }

/-- Is `r` a port register (R141)? -/
def Strand.isPort (t : Strand) (r : SReg) : Bool := 28 ≤ r.toNat && bit t.porten.toNat (r.toNat - 28)

/-- The oldest word of an arrival queue; an empty queue is waited on (R313). -/
def popPort (n : Nat) : M Word := do
  match (nth (← me).ports.toList n []) with
  | [] => stall
  | (x, bad) :: rest =>
    modMe fun t => { t with ports := t.ports.setIfInBounds n rest, taint := t.taint || bad }
    return x

/-- Read a source register (R199): a port pops; a pending register is waited on (R238); a poisoned one traps (R143). -/
def readS (r : SReg) : M Word := do
  let t ← me
  if t.isPort r then popPort (r.toNat - 28)
  else if t.spend.getLsbD r.toNat then stall
  else if t.spoison.getLsbD r.toNat then trapAt 0x0F (wd (4 * r.toNat))
  else return t.sreg r

/-- The live strand of a context at a position with a strand number (R312). -/
def State.strandAt (s : State) (pid ctx pos num : Nat) : Option Strand :=
  s.strands.find? fun t =>
    t.live && t.owner.pid? = some pid && t.owner.ctx = ctx && t.pos = pos && t.num.toNat = num

/-- Park a word for a port (R315, R316): `raise` sets PTA and records the target. A full store discards the word and
raises scheduler request 0x04. -/
def State.park (s : State) (p : Part) (t : Strand) (port : Nat) (x : Word × Bool) (route : Word) (raise : Bool) :
    State :=
  if 65536 ≤ p.parked.length then s.request p.pid (4 + port <<< 8) (some t.owner.ctx)
  else s.modPart p.pid fun p =>
    let p := { p with parked := p.parked ++ [⟨t.uid, port, x.1, x.2⟩] }
    if !raise then p
    else if p.ptaWord.getLsbD 63 then { p with pta := true }
    else { p with pta := true, ptaWord := route, ptaCtx := t.owner.ctx }

/-- The fields of a ROUTE register (R144); the rest is reserved. -/
def routeMask : Word := wd (0x7FF + 0x7FF <<< 16 + 3 <<< 28 + 3 <<< 32 + 1 <<< 63)

/-- Send a word, with its error mark, to the target of a route (R312). -/
def pushPort (n : Nat) (x : Word) (bad : Bool := false) : M Unit := do
  let s ← get
  let x := (x, bad || s.me.taint)
  let r := nth s.me.routes.toList n 0
  match s.myPart? with
  | none => pure ()
  | some p =>
    let v := r.toNat
    let pos := bits v 16 11 % p.h * p.w + bits v 0 11 % p.w
    if !bit v 63 || (p.coreAt s.me.owner.ctx pos).isNone then pure ()
    else match s.strandAt p.pid s.me.owner.ctx pos (bits v 28 2) with
      | none => pure ()
      | some t =>
        let port := bits v 32 2
        let q := nth t.ports.toList port []
        if t.place.isNone then set (s.park p t port x r true)
        else if p.parked.any fun w => w.uid = t.uid && w.port = port then set (s.park p t port x r false)
        else if q.length < 16 then
          set (s.modStrand t.uid fun t => { t with ports := t.ports.setIfInBounds port (q ++ [x]) })
        else stall

/-- Write a destination register (R199): s0 discards; a port pushes; a pending register is waited on (R31, R238). -/
def writeS (r : SReg) (x : Word) : M Unit := do
  let t ← me
  if t.isPort r then pushPort (r.toNat - 28) x
  else if t.spend.getLsbD r.toNat then stall
  else modMe fun t => t.setS r x

/-- Write a destination register with data that may have an uncorrectable error: a port passes the mark on (R313), a register is
poisoned (R142). -/
def writeMem (r : SReg) (x : Word) (bad : Bool) : M Unit := do
  if bad && (← me).isPort r then pushPort (r.toNat - 28) x true
  else
    writeS r x
    if bad && r != 0 then modMe fun t => { t with spoison := setBit t.spoison r.toNat true }

/-- OR flags into the scalar flag set (R59). -/
def orFlags (f : FSet) : M Unit := modMe fun t => { t with fflags := t.fflags ||| f }

/-- sd := f a b. -/
def op2 (d a b : SReg) (f : Word → Word → Word) : M Unit := do
  let x ← readS a
  let y ← readS b
  writeS d (f x y)

/-- sd := f a. -/
def op1 (d a : SReg) (f : Word → Word) : M Unit := do
  let x ← readS a
  writeS d (f x)

/-- Base plus offset (R205). -/
def effAddr {n : Nat} (b : SReg) (off : BitVec n) : M Word := do
  let x ← readS b
  return x + off.signExtend 64

/-- A misaligned address traps before translation (R126, R205). -/
def aligned (ea : Word) (size : Nat) : M Unit := do
  if ea.toNat % size ≠ 0 then trapAt 8 ea

/-- Load `size` bytes at an address on the scalar path (R205); the flag says that the data has an uncorrectable error. -/
def loadAt (ea : Word) (size : Nat) : M (Nat × Bool) := do
  aligned ea size
  let pl ← place ea .r 6
  let x ← loadPath false pl size
  return (x, (← get).badAt pl.addr size)

/-- The late load at place `k` of the executing strand takes its value (R127; log 11). -/
def landLate (k : Nat) : M Unit := do
  match (← me).late[k]? with
  | none => pure ()
  | some l =>
    modMe fun t => { t with late := t.late.eraseIdx k }
    let x ← loadFrom false l.lags l.addr l.size
    let bad := (← get).badAt l.addr l.size || l.taint
    modMe fun t =>
      let t := t.setS l.d (if l.signed then wd (ofI 64 (toS (8 * l.size) x)) else wd x)
      { t with spoison := setBit t.spoison l.d.toNat bad }

/-- The late loads of a strand take their values. -/
def State.landed (s : State) (uid : Nat) : State :=
  match s.strand? uid with
  | none => s
  | some t =>
    let go := fun (s : State) => match (landLate 0).run s with
      | .ok _ s => s
      | .error _ s => s
    if t.live then (loop t.late.length (fun _ s => go s) (s.switchTo uid)).switchTo s.me.uid else s

/-- The late loads of every strand take their values: what they read is about to change for another reason than a store. -/
def State.landAll (s : State) : State := (s.strands.filter fun t => !t.late.isEmpty).foldl (fun s t => s.landed t.uid) s

/-- Store `size` bytes at an address on the scalar path (R205). -/
def storeAt (ea : Word) (size v : Nat) : M Unit := do
  aligned ea size
  let pl ← place ea .w 7
  storePath false pl size v

end Sys2Proof.Machine
end

