-- ==== Sys2Proof/Machine/Clock.lean ====
section
/-! DEFINITION. The passing of time between steps (R6): TIME and CYCLE (R144), WDOG (R157), deficits (R191) and pool
charges (R177). How many clk pass is free (log 8). -/

namespace Sys2Proof.Machine

/-- The bits of an RCB of a partition; 0 names the partition RCB (R172). -/
def Part.rcbBits (p : Part) (ipa : Nat) : Nat :=
  if ipa = 0 then p.rcb.toNat else ((p.rcb? ipa).map (·.bits.toNat)).getD 0

/-- The own pools that a strand charges: its queue RCB, its context, the partition, where OVR[17] is set (R174, R177). -/
def Part.ownPools (p : Part) (ctx rcb : Nat) : List Nat := [rcb, ctx, 0].filter fun a => bit (p.rcbBits a) 17

/-- The number of the current period of an own pool (R177). -/
def Part.period (p : Part) (time : Word) (a : Nat) : Nat :=
  time.toNat / (max 1 (bits (p.rcbBits a) 192 20) * 1000)

/-- The charge of a pool in the current period. -/
def Part.charge (p : Part) (time : Word) (a : Nat) : Nat :=
  match p.pools.find? (·.rcb == a) with
  | some x => if x.period = p.period time a then x.charge else 0
  | none => 0

/-- Charge a pool for one strand over `e` clk (R177): where a period begins on the way, what came before falls to the old one. -/
def Part.addCharge (p : Part) (time : Word) (a e : Nat) : Part :=
  let now := time + wd e
  let new : Nat := if p.period now a = p.period time a then p.charge time a + e
    else p.charge now a + now.toNat % (max 1 (bits (p.rcbBits a) 192 20) * 1000)
  { p with pools := ⟨a, p.period now a, new⟩ :: p.pools.filter (·.rcb != a) }

/-- Is a pool exhausted (R177)? A BUDGET of 0 is unlimited. -/
def Part.exhausted (p : Part) (time : Word) (a : Nat) : Bool :=
  let budget := bits (p.rcbBits a) 128 48
  budget != 0 && budget ≤ p.charge time a

/-- The resident strands that a partition is charged for, by context, queue RCB and launch queue. -/
def State.charged (s : State) (pid : Nat) : List (Nat × Nat × Option Nat) :=
  s.strands.filterMap fun t =>
    match t.owner with
    | .part p c r l => if t.resident && p = pid then some (c, r, (s.launch? l).bind (·.queue)) else none
    | _ => none

/-- One partition after `e` clk: deficits and pools (R177, R191). -/
def State.agePart (s : State) (e : Nat) (p : Part) : Part :=
  (s.charged p.pid).foldl (fun p (c, r, q) =>
    let p := (p.ownPools c r).foldl (fun p a => p.addCharge s.time a e) p
    match q with
    | none => p
    | some q => { p with queues := p.queues.modify q fun x => { x with dc := x.dc - (e : Int) } }) p

/-- One strand after `e` clk of residency (R144, R157): a watchdog that runs out stays at 0. -/
def Strand.age (e : Nat) (t : Strand) : Strand :=
  if t.resident then { t with cycle := t.cycle + wd e, wdog := BitVec.ofNat 32 (t.wdog.toNat - e) } else t

/-- The strands whose watchdog runs out within `e` clk. -/
def State.barks (s : State) (e : Nat) : List Nat :=
  (s.strands.filter fun t => t.resident && 0 < t.wdog.toNat && t.wdog.toNat ≤ e).map (·.uid)

/-- The barriers with arrivals whose deadline has come (R324), by partition. -/
def State.overdue (s : State) (time : Word) : List (Nat × Nat) :=
  s.parts.flatMap fun p => (p.bars.filter fun b => !b.arrived.isEmpty && b.deadline ≤ time.toNat).map fun b => (p.pid, b.id)

/-- The end of a step: time passes, watchdogs and barrier deadlines that it reaches come next, free values are drawn anew. -/
def State.tickOver (s : State) : State :=
  let e := Config.elapsed s.tick
  let dogs := (s.barks e).map fun u => Action.event .wdogExpiry { EvArgs.none with x := u }
  let late := (s.overdue (s.time + wd e)).map fun (p, b) => Action.event .barrierTimeout { EvArgs.none with x := p, y := b }
  { s with
    agenda := late ++ dogs ++ s.agenda
    tick := s.tick + 1
    draw := 0
    time := s.time + wd e
    me := s.me.age e
    others := s.others.map (Strand.age e)
    parts := s.parts.map (s.agePart e) }

end Sys2Proof.Machine
end

