-- ==== Sys2Proof/Machine/Memory.lean ====
section
/-! DEFINITION. Scalar loads and stores, full bits, atomics and fences (R114, R128, R129, R204-R210). -/

namespace Sys2Proof.Machine

/-- A load (R205): `size` bytes at base plus offset, extended by `ext`; bad data poisons the register (R142). A load into
s0 performs too. -/
def load {n : Nat} (d b : SReg) (off : BitVec n) (size : Nat) (ext : Nat → Word) : M Unit := do
  let ea ← effAddr b off
  let (x, bad) ← loadAt ea size
  writeMem d (ext x) bad

/-- A store (R205): the low `size` bytes of the data register; its field comes first (R199). -/
def store {n : Nat} (src b : SReg) (off : BitVec n) (size : Nat) : M Unit := do
  let x ← readS src
  let ea ← effAddr b off
  storeAt ea size x.toNat

/-- The low `w` bits sign-extended (R204). -/
def sext (w x : Nat) : Word := wd (ofI 64 (toS w x))

/-- The place in scratch of an address, or the fault of an address outside the aperture or at or above S (R107, R114,
R206). -/
def scratchOnly (ea : Word) (cause : Nat) : M Nat := do
  let s ← get
  let at' ← if inAperture ea then scratchPlace ea else pure none
  match at' with
  | some a => return a
  | none => trapAt cause ea (if s.me.owner = .hyp && s.hypSize ≤ ea.toNat then .mon else .sup)

/-- `ldsync` (R206): it waits until the granule's F is 1, loads a dword and leaves F unchanged. -/
def loadSync {n : Nat} (d b : SReg) (off : BitVec n) : M Unit := do
  let ea ← effAddr b off
  aligned ea 8
  let a ← scratchOnly ea 6
  waitFor ((← get).fullAt a)
  let x ← loadPath false ⟨a, .scratch, false⟩ 8
  modify State.acquire
  writeMem d (wd x) ((← get).badAt a 8)

/-- `fclr` (R206): it clears F of the granule that holds the address; any alignment. -/
def clearFull {n : Nat} (b : SReg) (off : BitVec n) : M Unit := do
  let ea ← effAddr b off
  let a ← scratchOnly ea 7
  modify fun s => s.clrFull (a / 64)

/-- What an atomic writes (R207): nothing for a `cas` that fails. -/
def AmoOp.apply (op : AmoOp) (size old v cmp : Nat) : Option Nat :=
  let w := 8 * size
  match op with
  | .swap => some v
  | .add => some ((old + v) % 2 ^ w)
  | .and => some (old &&& v)
  | .or => some (old ||| v)
  | .xor => some (old ^^^ v)
  | .min => some (if toS w v < toS w old then v else old)
  | .max => some (if toS w old < toS w v then v else old)
  | .minu => some (if v < old then v else old)
  | .maxu => some (if old < v then v else old)
  | .cas => if old = cmp then some v else none
  | .fadd => none

/-- Bytes of an atomic: by width; of `fadd` by its format (R83). -/
def AmoOp.size (op : AmoOp) (w : Nat) : Nat :=
  if op = .fadd then nth [2, 2, 4, 8] w 8 else 2 ^ w

/-- The scope that an atomic acts at (R135, R208, R435): a DET page has at least partition scope, the host aperture and a window system,
scratch the cluster. -/
def Place.scope (pl : Place) (scope : Nat) : Nat :=
  match pl.kind with
  | .host => 3
  | .win => 3
  | .scratch => 1
  | _ => if pl.det then max 2 scope else scope

/-- The write of an atomic, which reads and writes at one point of coherence order (R129): `f` gives the bytes written from
those found, and the answer is what it finds. An `amo` retires when it has performed at its effective scope (R207); a `vamo`
performs like a vector store (R292). -/
def atomicAt (vector : Bool) (pl : Place) (n scope : Nat) (f : Nat → Option Nat) : M Nat := do
  let s ← get
  let hid := if vector then s.missers true pl
    else [Viewer.fetch] ++ (if pl.lags then Viewer.engines [] else .calls [s.me.uid] []).past true [s.me.uid] (fun _ => false) scope
      (s.strandCluster s.me)
  writeAs vector true hid pl n f

/-- Code of a format in DET accumulation, from the width field of `fadd` (R66, R83); f64 has none (R67). -/
def detFmt (w : Nat) : Option Nat := [1, 2, 0][w]?

/-- Format of `fadd` by its width field (R83). -/
def faddFmt (w : Nat) : Fmt := nth [bf16, f16, f32] w f64

/-- `fadd` (R208, R209): exact on a DET page; rounded RNE elsewhere; a store fault on the host aperture, on a window, and
for what an accumulator does not take. It answers the old value. -/
def faddAt (vector : Bool) (pl : Place) (ea : Word) (w v scope : Nat) : M (Nat × FSet) := do
  let size := AmoOp.size .fadd w
  if pl.kind = .host || pl.kind = .win then trapAt 7 ea
  else if pl.det then
    match detFmt w with
    | none => trapAt 7 ea
    | some f =>
      match ← detAdd pl.addr f v 0 with
      | some old => return (old, 0)
      | none => trapAt 7 ea
  else
    let old ← atomicAt vector pl size scope fun old => some (fAdd (faddFmt w) 0 old v).1
    return (old, (fAdd (faddFmt w) 0 old v).2)

/-- An atomic memory operation (R207-R209), at its effective scope (R135, R208). With ar = 1 every earlier scalar access has
performed at that scope (R129). -/
def amo (op : AmoOp) (d a b : SReg) (width : BitVec 2) (scope : BitVec 2) (ar : BitVec 1) : M Unit := do
  let w := width.toNat
  let size := op.size w
  let cmp ← if op = .cas then readS d else pure 0
  let ea ← readS a
  let v := bits (← readS b).toNat 0 (8 * size)
  aligned ea size
  let pl ← place ea .rw 7
  let sc := pl.scope scope.toNat
  let bad := (← get).badAt pl.addr size
  if ar = 1 then modify fun s => s.order (· = 0) (· = 0) sc
  if op = .fadd then
    let (old, fl) ← faddAt false pl ea w v sc
    writeMem d (wd old) bad
    orFlags fl
  else
    let old ← atomicAt false pl size sc fun old => op.apply size old v (bits cmp.toNat 0 (8 * size))
    writeMem d (if op = .minu || op = .maxu then wd old else sext (8 * size) old) bad

/-- Is a queued entry a memory or stream access of class v (R128, R292)? -/
def VOp.isMem : VOp → Bool
  | .ld _ _ _ _ _ => true
  | .st _ _ _ _ _ => true
  | .amo _ _ _ _ _ _ _ _ _ _ => true
  | .plane _ _ _ _ => true
  | .pop _ _ _ => true
  | .push _ _ _ => true
  | .popNw _ _ _ _ _ => true
  | .pushNw _ _ _ _ _ => true
  | _ => false

/-- Is a queued entry an engine post (R128)? -/
def VOp.isPost : VOp → Bool
  | .postv _ _ _ _ _ => true
  | _ => false

/-- A fence (R128, R210): it waits for the queued accesses of its predecessor classes, held entries apart, and then orders
class by class, at its scope. -/
def fence (succ pred : BitVec 4) (scope : BitVec 2) : M Unit := do
  let t ← me
  let p := pred.getLsbD
  let q := succ.getLsbD
  waitFor (t.vheld || !(t.vq.any fun e => (p 1 && e.op.isMem) || (p 2 && e.op.isPost)))
  modify fun s => s.order p q scope.toNat

/-- `lb` (R204, R205). -/
def execLb (d b : SReg) (i : BitVec 11) (s : State) : StepOut := scalar (load d b i 1 (sext 8)) s

/-- `lh` (R204, R205). -/
def execLh (d b : SReg) (i : BitVec 11) (s : State) : StepOut := scalar (load d b i 2 (sext 16)) s

/-- `lw` (R204, R205). -/
def execLw (d b : SReg) (i : BitVec 11) (s : State) : StepOut := scalar (load d b i 4 (sext 32)) s

/-- `ld` (R204, R205). -/
def execLd (d b : SReg) (i : BitVec 11) (s : State) : StepOut := scalar (load d b i 8 wd) s

/-- `lbu` (R204, R205). -/
def execLbu (d b : SReg) (i : BitVec 11) (s : State) : StepOut := scalar (load d b i 1 wd) s

/-- `lhu` (R204, R205). -/
def execLhu (d b : SReg) (i : BitVec 11) (s : State) : StepOut := scalar (load d b i 2 wd) s

/-- `lwu` (R204, R205). -/
def execLwu (d b : SReg) (i : BitVec 11) (s : State) : StepOut := scalar (load d b i 4 wd) s

/-- `ldsync` (R206). -/
def execLdsync (d b : SReg) (i : BitVec 11) (s : State) : StepOut := scalar (loadSync d b i) s

/-- `sb` (R204, R205). -/
def execSb (x b : SReg) (i : BitVec 11) (s : State) : StepOut := scalar (store x b i 1) s

/-- `sh` (R204, R205). -/
def execSh (x b : SReg) (i : BitVec 11) (s : State) : StepOut := scalar (store x b i 2) s

/-- `sw` (R204, R205). -/
def execSw (x b : SReg) (i : BitVec 11) (s : State) : StepOut := scalar (store x b i 4) s

/-- `sd` (R204, R205). -/
def execSd (x b : SReg) (i : BitVec 11) (s : State) : StepOut := scalar (store x b i 8) s

/-- `fclr` (R206). -/
def execFclr (b : SReg) (i : BitVec 11) (s : State) : StepOut := scalar (clearFull b i) s

/-- `amo.swap` (R207). -/
def execAmoSwap (d a b : SReg) (sc w : BitVec 2) (ar : BitVec 1) (s : State) : StepOut := scalar (amo .swap d a b w sc ar) s

/-- `amo.add` (R207). -/
def execAmoAdd (d a b : SReg) (sc w : BitVec 2) (ar : BitVec 1) (s : State) : StepOut := scalar (amo .add d a b w sc ar) s

/-- `amo.and` (R207). -/
def execAmoAnd (d a b : SReg) (sc w : BitVec 2) (ar : BitVec 1) (s : State) : StepOut := scalar (amo .and d a b w sc ar) s

/-- `amo.or` (R207). -/
def execAmoOr (d a b : SReg) (sc w : BitVec 2) (ar : BitVec 1) (s : State) : StepOut := scalar (amo .or d a b w sc ar) s

/-- `amo.xor` (R207). -/
def execAmoXor (d a b : SReg) (sc w : BitVec 2) (ar : BitVec 1) (s : State) : StepOut := scalar (amo .xor d a b w sc ar) s

/-- `amo.min` (R207). -/
def execAmoMin (d a b : SReg) (sc w : BitVec 2) (ar : BitVec 1) (s : State) : StepOut := scalar (amo .min d a b w sc ar) s

/-- `amo.max` (R207). -/
def execAmoMax (d a b : SReg) (sc w : BitVec 2) (ar : BitVec 1) (s : State) : StepOut := scalar (amo .max d a b w sc ar) s

/-- `amo.minu` (R207). -/
def execAmoMinu (d a b : SReg) (sc w : BitVec 2) (ar : BitVec 1) (s : State) : StepOut := scalar (amo .minu d a b w sc ar) s

/-- `amo.maxu` (R207). -/
def execAmoMaxu (d a b : SReg) (sc w : BitVec 2) (ar : BitVec 1) (s : State) : StepOut := scalar (amo .maxu d a b w sc ar) s

/-- `amo.cas` (R207). -/
def execAmoCas (d a b : SReg) (sc w : BitVec 2) (ar : BitVec 1) (s : State) : StepOut := scalar (amo .cas d a b w sc ar) s

/-- `amo.fadd` (R207). -/
def execAmoFadd (d a b : SReg) (sc w : BitVec 2) (ar : BitVec 1) (s : State) : StepOut := scalar (amo .fadd d a b w sc ar) s

/-- `fence` (R210). -/
def execFence (succ pred : BitVec 4) (scope : BitVec 2) (s : State) : StepOut := scalar (fence succ pred scope) s

/-- `lb.l` (R204, R205). -/
def execLbL (d b : SReg) (off : BitVec 41) (s : State) : StepOut := scalar2 (load d b off 1 (sext 8)) s

/-- `lh.l` (R204, R205). -/
def execLhL (d b : SReg) (off : BitVec 41) (s : State) : StepOut := scalar2 (load d b off 2 (sext 16)) s

/-- `lw.l` (R204, R205). -/
def execLwL (d b : SReg) (off : BitVec 41) (s : State) : StepOut := scalar2 (load d b off 4 (sext 32)) s

/-- `ld.l` (R204, R205). -/
def execLdL (d b : SReg) (off : BitVec 41) (s : State) : StepOut := scalar2 (load d b off 8 wd) s

/-- `lbu.l` (R204, R205). -/
def execLbuL (d b : SReg) (off : BitVec 41) (s : State) : StepOut := scalar2 (load d b off 1 wd) s

/-- `lhu.l` (R204, R205). -/
def execLhuL (d b : SReg) (off : BitVec 41) (s : State) : StepOut := scalar2 (load d b off 2 wd) s

/-- `lwu.l` (R204, R205). -/
def execLwuL (d b : SReg) (off : BitVec 41) (s : State) : StepOut := scalar2 (load d b off 4 wd) s

/-- `ldsync.l` (R206). -/
def execLdsyncL (d b : SReg) (off : BitVec 41) (s : State) : StepOut := scalar2 (loadSync d b off) s

/-- `sb.l` (R204, R205). -/
def execSbL (x b : SReg) (off : BitVec 41) (s : State) : StepOut := scalar2 (store x b off 1) s

/-- `sh.l` (R204, R205). -/
def execShL (x b : SReg) (off : BitVec 41) (s : State) : StepOut := scalar2 (store x b off 2) s

/-- `sw.l` (R204, R205). -/
def execSwL (x b : SReg) (off : BitVec 41) (s : State) : StepOut := scalar2 (store x b off 4) s

/-- `sd.l` (R204, R205). -/
def execSdL (x b : SReg) (off : BitVec 41) (s : State) : StepOut := scalar2 (store x b off 8) s

/-- `fclr.l` (R206). -/
def execFclrL (b : SReg) (off : BitVec 41) (s : State) : StepOut := scalar2 (clearFull b off) s

end Sys2Proof.Machine
end

