-- ==== Sys2Proof/Machine/Rcb.lean ====
section
/-! DEFINITION. Region control blocks (R172-R176), core maps (R39, R40), and the checks of a launch record (R183-R185,
R112, R168, R468). -/

namespace Sys2Proof.Machine

/-- The effective values that narrow down the tree (R174). -/
structure Eff where
  prio : Nat
  barq : Nat
  semlo : Nat
  semhi : Nat
  deriving DecidableEq, Repr

/-- The device RCB (R172). -/
def Eff.device : Eff := ⟨7, 1024, 0, 4095⟩

/-- An effective value narrowed by an RCB (R174). -/
def Eff.narrow (e : Eff) (n : Nat) : Eff where
  prio := if bit n 16 then min (bits n 8 3) e.prio else e.prio
  barq := if bit n 19 then min (bits n 272 11) e.barq else e.barq
  semlo := if bit n 20 then max (bits n 320 12) e.semlo else e.semlo
  semhi := if bit n 20 then min (bits n 336 12) e.semhi else e.semhi

/-- Bits of an RCB of a partition by IPA; 0 names the partition RCB (R172). -/
def Part.rcbN (p : Part) (ipa : Nat) : Nat :=
  if ipa = 0 then p.rcb.toNat else ((p.rcb? ipa).map (·.bits.toNat)).getD 0

/-- The effective values of a queue RCB under a context (R174). -/
def Part.eff (p : Part) (ctx rcb : Nat) : Eff :=
  ((Eff.device.narrow p.rcb.toNat).narrow (p.rcbN ctx)).narrow (p.rcbN rcb)

/-- The own caps that bind something under a queue RCB: OVR bit and field (R174, R178); 0 is no cap. -/
def Part.caps (p : Part) (ctx rcb ovr lo : Nat) : List (Nat × Nat) :=
  ([rcb, ctx, 0].map fun a => (a, if bit (p.rcbN a) ovr then bits (p.rcbN a) lo 16 else 0)).filter fun x => x.2 != 0

/-- The reserved bits of an RCB, as (lowest bit, count) (R173). -/
def rcbReserved : List (Nat × Nat) :=
  [(4, 4), (11, 5), (22, 42), (64, 7), (112, 16), (176, 16), (212, 44), (283, 5), (304, 16), (332, 4), (348, 36),
   (400, 48), (448, 13), (496, 16), (512, 6), (560, 16), (576, 17), (624, 16), (704, 320)]

/-- The context-only fields (R173). -/
def rcbContextOnly : List (Nat × Nat) := [(384, 16), (461, 35), (518, 42), (593, 31), (640, 64)]

/-- The fields of each OVR group (R174). -/
def rcbGroups : List (Nat × List (Nat × Nat)) :=
  [(16, [(8, 3)]), (17, [(128, 48), (192, 20)]), (18, [(256, 16)]), (19, [(272, 11)]), (20, [(320, 12), (336, 12)]),
   (21, [(288, 16)])]

/-- Are the named bits all 0? -/
def allZero (n : Nat) (l : List (Nat × Nat)) : Bool := l.all fun (lo, k) => bits n lo k = 0

/-- An RCB's own fields are valid at a level (R176), PARENT apart. R173 requires the context-only fields to be 0 in a queue RCB; a
partition RCB that sets one is held invalid as well (DESIGN CHOICE, log 78). -/
def rcbShape (level n : Nat) : Bool :=
  bits n 0 3 = level && allZero n rcbReserved && (level = 2 || allZero n rcbContextOnly) &&
  (rcbGroups.all fun (o, l) => bit n o || allZero n l) &&
  !(bit n 17 && bits n 128 48 != 0 && bits n 192 20 = 0) && bits n 192 20 ≤ 1000000 &&
  bits n 272 11 ≤ 1024 && bits n 320 12 ≤ bits n 336 12

/-- The PARENT of an RCB (R173). -/
def rcbParent (n : Nat) : Nat := bits n 71 41 <<< 7

/-- The core that a core map entry names (R39). -/
def mapCore (e : BitVec 32) : Option CoreId :=
  let x := e.toNat
  if bit x 0 then some ⟨bits x 1 2, bits x 3 4, bits x 7 3, bits x 10 4⟩ else none

/-- Is a core map accepted (R40)? No cluster has more than 8 logical cores (R14). R40 does not say that an entry may not name a core
that the configuration table disables: such a map is accepted, its position counts as present, and no strand is ever placed there
(DESIGN CHOICE, log 66). -/
def State.mapOk (s : State) (p : Part) (m : List (BitVec 32)) : Bool :=
  let cs := m.zipIdx.filterMap fun (e, n) => (mapCore e).map fun c => (c, n)
  (cs.all fun (c, n) => c.core ≤ 8 && s.coreBh c = some (p.bh (n / 64))) &&
  decide (cs.map Prod.fst).Nodup &&
  (cs.all fun (c, n) => cs.all fun (d, k) => n / 8 != k / 8 || c.row = d.row) &&
  (cs.all fun (c, _) => (cs.filter fun (d, _) => d.die = c.die && d.col = c.col && d.row = c.row).length ≤ 8)

/-- Does a map leave every cluster with at most 8 logical cores beside the maps of the other contexts that the partition holds (R14:
at any time; log 66)? -/
def Part.mapFits (p : Part) (ipa : Nat) (m : List (BitVec 32)) : Bool :=
  let others := (p.rcbs.filter (·.ipa != ipa)).flatMap fun r => r.cmap.filterMap mapCore
  let mine := m.filterMap mapCore
  others.isEmpty || mine.all fun c =>
    ((mine ++ others).filter fun d => d.die = c.die && d.col = c.col && d.row = c.row).eraseDups.length ≤ 8

/-- The core map entry of a core (R39). -/
def coreEntry (c : CoreId) : BitVec 32 := BitVec.ofNat 32 (1 + c.die <<< 1 + c.col <<< 3 + c.row <<< 7 + c.core <<< 10)

/-- The spare of a core's cluster under a map: a core that the map leaves out (R14), that of the table before others. -/
def State.spareFor (s : State) (m : List (BitVec 32)) (c : CoreId) (first : Nat) : Option CoreId :=
  let ok := fun k =>
    let d : CoreId := { c with core := k }
    k < 9 && d != c && !bit (s.clusOf c) k && !(s.ctl d).removed && !m.any fun e => mapCore e = some d
  ((first :: below 9).find? ok).map fun k => { c with core := k }

/-- A map in which the spare takes the place of a removed core, or none does (R42, R454). -/
def State.substitute (s : State) (m : List (BitVec 32)) (x : CoreId × Option Nat) : List (BitVec 32) :=
  if m.any fun e => mapCore e = some x.1 then
    let new := ((x.2.bind (s.spareFor m x.1)).map coreEntry).getD 0
    m.map fun e => if mapCore e = some x.1 then new else e
  else m

/-- An accepted map as the device uses it: removed cores replaced (R42, R454), positions of a lost bulkhead absent (R421). -/
def State.liveMap (s : State) (p : Part) (m : List (BitVec 32)) : List (BitVec 32) :=
  (s.subs.foldl s.substitute m).zipIdx.map fun (e, n) => if (s.bh (p.bh (n / 64))).lost then 0 else e

/-- The core map that a context RCB names, as memory holds it (R39). -/
def State.rawMap (s : State) (p : Part) (bits' : BitVec 1024) : Option (List (BitVec 32)) :=
  (s.ipaBytes p (bits bits'.toNat 518 42 <<< 6) (256 * p.nb)).map fun l =>
    (below (64 * p.nb)).map fun i => BitVec.ofNat 32 (leNat (slice l (4 * i) 4))

/-- The monitor writes the replacement of removed cores into the entries of a context's map in memory (R42). -/
def State.rewriteMap (s : State) (p : Part) (r : Rcb) : State :=
  match s.rawMap p r.bits with
  | none => s
  | some m =>
    if bits r.bits.toNat 0 3 != 2 || !s.mapOk p m then s
    else (m.zip (s.subs.foldl s.substitute m)).zipIdx.foldl (fun s ((a, b), n) =>
      if a = b then s else (s.putIpa p (bits r.bits.toNat 518 42 <<< 6 + 4 * n) (leBytes 4 b.toNat)).1) s

/-- The 128 bytes at an IPA as a context RCB with its core map; an empty map stands for one that is refused (R39, R40). -/
def State.rawContext (s : State) (p : Part) (ipa : Nat) : Option Rcb :=
  match s.ipaNat p ipa 128 with
  | none => none
  | some n =>
    let m := (s.rawMap p (BitVec.ofNat 1024 n)).getD []
    some ⟨ipa, BitVec.ofNat 1024 n, false, if s.mapOk p m && p.mapFits ipa m then s.liveMap p m else []⟩

/-- The 128 bytes at an IPA as a queue RCB. -/
def State.rawQueueRcb (s : State) (p : Part) (ipa : Nat) : Option Rcb :=
  (s.ipaNat p ipa 128).map fun n => ⟨ipa, BitVec.ofNat 1024 n, false, []⟩

/-- Is it a context RCB of a partition, its core map apart (R172, R176)? -/
def Part.contextOk (p : Part) (r : Rcb) : Bool :=
  let e := (Eff.device.narrow p.rcb.toNat).narrow r.bits.toNat
  r.ipa != 0 && rcbShape 2 r.bits.toNat && rcbParent r.bits.toNat = 0 && e.semlo ≤ e.semhi

/-- A context RCB as memory holds it (R175). -/
def State.loadContext (s : State) (p : Part) (ipa : Nat) : Option Rcb :=
  match s.rawContext p ipa with
  | some r => if p.contextOk r then some r else none
  | none => none

/-- The context RCB of an IPA: as cached, else as read (R175). -/
def State.findContext (s : State) (p : Part) (ipa : Nat) : Option Rcb :=
  match p.rcb? ipa with
  | some r => if p.contextOk r then some r else none
  | none => s.loadContext p ipa

/-- A queue RCB with the context that it belongs to, its own validity and the core map apart (R172, R185). -/
def State.queueOf (s : State) (p : Part) (q : Rcb) : Option (Rcb × Rcb) :=
  if q.ipa = 0 || bits q.bits.toNat 0 3 != 3 then none
  else (s.findContext p (rcbParent q.bits.toNat)).map fun c => (q, c)

/-- Is a queue RCB under its context valid (R176)? -/
def Part.queueOk (p : Part) (q c : Rcb) : Bool :=
  let e := ((Eff.device.narrow p.rcb.toNat).narrow c.bits.toNat).narrow q.bits.toNat
  rcbShape 3 q.bits.toNat && e.semlo ≤ e.semhi

/-- A queue RCB with its context: as cached, else as read (R175). -/
def State.findQueueRcb (s : State) (p : Part) (ipa : Nat) : Option (Rcb × Rcb) :=
  match p.rcb? ipa with
  | some r => s.queueOf p r
  | none => (s.rawQueueRcb p ipa).bind (s.queueOf p)

/-- A partition with an RCB cached. -/
def Part.cache (p : Part) (r : Rcb) : Part :=
  if (p.rcb? r.ipa).isSome then p else { p with rcbs := p.rcbs ++ [r] }

/-- The context of a record (R185), read and cached when first named (R175). -/
def State.nameRcb (s : State) (pid ipa : Nat) : State × Option (Rcb × Rcb) :=
  match s.part? pid with
  | none => (s, none)
  | some p =>
    match s.findQueueRcb p ipa with
    | none => (s, none)
    | some (q, c) => (s.modPart pid fun p => (p.cache c).cache q, some (q, c))

/-- Is a launch's RCB killed: itself, its context, or the partition (R179)? -/
def Part.isKilled (p : Part) (ctx rcb : Nat) : Bool :=
  p.killed || (p.rcbs.any fun r => r.killed && (r.ipa = ctx || r.ipa = rcb))

/-- Fields of a launch record (R183). -/
def recEntry (r : BitVec 512) : Nat := recBits r 0 64
/-- ARG (R183). -/
def recArg (r : BitVec 512) : Nat := recBits r 64 64
/-- COL0 (R183). -/
def recCol (r : BitVec 512) : Nat := recBits r 128 11
/-- ROW0 (R183). -/
def recRow (r : BitVec 512) : Nat := recBits r 144 11
/-- WM1 (R183). -/
def recWm1 (r : BitVec 512) : Nat := recBits r 160 11
/-- HM1 (R183). -/
def recHm1 (r : BitVec 512) : Nat := recBits r 176 11
/-- Effective GVL: 0 means 2048 (R183). -/
def recGvl (r : BitVec 512) : Nat := if recBits r 192 12 = 0 then 2048 else recBits r 192 12
/-- SPCM1 (R183). -/
def recSpcm1 (r : BitVec 512) : Nat := recBits r 204 2
/-- SBASE (R183). -/
def recSbase (r : BitVec 512) : Nat := recBits r 206 2
/-- SCR (R183). -/
def recScr (r : BitVec 512) : Nat := recBits r 208 7
/-- PRT (R183). -/
def recPrt (r : BitVec 512) : Nat := recBits r 216 7
/-- WTAB (R183). -/
def recWtab (r : BitVec 512) : Nat := recBits r 256 64
/-- CW (R183). -/
def recCw (r : BitVec 512) : Nat := recBits r 320 64
/-- WSEM (R183). -/
def recWsem (r : BitVec 512) : Nat := recBits r 384 12
/-- WV (R183). -/
def recWv (r : BitVec 512) : Bool := bit r.toNat 396
/-- SSEM (R183). -/
def recSsem (r : BitVec 512) : Nat := recBits r 400 12
/-- SV (R183). -/
def recSv (r : BitVec 512) : Bool := bit r.toNat 412
/-- WVAL (R183). -/
def recWval (r : BitVec 512) : Nat := recBits r 416 32
/-- OVL (R183). -/
def recOvl (r : BitVec 512) : Bool := bit r.toNat 448
/-- FENCE (R183). -/
def recFence (r : BitVec 512) : Bool := bit r.toNat 449
/-- RCB (R183). -/
def recRcb (r : BitVec 512) : Nat := recBits r 455 41 <<< 7
/-- SADD (R183). -/
def recSadd (r : BitVec 512) : Nat := recBits r 496 16

/-- Reserved bits of every record, as (lowest bit, count) (R183). -/
def recReserved : List (Nat × Nat) :=
  [(139, 5), (155, 5), (171, 5), (187, 5), (215, 1), (223, 33), (397, 3), (413, 3), (450, 5)]

/-- What shall be 0 in a fence record (R183). -/
def fenceZero : List (Nat × Nat) :=
  [(0, 64), (128, 64), (199, 25), (256, 64), (448, 1)]

/-- Reason 0x01 (R185). -/
def recMalformed (r : BitVec 512) : Bool :=
  !allZero r.toNat recReserved || recScr r > 64 || recSbase r + recSpcm1 r > 3 ||
  (if recFence r then !allZero r.toNat fenceZero || recBits r 192 7 > 64 else recBits r 192 12 > 2048)

/-- The positions of a rectangle, with dx and dy (R186). -/
def Part.rectangle (p : Part) (r : BitVec 512) : List (Nat × Nat × Nat) :=
  (below (recHm1 r + 1)).flatMap fun dy => (below (recWm1 r + 1)).map fun dx =>
    ((recRow r + dy) % p.h * p.w + (recCol r + dx) % p.w, dx, dy)

/-- The present positions of a rectangle under a context's map; all of them under a refused map (R41, R185). -/
def Part.presentIn (p : Part) (c : Rcb) (r : BitVec 512) : List (Nat × Nat × Nat) :=
  (p.rectangle r).filter fun (n, _) => c.cmap.isEmpty || ((c.cmap[n]?).bind mapCore).isSome

/-- The valid entries of a window table (R112), none if it breaks a rule: start, end, SOFF, CAP and the two dwords. -/
def windowEntries (l : List Byte) : List (Nat × Nat × Nat × Nat × Word × Word) :=
  (below 8).filterMap fun i =>
    let a := dwordAt l (2 * i)
    let b := dwordAt l (2 * i + 1)
    let vb := (if bit a 55 then 0xFF00000000000000 else 0) + bits a 16 40 <<< 16
    if bit a 0 then some (vb, vb + bits b 0 24 * 65536, bits b 30 6, bits b 24 6, wd a, wd b) else none

/-- Does a window table keep R112 for a split of S and PRT? -/
def windowsOk (l : List Byte) (scr prt : Nat) : Bool :=
  let es := windowEntries l
  let meets := fun (a b c d : Nat) => decide (a < d ∧ c < b)
  (es.all fun (vb, ve, so, cap, a, b) =>
    bits a.toNat 1 15 = 0 && bits a.toNat 56 8 = 0 && bits b.toNat 36 28 = 0 && vb < ve && 0 < cap &&
    (vb / 2 ^ 55 = (ve - 1) / 2 ^ 55) && ve ≤ apertureBase && so + cap ≤ 64 - prt && scr ≤ so) &&
  (es.zipIdx.all fun ((vb, ve, so, cap, _, _), i) => es.zipIdx.all fun ((vb', ve', so', cap', _, _), j) =>
    i = j || !(meets vb ve vb' ve' || meets so (so + cap) so' (so' + cap')))

/-- The window table of a record, read through its context (R468): none if it cannot be read; no windows without one. -/
def State.readWindows (s : State) (p : Part) (c : Rcb) (level : Level) (r : BitVec 512) : Option (List Byte) :=
  if recWtab r = 0 then some (List.replicate 128 0)
  else if recWtab r % 64 != 0 then none
  else s.getVa p (wd (bits c.bits.toNat 461 35 <<< 13)) level 2 (recWtab r) 128

/-- The stash that a launch takes in a cluster, in 64 KiB units: S + CAP + PRT (R111, R178). -/
def launchUnits (r : BitVec 512) (wins : List Byte) : Nat :=
  recScr r + ((windowEntries wins).map fun (_, _, _, cap, _, _) => cap).foldl (· + ·) 0 + recPrt r

/-- The clusters that positions touch: 8 positions each (R38). -/
def clustersOf (l : List (Nat × Nat × Nat)) : List Nat := (l.map fun (n, _) => n / 8).eraseDups

/-- The save area of a strand (R186). -/
def saveArea (c : Rcb) (n num : Nat) : Nat := bits c.bits.toNat 593 31 <<< 17 + 131072 * (4 * n + num)

/-- Does CW of a record lie on a DET page (R185)? The leaf of stage 1 says so, also where it refuses the access. -/
def State.cwDet (s : State) (p : Part) (c : Rcb) (r : BitVec 512) : Bool :=
  match walk (s.entryAt p · true) XErr.s1 false (recCw r % 2 ^ 56) levels (bits c.bits.toNat 461 35 <<< 13) with
  | .ok l => canonical (wd (recCw r)) && l.det
  | .error _ => false

/-- The restore entries of a fence record, read through its context (R196, R468). -/
def State.readRestore (s : State) (p : Part) (c : Rcb) (r : BitVec 512) : Option (List Word) :=
  let k := recBits r 192 7
  (s.getVa p (wd (bits c.bits.toNat 461 35 <<< 13)) .app 3 (recArg r)
    (8 * k)).map fun l => (below k).map fun i => wd (dwordAt l i)

/-- The REASON for which a record is refused, 0 if it is not (R185): the lowest that applies. -/
def State.reason (s : State) (p : Part) (level : Level) (r : BitVec 512) : Nat :=
  let rc := s.findQueueRcb p (recRcb r)
  let det := match rc with
    | some (_, c) => s.cwDet p c r
    | none => false
  if recMalformed r then 1
  else if !canonical (wd (recEntry r)) || recEntry r % 4 != 0 || !canonical (wd (recCw r)) || recCw r % 8 != 0 ||
      inAperture (wd (recCw r)) || det then 2
  else if recWm1 r ≥ p.w || recHm1 r ≥ p.h then 3
  else match rc with
    | none => 4
    | some (q, c) =>
      if !p.queueOk q c then 4 else
      let wins := s.readWindows p c level r
      let pos := if recFence r then [] else p.presentIn c r
      let e := ((Eff.device.narrow p.rcb.toNat).narrow c.bits.toNat).narrow q.bits.toNat
      match wins with
      | none => 5
      | some w =>
        let u := launchUnits r w
        let pc := (p.cache c).cache q
        if !windowsOk w (recScr r) (recPrt r) then 5
        else if recPrt r > 64 || (!recFence r && u > 64) ||
            ((pc.caps c.ipa q.ipa 18 256).any fun (_, cap) => u * (clustersOf pos).length > cap) then 6
        else if pos.any fun (n, _) => (below (recSpcm1 r + 1)).any fun j =>
            (s.unmapped p (saveArea c n (recSbase r + j)) 131072).isSome then 7
        else if (recWv r && !(e.semlo ≤ recWsem r && recWsem r ≤ e.semhi)) ||
            (recSv r && !(e.semlo ≤ recSsem r && recSsem r ≤ e.semhi)) then 8
        else if c.cmap.isEmpty then 9
        else if recFence r && (s.readRestore p c r).isNone then 10
        else 0

/-- The 128 bytes at an IPA as an RCB of the level that they state, with the core map of a context's. -/
def State.rawRcb (s : State) (p : Part) (ipa : Nat) : Option Rcb :=
  match s.rawQueueRcb p ipa with
  | some q => if bits q.bits.toNat 0 3 = 2 then s.rawContext p ipa else some q
  | none => none

/-- V of a rectangle word (R320). -/
def Barrier.v (b : Barrier) : Bool := bit b.binding.toNat 63

/-- The positions of a rectangle word (R186, R320). -/
def Part.rectPositions (p : Part) (x : Nat) : List Nat :=
  (below (bits x 48 11 + 1)).flatMap fun dy => (below (bits x 32 11 + 1)).map fun dx =>
    (bits x 16 11 + dy) % p.h * p.w + (bits x 0 11 + dx) % p.w

/-- The population of a barrier: present positions of the binding under the map of the binding context, with the strand
numbers in SMASK (R319). -/
def Part.population (p : Part) (b : Barrier) : List (Nat × Nat) :=
  if !b.v then []
  else
    let x := b.binding.toNat
    ((p.rectPositions x).filter fun n => (p.coreAt b.ctx n).isSome).flatMap fun n =>
      (those 4 fun j => bit x (59 + j)).map fun j => (n, j)

/-- Release the generation when the arrived set equals the population (R323). -/
def Part.settleBar (p : Part) (b : Barrier) : Barrier :=
  let pop := p.population b
  if !pop.isEmpty && (pop.all fun q => b.arrived.contains q) then { b with arrived := [], gen := b.gen + 1 } else b

/-- The barriers of a partition after a position has become absent (R327): it leaves the population and the arrived set,
and a set that now equals a population that is not empty releases. -/
def Part.dropAbsent (p : Part) : Part :=
  { p with bars := p.bars.map fun b =>
      let pop := p.population b
      p.settleBar { b with arrived := b.arrived.filter pop.contains } }

/-- RELOAD of an RCB (R175): it and its cached descendants are read anew and lose a killed mark. Charges of the current period
remain; where PERIOD changes they count in the period that the new value gives (DESIGN CHOICE, log 78). A position that the new
core map leaves out leaves its barriers, and a set that then equals its population releases (R323, R327). -/
def State.reload (s : State) (pid ipa : Nat) : State :=
  match s.part? pid with
  | none => s
  | some p =>
    let fresh := fun (r : Rcb) => ((s.rawRcb p r.ipa).getD { r with killed := false })
    let mine := fun (r : Rcb) => r.ipa = ipa || (bits r.bits.toNat 0 3 = 3 && rcbParent r.bits.toNat = ipa)
    s.modPart pid fun p =>
      let q := { p with rcbs := p.rcbs.map fun r => if mine r then fresh r else r }
      Part.dropAbsent { q with pools := p.pools.map fun x => ⟨x.rcb, q.period s.time x.rcb, p.charge s.time x.rcb⟩ }

/-- Does an address hold a valid context or queue RCB of a partition, as memory holds it now (R175, R176)? -/
def State.rcbValid (s : State) (p : Part) (ipa : Nat) : Bool :=
  match s.loadContext p ipa with
  | some c => !c.cmap.isEmpty
  | none =>
    match (s.rawQueueRcb p ipa).bind (s.queueOf p) with
    | some (q, c) => p.queueOk q c && !c.cmap.isEmpty
    | none => false

/-- A KILL of an RCB that is not cached reads it first, so that the mark stands (R175, R179). -/
def State.cacheRcb (s : State) (p : Part) (ipa : Nat) : State :=
  match s.rawRcb p ipa with
  | none => s
  | some r => s.modPart p.pid fun p => p.cache r

end Sys2Proof.Machine
end

