-- ==== Sys2Proof/Machine/Queue.lean ====
section
/-! DEFINITION. Launch queues: descriptors (R180, R181), taking records (R184, R185), fence records (R196), and the final
states of a launch (R187-R189). -/

namespace Sys2Proof.Machine

/-- A queue of a partition. -/
def Part.queue (p : Part) (q : Nat) : LQueue := nth p.queues q LQueue.closed

/-- Change a queue of a partition. -/
def State.modQueue (s : State) (pid q : Nat) (f : LQueue → LQueue) : State :=
  s.modPart pid fun p => { p with queues := p.queues.modify q f }

/-- Fields of a descriptor's first dword (R181). -/
def LQueue.push (x : LQueue) : Bool := bit x.word0.toNat 1
/-- APPOK (R181). -/
def LQueue.appok (x : LQueue) : Bool := bit x.word0.toNat 2
/-- RPL (R181). -/
def LQueue.rpl (x : LQueue) : Bool := bit x.word0.toNat 3
/-- Records that the ring holds (R181). -/
def LQueue.ringSize (x : LQueue) : Nat := 2 ^ bits x.word0.toNat 4 4
/-- QUANT: 0 acts as 65,536 (R181). -/
def LQueue.quant (x : LQueue) : Nat := if bits x.word0.toNat 32 32 = 0 then 65536 else bits x.word0.toNat 32 32
/-- IPA of record `i` (R181). -/
def LQueue.slotIpa (x : LQueue) (i : Nat) : Nat := bits x.ring.toNat 6 42 <<< 6 + 64 * (i % x.ringSize)
/-- Is the queue full (R181)? -/
def LQueue.full (x : LQueue) : Bool := (x.tail - x.replay).toNat = x.ringSize

/-- Write bytes of a descriptor; a failed write raises scheduler request 0x02 (R181, R195). -/
def State.putDesc (s : State) (p : Part) (q off : Nat) (l : List Byte) : State :=
  match s.putIpa p (p.descIpa q + off) l with
  | (s, true) => s
  | (s, false) => s.request p.pid (2 + q <<< 8)

/-- A queue whose descriptor or ring cannot be read takes no record until its next doorbell (R181). -/
def State.queueFailed (s : State) (pid q : Nat) : State :=
  (s.modQueue pid q fun x => { x with failed := true }).request pid (2 + q <<< 8)

/-- Reread a queue's descriptor (R181), by its doorbell or by a `launch`: it opens when EN is first read as 1; false if the read fails.
REPLAY equals HEAD while RPL = 0. A TAIL too far ahead is a breach, SUP's (R182; log 23). A queue whose read failed takes records again
from its next doorbell on. -/
def State.refresh (s : State) (pid q : Nat) (door : Bool) : State × Bool :=
  match s.part? pid with
  | none => (s, false)
  | some p =>
    match s.ipaBytes p (p.descIpa q) 40 with
    | none => (s.queueFailed pid q, false)
    | some l =>
      let w0 := wd (dwordAt l 0)
      let x := p.queue q
      let head := BitVec.ofNat 32 (dwordAt l 3)
      let y : LQueue := { x with
        failed := x.failed && !door, word0 := w0, ring := wd (dwordAt l 1), tail := BitVec.ofNat 32 (dwordAt l 2) }
      if !bit w0.toNat 0 then (s.modQueue pid q fun _ => { y with isOpen := false }, true)
      else
        let y := if x.isOpen then y else { y with isOpen := true, head := head, replay := head, restore := [], dc := 0 }
        let y := if y.rpl then y else { y with replay := y.head }
        let s := if x.isOpen then s else
          { s with launches := s.launches.filter fun (l : Launch) => !(l.pid = pid && l.queue = some q && l.stat = LStat.waiting) }
        let s := if y.ringSize < (y.tail - y.replay).toNat then s.breach pid 0 .sup else s
        let s := s.modQueue pid q fun _ => y
        (if x.isOpen && y.replay = x.replay then s else s.putDesc p q 32 (leBytes 8 y.replay.toNat), true)

/-- Ring the doorbell of a queue (R180, R181). -/
def State.doorbell (s : State) (pid q : Nat) : State :=
  match s.part? pid with
  | none => s
  | some p => if bit p.lqbase.toNat 0 && q < 64 then (s.refresh pid q true).1 else s

/-- Move HEAD past a record, with REPLAY while RPL is 0, and write both (R181). -/
def State.advanceHead (s : State) (p : Part) (q : Nat) : State :=
  let x := p.queue q
  let h := x.head + 1
  let r := if x.rpl then x.replay else h
  (s.modQueue p.pid q fun x => { x with head := h, replay := r }).putDesc p q 24 (leBytes 8 h.toNat ++ leBytes 8 r.toNat)

/-- The record at HEAD of an open queue: none if there is none; `some none` if it cannot be read (R181). -/
def State.headRecord (s : State) (p : Part) (q : Nat) : Option (Option (BitVec 512)) :=
  let x := p.queue q
  if !x.isOpen || x.failed || x.head = x.tail then none
  else some ((s.ipaNat p (x.slotIpa x.head.toNat) 64).map (BitVec.ofNat 512))

/-- The launches of a queue, oldest first. -/
def State.queueLaunches (s : State) (pid q : Nat) : List Launch :=
  s.launches.filter fun l => l.pid = pid && l.queue = some q

/-- Has the semaphore of a record reached its value (R184)? -/
def Part.semReady (p : Part) (r : BitVec 512) : Bool := !recWv r || recWval r ≤ p.sem (recWsem r)

/-- What a record at HEAD is: refused with a reason, killed, a fence, or a launch (R184). -/
inductive RecKind where
  | refused (reason : Nat)
  | killed
  | fence
  | launch
  deriving DecidableEq, Repr

/-- The kind of a record of a queue. One that is refused and whose RCB is killed too is ready by both (R184); the order of the two answers,
REFUSED first, is the model's (DESIGN CHOICE, log 78). -/
def State.recKind (s : State) (p : Part) (r : BitVec 512) : RecKind :=
  let why := s.reason p .app r
  if why != 0 then .refused why
  else match s.findQueueRcb p (recRcb r) with
    | some (q, c) => if p.isKilled c.ipa q.ipa then .killed else if recFence r then .fence else .launch
    | none => .launch

/-- Is a record of a queue ready (R184)? -/
def State.recReady (s : State) (p : Part) (q : Nat) (r : BitVec 512) : RecKind → Bool
  | .refused _ => true
  | .killed => true
  | .fence => (s.queueLaunches p.pid q).all (·.stat = .final) && p.semReady r
  | .launch =>
    match (s.queueLaunches p.pid q).getLast? with
    | none => true
    | some l => l.stat = .final || (recOvl r && l.stat = .started)

/-- A launch as it is taken from a queue. -/
def mkLaunch (id pid : Nat) (q : Option Nat) (index : Nat) (r : BitVec 512) (wins : List Byte) (ctx rcb : Nat) (level : Level)
    (stat : LStat) : Launch :=
  ⟨id, pid, q, index, r, wins, ctx, rcb, level, stat, 0⟩

/-- A launch ends DONE: its completion word, then its signal (R187, R189). -/
def State.launchDone (s : State) (l : Launch) (f : Nat → Nat) : State :=
  ((s.cwOrRequest l f).signalDone l).modLaunch l.id fun l => { l with stat := .final }

/-- Take the record at HEAD of a queue if it is ready (R184): it is refused, killed, or becomes the waiting launch. Fence
records that are ready are left to `fenceRecord`. -/
def takeRecord (pid q : Nat) : M Unit := do
  let s ← get
  match s.part? pid with
  | none => pure ()
  | some p =>
    match s.headRecord p q with
    | none => pure ()
    | some none => set (s.queueFailed pid q)
    | some (some r) =>
      let kind := s.recKind p r
      if kind = .fence || !s.recReady p q r kind then return
      let id ← newId
      let index := (p.queue q).head.toNat
      let (s1, rc) := (← get).nameRcb pid (recRcb r)
      let (qi, ci) := match rc with
        | some (q, c) => (q.ipa, c.ipa)
        | none => (recRcb r, 0)
      let wins := match rc with
        | some (_, c) => (s1.readWindows p c .app r).getD []
        | none => []
      let stat : LStat := if kind = .launch then .waiting else .final
      let l := mkLaunch id pid (some q) index r wins ci qi .app stat
      let s2 := { s1 with
        launches := (s1.launches.filter fun (x : Launch) => !(x.pid = pid && x.queue = some q && x.stat = LStat.final)) ++ [l] }
      let s3 := s2.advanceHead p q
      set (match kind with
        | .refused why =>
          if rc.isSome then s3.cwOrRequest l fun _ => cwWord 3 0 why 0
          else s3.request pid (1 + q <<< 8 + (index % 2 ^ 32) <<< 16)
        | .killed => s3.cwOrRequest l fun _ => cwWord 4 0 0 0
        | _ => s3)

/-- A ready fence record at HEAD of a queue (R196): the restore copy, DONE, the signal, and REPLAY where RPL is 1. -/
def fenceTake (pid q : Nat) : M Unit := do
  let s ← get
  match s.part? pid with
  | none => pure ()
  | some p =>
    match s.headRecord p q with
    | some (some r) =>
      let kind := s.recKind p r
      if kind != .fence || !s.recReady p q r kind then return
      let id ← newId
      let x := p.queue q
      match (← get).nameRcb pid (recRcb r) with
      | (s1, some (rq, c)) =>
        let rest := (s1.readRestore p c r).getD []
        let l := mkLaunch id pid (some q) x.head.toNat r [] c.ipa rq.ipa .app .final
        let s2 := (s1.advanceHead p q).modQueue pid q fun x => { x with restore := rest }
        let s3 := (s2.cwOrRequest l fun _ => cwWord 2 0 0 0).signalDone l
        set (if x.rpl then
            (s3.modQueue pid q fun x => { x with replay := x.head }).putDesc p q 32 (leBytes 8 (x.head + 1).toNat)
          else s3)
      | _ => pure ()
    | _ => pure ()

/-- Load `n` bytes, a multiple of 8, on the scalar path. -/
def loadBytes (pl : Place) (n : Nat) : M (List Byte) := do
  let mut l : List Byte := []
  for i in below (n / 8) do
    l := l ++ leBytes 8 (← loadPath false { pl with addr := pl.addr + 8 * i } 8)
  return l

/-- `launch` (R182): push the record at sa to queue sb; the status goes to sd. Its notice of the queue counts as a doorbell where one that
failed waits for its next (R181; DEDUCED, log 78). -/
def pushLaunch (a b : Word) : M Nat := do
  let s ← get
  match s.myPart? with
  | none => return 2
  | some p =>
    if 64 ≤ b.toNat || !bit p.lqbase.toNat 0 then return 2
    let q := b.toNat
    let (s1, ok) := s.refresh p.pid q false
    set s1
    match s1.part? p.pid with
    | none => return 2
    | some p =>
      let x := p.queue q
      if !ok || !x.isOpen || !x.push || (s1.me.pl = .app && !x.appok) then return 2
      if x.full then return 1
      waitFor (s1.me.vheld || !(s1.me.vq.any fun e => e.op.isMem))
      modify fun s => s.order (· ≤ 1) (· = 0) 2
      if a.toNat % 64 ≠ 0 then trapAt 8 a
      let pl ← place a .r 6
      let r ← loadBytes pl 64
      let s2 ← get
      match s2.ipaPlace p (x.slotIpa x.tail.toNat) .w true with
      | .error _ =>
        set (s2.request p.pid (2 + q <<< 8))
        return 2
      | .ok slot =>
        let s3 := s2.putDev slot.addr r
        set ((s3.modQueue p.pid q fun x => { x with tail := x.tail + 1, failed := false }).putDesc p q 16 (leBytes 8 (x.tail + 1).toNat))
        return 0

end Sys2Proof.Machine
end

