-- ==== Sys2Proof/Machine/Place.lean ====
section
/-! DEFINITION. Placing launches (R41, R111, R186), switching strands out and resuming them (R164-R167), pools (R177),
withdrawal (R451, R452), and the pick of R190-R193. -/

namespace Sys2Proof.Machine

/-- May the dispatchers place strands on a core (R417, R451, R452)? -/
def State.usable (s : State) (c : CoreId) : Bool :=
  let k := s.ctl c
  !k.removed && !k.wd && k.scanBy.isNone && !bit (s.clusOf c) c.core && (match s.coreBh c with
    | some b => (s.bh b).state = .owned
    | none => false)

/-- The slots of a core without a resident strand. -/
def State.freeSlots (s : State) (c : CoreId) : List Nat :=
  (below 4).filter fun k => !(s.strands.any fun t => t.live && t.place = some (c, k))

/-- The launch of a strand. -/
def State.launchOf (s : State) (t : Strand) : Option Launch := s.launch? t.owner.lid

/-- The queue of a strand's launch. -/
def State.queueOfStrand (s : State) (t : Strand) : Option Nat := (s.launchOf t).bind (·.queue)

/-- Effective priority of a strand (R174). -/
def Part.strandPrio (p : Part) (t : Strand) : Nat := (p.eff t.owner.ctx t.owner.rcb).prio

/-- Deficit of the queue of a strand, 0 for a supervisor launch (R191, R458). -/
def State.strandDc (s : State) (p : Part) (t : Strand) : Int :=
  match s.queueOfStrand t with
  | some q => (p.queue q).dc
  | none => 0

/-- Is some pool that a queue RCB charges exhausted (R177)? -/
def State.poolOut (s : State) (p : Part) (ctx rcb : Nat) : Bool := (p.ownPools ctx rcb).any (p.exhausted s.time)

/-- The present positions of a launch (R41, R186). -/
def Part.present (p : Part) (l : Launch) : List (Nat × Nat × Nat) :=
  match p.rcb? l.ctx with
  | some c => if c.cmap.isEmpty then [] else p.presentIn c l.record
  | none => []

/-- The stash charge of a launch: its units in every cluster that it touches (R178). Two logical clusters of a map that lie in one physical
cluster count as two, though the launch holds one share there (DESIGN CHOICE, log 78). -/
def Part.charge1 (p : Part) (l : Launch) : Nat := launchUnits l.record l.wins * (clustersOf (p.present l)).length

/-- Does a launch fit its stash caps beside the started ones (R178)? -/
def State.capsFit (s : State) (p : Part) (l : Launch) : Bool :=
  (p.caps l.ctx l.rcb 18 256).all fun (a, cap) =>
    let others := s.launches.filter fun x =>
      x.pid = p.pid && x.stat = .started && ((p.caps x.ctx x.rcb 18 256).any fun (b, _) => a = b)
    (others.map p.charge1).foldl (· + ·) (p.charge1 l) ≤ cap

/-- Do the conditions of R184 for a taken launch hold: valid and not killed, pools, semaphore, caps? -/
def State.eligible (s : State) (p : Part) (l : Launch) : Bool :=
  l.stat = .waiting && !p.isKilled l.ctx l.rcb && !s.poolOut p l.ctx l.rcb && p.semReady l.record && s.capsFit p l &&
  (match s.findQueueRcb p l.rcb with
    | some (q, c) => c.ipa = l.ctx && p.queueOk q c && !c.cmap.isEmpty
    | none => false)

/-- Stash units in use in a cluster (R111). -/
def State.unitsUsed (s : State) (cluster : Nat) : List Nat := (s.splits.filter (·.cluster == cluster)).flatMap (·.units)

/-- Strands that may be switched out for work of a queue at a priority (R192, R193), best victim first: `lower` allows
those of lower priority. -/
def State.victims (s : State) (p : Part) (c : CoreId) (prio : Nat) (dc : Int) (lower : Bool) : List Strand :=
  let on := s.strands.filter fun t => t.live && t.place.map (·.1) = some c && t.owner.pid? = some p.pid
  let key := fun (t : Strand) => (p.strandPrio t, s.strandDc p t, t.placedAt)
  let before := fun (a b : Strand) =>
    let (pa, da, ta) := key a
    let (pb, db, tb) := key b
    decide (pa < pb ∨ (pa = pb ∧ (da < db ∨ (da = db ∧ tb ≤ ta))))
  let low := if lower then sortBy before (on.filter fun t => p.strandPrio t < prio) else []
  let same := sortBy before (on.filter fun t =>
    p.strandPrio t = prio && 0 ≤ dc && s.strandDc p t < 0 && (s.queueOfStrand t).isSome && t.placedAt + 64000 ≤ s.time.toNat)
  low ++ same

/-- The strands to switch out so that `k` slots of a core are free: none if that cannot be. -/
def State.makeRoom (s : State) (p : Part) (c : CoreId) (k prio : Nat) (dc : Int) (lower : Bool) : Option (List Nat) :=
  let f := (s.freeSlots c).length
  if k ≤ f then some []
  else
    let v := (s.victims p c prio dc lower).take (k - f)
    if v.length = k - f then some (v.map (·.uid)) else none

/-- Is the strand number of a position held by a live strand of the context (R186)? -/
def State.numberHeld (s : State) (pid ctx n num : Nat) : Bool :=
  s.strands.any fun t => t.live && t.owner.pid? = some pid && t.owner.ctx = ctx && t.pos = n && t.num.toNat = num

/-- Can an eligible launch be placed (R186)? The strands to switch out first (R193), none if it cannot. -/
def State.fits (s : State) (p : Part) (l : Launch) (prio : Nat) (dc : Int) : Option (List Nat) :=
  let k := recSpcm1 l.record + 1
  let pos := p.present l
  let room := (clustersOf pos).all fun cl =>
    match p.coreAt l.ctx ((pos.map Prod.fst).find? (· / 8 == cl) |>.getD 0) with
    | some c => match s.coreCluster c with
      | some pc => (s.unitsUsed pc).length + launchUnits l.record l.wins ≤ 64
      | none => false
    | none => false
  if !room then none
  else pos.foldl (fun acc (n, _) => acc.bind fun v =>
    match p.coreAt l.ctx n with
    | none => none
    | some c =>
      if !s.usable c || (below k).any fun j => s.numberHeld p.pid l.ctx n (recSbase l.record + j) then none
      else (s.makeRoom p c k prio dc true).map (v ++ ·)) (some [])

/-- Put a strand on a slot (R164, R165): a slot that no other strand's vector state occupies is its own. -/
def State.seat (s : State) (uid : Nat) (c : CoreId) (k : Nat) : State :=
  let taken := s.slots.any fun o => o.core = c && o.slot = k && o.uid != uid
  let s := s.modStrand uid fun t => { t with
    place := some (c, k), placedAt := s.time.toNat, clu := (s.coreCluster c).getD t.clu
    vsaved := if taken then t.vsaved else false }
  if taken || (s.slots.any fun o => o.uid = uid) then s else { s with slots := ⟨c, k, uid⟩ :: s.slots }

/-- A free choice among the free slots of a core. -/
def pickSlot (c : CoreId) : M (Option Nat) := do
  let l := (← get).freeSlots c
  return l[← freeBelow l.length]?

/-- The state of a strand at its start (R186); reserved bits of SVEC and HTVEC are not taken (R7, R144). -/
def startStrand (p : Part) (c : Rcb) (l : Launch) (uid n dx dy j : Nat) : Strand :=
  let r := l.record
  let t := Strand.fresh uid (.part p.pid l.ctx l.rcb l.id)
  let num := recSbase r + j
  { t with
    live := true
    pos := n
    num := BitVec.ofNat 2 num
    pc := wd (recEntry r)
    pl := l.level
    s := (((t.s.set 4 (wd (recArg r))).set 5 (wd (dx + dy <<< 16 + j <<< 32))).set 6 (wd (recGvl r))).set 7
      (wd (recWm1 r + recHm1 r <<< 16 + recSpcm1 r <<< 32))
    gvl := BitVec.ofNat 12 (recGvl r)
    asid := BitVec.ofNat 16 (bits c.bits.toNat 384 16)
    ptbase := wd (bits c.bits.toNat 461 35 <<< 13)
    sup := { Bank.zero with vec := wd (bits c.bits.toNat 640 64) &&& vecMask }
    hyp := { Bank.zero with vec := p.htvec &&& vecMask }
    vback := wd (saveArea c n num + 1) }

/-- Take the stash split of a launch in a cluster (R111): its units, zeroed and empty (R114). -/
def State.takeSplit (s : State) (l : Launch) (cluster : Nat) : State :=
  let used := s.unitsUsed cluster
  let free := (below 64).filter fun u => !used.contains u
  let units := free.take (launchUnits l.record l.wins)
  let wins := (windowEntries l.wins).map fun (_, _, _, _, a, b) => (a, b)
  let s := units.foldl (fun s u => s.wipe (stashAt cluster (u * 65536)) 65536) s
  { s with splits := s.splits ++ [⟨l.id, cluster, recScr l.record, recPrt l.record, units, wins⟩] }

/-- Start a waiting launch whole, if it fits without switching anything out (R186, R187). -/
def startLaunch (lid : Nat) : M Unit := do
  let s ← get
  match s.launch? lid with
  | none => pure ()
  | some l =>
    match s.part? l.pid with
    | none => pure ()
    | some p =>
      if !s.eligible p l || s.fits p l (p.eff l.ctx l.rcb).prio (-1) != some [] then return
      let pos := p.present l
      if pos.isEmpty then
        set (s.launchDone l fun _ => cwWord 2 0 0 0)
        return
      match p.rcb? l.ctx with
      | none => pure ()
      | some c =>
        let phys := (pos.filterMap fun (n, _) => (p.coreAt l.ctx n).bind s.coreCluster).eraseDups
        modify fun s => phys.foldl (fun s cl => s.takeSplit l cl) s
        for (n, dx, dy) in pos do
          for j in below (recSpcm1 l.record + 1) do
            match p.coreAt l.ctx n with
            | none => pure ()
            | some core =>
              match ← pickSlot core with
              | none => pure ()
              | some k =>
                let uid ← newId
                modify fun s =>
                  (({ s with others := s.others ++ [startStrand p c l uid n dx dy j] }).seat uid core k).acquireFor uid
        let count := pos.length * (recSpcm1 l.record + 1)
        modify fun s => (s.modLaunch lid fun l => { l with stat := .started, left := count }).cwOrRequest l
          fun _ => cwWord 1 0 0 count

/-- Switch a strand out (R164): its scalar state goes to the save record, its slot becomes free, its vector state stays.
Without a save area its fault domain is killed (R249). -/
def State.switchOut (s : State) (uid : Nat) : State :=
  match s.strand? uid with
  | none => s
  | some t =>
    if !t.resident || t.owner.pid?.isNone then s
    else if !bit t.vback.toNat 0 then s.killDomain uid 0x0A
    else
      let s := s.landed uid
      let t := (s.strand? uid).getD t
      ((s.writeRecord t (s.scalarImage t)).saveBanks uid).modStrand uid
        fun t => { t with place := none, idling := false, waitBar := none }

/-- May a switched-out strand be resumed on its core now, given a free slot (R177, R186)? -/
def State.resumable (s : State) (p : Part) (t : Strand) : Option CoreId :=
  if t.live && t.place.isNone && t.owner.pid? = some p.pid && !s.poolOut p t.owner.ctx t.owner.rcb then
    match p.coreAt t.owner.ctx t.pos with
    | some c => if s.usable c then some c else none
    | none => none
  else none

/-- Resume a switched-out strand on a free slot of the core that the map names for it (R164, R165, R186). Vector state
that it owns on another slot is saved first; its banks and VBACK come back from service memory. -/
def resume (uid : Nat) : M Unit := do
  let s ← get
  match s.strand? uid with
  | none => pure ()
  | some t =>
    match t.owner.pid?.bind s.part? with
    | none => pure ()
    | some p =>
      match s.resumable p t with
      | none => pure ()
      | some c =>
        match ← pickSlot c with
        | none => pure ()
        | some k =>
          if s.slots.any fun o => o.uid = uid && !(o.core = c && o.slot = k) then forceSave uid
          modify fun s => match s.strand? uid with
            | some t => if t.live then (s.seat uid c k).loadBanks uid else s
            | none => s

/-- Switched-out strands of a queue (none: of supervisor launches) at a priority that may run (R190). -/
def State.outWork (s : State) (p : Part) (q : Option Nat) (prio : Nat) : List Strand :=
  s.strands.filter fun t => t.live && t.place.isNone && t.owner.pid? = some p.pid && p.strandPrio t = prio &&
    s.queueOfStrand t = q && !s.poolOut p t.owner.ctx t.owner.rcb

/-- The eligible head of a queue at a priority (R184, R190). -/
def State.headWork (s : State) (p : Part) (q prio : Nat) : Option Launch :=
  (s.queueLaunches p.pid q).find? fun l => (p.eff l.ctx l.rcb).prio = prio && s.eligible p l

/-- Has a queue work at a priority (R190)? -/
def State.hasWork (s : State) (p : Part) (prio q : Nat) : Bool :=
  !(s.outWork p (some q) prio).isEmpty || (s.headWork p q prio).isSome

/-- The pick of R190 among queues (not none): new deficits, and the queue picked. -/
def Part.pick (p : Part) (prio : Nat) (e : List Nat) : Part × Nat :=
  let dc := fun q => (p.queue q).dc
  let quant := fun q => (p.queue q).quant
  let p := if e.any fun q => 0 ≤ dc q then p
    else
      let need := fun (q : Nat) => max 1 ((-(dc q)).toNat + quant q - 1) / quant q
      let k := e.foldl (fun m q => min m (need q)) (need (e.headD 0))
      let bump := fun (x : LQueue) => { x with dc := min (x.dc + k * x.quant) x.quant }
      { p with queues := p.queues.zipIdx.map fun (x, q) => if e.contains q then bump x else x }
  let last := nth p.last prio 63
  let ring := (below 64).map fun i => (last + 1 + i) % 64
  let q := (ring.find? fun q => e.contains q && 0 ≤ (p.queue q).dc).getD (e.headD 0)
  ({ p with last := p.last.set prio q }, q)

/-- What a pick leads to: strands to switch out, strands to resume, strands to switch out for a launch, the launch. -/
structure Plan where
  out : List Nat
  resume : List Nat
  late : List Nat
  start : Option Nat
  deriving DecidableEq, Repr

/-- Switched-out strands that can be seated one after another, and those to switch out for the first that cannot
(R186, R192). -/
def State.planResume (s : State) (p : Part) (prio : Nat) (dc : Int) : List Strand → List (CoreId × Nat) → Plan
  | [], _ => ⟨[], [], [], none⟩
  | t :: rest, used =>
    match s.resumable p t with
    | none => s.planResume p prio dc rest used
    | some c =>
      let taken := (used.filter fun (d, _) => d = c).length
      if taken < (s.freeSlots c).length then
        let r := s.planResume p prio dc rest ((c, taken) :: used)
        { r with resume := t.uid :: r.resume }
      else
        let r := s.planResume p prio dc rest used
        match s.makeRoom p c 1 prio dc false with
        | some (v :: _) => if taken = 0 then { r with out := (v :: r.out).eraseDups, resume := t.uid :: r.resume } else r
        | _ => r

/-- The state in which a plan's switch-outs and resumptions are done, to see what else fits. -/
def State.after (s : State) (p : Part) (x : Plan) : State :=
  let s := x.out.foldl (fun s u => s.modStrand u fun t => { t with place := none }) s
  x.resume.foldl (fun s u =>
    match (s.strand? u).bind fun t => p.coreAt t.owner.ctx t.pos with
    | none => s
    | some c => match (s.freeSlots c).head? with
      | none => s
      | some k => s.modStrand u fun t => { t with place := some (c, k) }) s

/-- What a queue can do at a priority when it is picked (R190): resume its strands that fit, then start its head. -/
def State.plan (s : State) (p : Part) (prio q : Nat) : Plan :=
  let dc := (p.queue q).dc
  let r := s.planResume p prio dc (s.outWork p (some q) prio) []
  match s.headWork p q prio with
  | none => r
  | some l =>
    match (s.after p r).fits p l prio dc with
    | some v => { r with late := v, start := some l.id }
    | none => r

/-- Does a plan do nothing? -/
def Plan.empty (x : Plan) : Bool := x.resume.isEmpty && x.start.isNone

/-- Pick queues until one can do something (R190); a pick that can start nothing leaves deficits and last[p] as they were
(DEDUCED, log 15) and blocks its queue. The partition, the blocked queues, the plan. -/
def State.pickLoop (s : State) (p : Part) (prio : Nat) : (fuel : Nat) → List Nat → Part × List Nat × Plan
  | 0, blocked => (p, blocked, ⟨[], [], [], none⟩)
  | fuel + 1, blocked =>
    let e := (below 64).filter fun q => !blocked.contains q && s.hasWork p prio q
    if e.isEmpty then (p, blocked, ⟨[], [], [], none⟩)
    else
      let (p', q) := p.pick prio e
      let x := s.plan p' prio q
      if x.empty then s.pickLoop p prio fuel (q :: blocked) else (p', blocked, x)

/-- The cores to which work of a partition at a priority is mapped. -/
def State.workCores (s : State) (p : Part) (prio : Nat) : List CoreId :=
  let outs := (s.strands.filter fun t => t.live && t.place.isNone && t.owner.pid? = some p.pid && p.strandPrio t = prio &&
    !s.poolOut p t.owner.ctx t.owner.rcb).filterMap fun t => p.coreAt t.owner.ctx t.pos
  let heads := (s.launches.filter fun l => l.pid = p.pid && (p.eff l.ctx l.rcb).prio = prio && s.eligible p l).flatMap
    fun l => (p.present l).filterMap fun (n, _) => p.coreAt l.ctx n
  outs ++ heads

/-- What a selection at a priority sees: the cores that work at it is mapped to and whose abort priority is not above it are
back in placement (R224, R452). -/
def State.opened (s : State) (p : Part) (prio : Nat) : State :=
  (s.workCores p prio).foldl (fun s c =>
    let k := s.ctl c
    if k.wd && k.aprio.toNat ≤ prio then s.modCtl c fun k => { k with wd := false, scanBy := none } else s) s

/-- The cores on which a plan resumes or starts strands. -/
def State.planCores (s : State) (p : Part) (x : Plan) : List CoreId :=
  (x.resume.filterMap fun u => (s.strand? u).bind fun t => p.coreAt t.owner.ctx t.pos) ++
  ((x.start.bind s.launch?).map fun l => (p.present l).filterMap fun (n, _) => p.coreAt l.ctx n).getD []

/-- A selection of work for cores clears their withdrawal (R452); where a scan of one runs it ends ABORTED, and the work waits for
that (R224). The state, and whether the work can go ahead now. -/
def State.reopen (s : State) (cs : List CoreId) : State × Bool :=
  (cs.foldl (fun s c => if (s.ctl c).wd then s.modCtl c fun k => { k with wd := false } else s) s,
    !cs.any fun c => (s.ctl c).scanBy.isSome)

/-- Events ahead of everything else. -/
def State.ahead (s : State) (l : List (Instr × EvArgs)) : State :=
  { s with agenda := (l.map fun (i, a) => Action.event i a) ++ s.agenda }

/-- An event of one number. -/
def ev1 (x : Nat) : EvArgs := { EvArgs.none with x := x }

/-- The supervisor launches of a partition that wait, and what starting one takes (R458). -/
def State.supWork (s : State) (p : Part) : Option (Launch × List Nat) :=
  (s.launches.filter fun l => l.pid = p.pid && l.queue.isNone && s.eligible p l).findSome? fun l =>
    ((s.opened p (p.eff l.ctx l.rcb).prio).fits p l (p.eff l.ctx l.rcb).prio (-1)).map fun v => (l, v)

/-- One round of the dispatchers of a partition (R190): a supervisor launch first; then, by priority from `7 - done` down,
the strands of supervisor launches, then one pick. What it decides comes next, and then the next round. -/
def State.select (s : State) (pid : Nat) : (left done : Nat) → List Nat → State
  | 0, _, _ => s
  | left + 1, done, blocked =>
    match s.part? pid with
    | none => s
    | some p =>
      match (if done = 0 then s.supWork p else none) with
      | some (l, v) =>
        let does := (v.map fun u => (Instr.strandSwitchOut, ev1 u)) ++ [(.launchStart, ev1 l.id)]
        match s.reopen (s.planCores p ⟨[], [], v, some l.id⟩) with
        | (s, true) => s.ahead does
        | (s, false) => s
      | none =>
        let prio := 7 - done
        let o := s.opened p prio
        let sup := o.planResume p prio (-1) (o.outWork p none prio) []
        let (p', bl, x) := o.pickLoop p prio 65 blocked
        let again := fun (d : Nat) (b : List Nat) =>
          (Instr.dispatchSelection, { EvArgs.none with x := pid, y := d, data := b.map (BitVec.ofNat 8) })
        let does := fun (x : Plan) =>
          (x.out.map fun u => (Instr.strandSwitchOut, ev1 u)) ++ (x.resume.map fun u => (Instr.strandResume, ev1 u)) ++
          (x.late.map fun u => (Instr.strandSwitchOut, ev1 u)) ++ (x.start.map fun l => (Instr.launchStart, ev1 l)).toList
        if !sup.resume.isEmpty then
          match s.reopen (s.planCores p sup) with
          | (s, true) => s.ahead (does sup ++ [again done blocked])
          | (s, false) => s
        else if !x.empty then
          match s.reopen (s.planCores p x) with
          | (s, true) => (s.modPart pid fun _ => p').ahead (does x ++ [again done bl])
          | (s, false) => s
        else s.select pid left (done + 1) []

/-- Has the dispatchers' procedure something to do for a partition? -/
def State.canSelect (s : State) (p : Part) : Bool :=
  (s.supWork p).isSome || (below 8).any fun prio =>
    let s := s.opened p prio
    !(s.planResume p prio (-1) (s.outWork p none prio) []).resume.isEmpty || !(s.pickLoop p prio 65 []).2.2.empty

/-- A partition whose queues without work at any priority keep no surplus (R191). -/
def State.trimmed (s : State) (p : Part) : Part :=
  let idle := fun q => !(below 8).any fun prio => s.hasWork p prio q
  { p with queues := p.queues.zipIdx.map fun (x, q) => if 0 < x.dc && idle q then { x with dc := 0 } else x }

/-- The queues of every partition lose their surplus as soon as they have no work (R191). -/
def State.idleQueues (s : State) : State := { s with parts := s.parts.map s.trimmed }

/-- A queue without work at any priority keeps no surplus (R191). -/
def State.trimDc (s : State) (pid : Nat) : State :=
  match s.part? pid with
  | none => s
  | some p =>
    s.modPart pid fun _ => s.trimmed p

end Sys2Proof.Machine
end

