-- ==== Sys2Proof/Machine/System.lean ====
section
/-! DEFINITION. System instructions (R86, R113, R123, R160, R161, R182, R219-R224) and the steps of traps and watchdogs
(R156, R157). -/

namespace Sys2Proof.Machine

/-- Wait until the queued accesses of the strand have performed, held entries apart (R128). -/
def waitAccesses : M Unit := do
  let t ← me
  waitFor (t.vheld || !(t.vq.any fun e => e.op.isMem))

/-- Every earlier access of the strand has performed at every scope before its later ones to memory begin (R128). -/
def fenceAll : M Unit := do
  waitAccesses
  modify State.settleAll

/-- `fence.part sv, sve` (R123, R128). -/
def fencePosts : M Unit := do
  waitAccesses
  modify fun s => s.order (· ≤ 1) (· ≤ 2) 2

/-- `trap`: the software trap with the value of sa (R219). -/
def execTrapSoft (a : SReg) (s : State) : StepOut := runInstr (do trapAt 0x11 (← readS a)) s

/-- `brk`: the breakpoint trap (R219). -/
def execBrk (s : State) : StepOut := runInstr (trapAt 0x12 0) s

/-- `tret` (R160). -/
def execTret (s : State) : StepOut :=
  runInstr (do
    needLevel .sup .tret
    returnFromTrap) s

/-- `ion` (R161). -/
def execIon (s : State) : StepOut :=
  scalar (do
    needLevel .sup .ion
    modMe fun t => { t with ie := true }) s

/-- `ioff` (R161). -/
def execIoff (s : State) : StepOut :=
  scalar (do
    needLevel .sup .ioff
    modMe fun t => { t with ie := false }) s

/-- Does a condition hold that ends `idle` (R220): a pending event, a port word, or the completion mark? -/
def State.idleOver (s : State) : Bool :=
  let t := s.me
  let target := match s.myPart? with
    | some p => s.isTarget p && (p.pta || !p.reqs.isEmpty)
    | none => false
  target || t.wdgPend || t.mark || (below 4).any fun n => bit t.porten.toNat n && !(nth t.ports.toList n []).isEmpty

/-- `idle` (R220): it retires and clears the mark once a condition holds; until then it has issued and waits. -/
def execIdle (s : State) : StepOut :=
  runInstr (do
    needLevel .sup .idle
    if (← get).idleOver then
      modMe fun t => { t with mark := false, idling := false }
      advance 4
    else modMe fun t => { t with idling := true }) s

/-- Does work at or above a strand's priority wait for a slot on its core (R221)? -/
def State.yieldTo (s : State) (t : Strand) : Bool :=
  match t.owner.pid?.bind s.part?, t.place with
  | some p, some (c, _) =>
    let prio := p.strandPrio t
    let out := s.strands.any fun x => x.live && x.place.isNone && x.owner.pid? = some p.pid && prio ≤ p.strandPrio x &&
      (s.queueOfStrand x).isSome && !s.poolOut p x.owner.ctx x.owner.rcb && p.coreAt x.owner.ctx x.pos = some c
    let head := s.launches.any fun l => l.pid = p.pid && l.queue.isSome && prio ≤ (p.eff l.ctx l.rcb).prio && s.eligible p l &&
      (s.freeSlots c).length < recSpcm1 l.record + 1 && (p.present l).any fun (n, _) => p.coreAt l.ctx n = some c
    ((s.freeSlots c).isEmpty && out) || head
  | _, _ => false

/-- `yield` (R221): it retires; the strand is switched out at the boundary behind it if work waits for its core. -/
def execYield (s : State) : StepOut :=
  scalar (modify fun s =>
    if s.yieldTo s.me then s.ahead [(.strandSwitchOut, ev1 s.me.uid)] else s) s

/-- All flag sets of a strand together (R188). -/
def Strand.allFlags (t : Strand) : FSet := t.lanes.toList.foldl (· ||| ·) t.fflags

/-- COMPLETION_WORD_UPDATE (R188): flags OR, count − 1, DONE at zero. -/
def endCw (fl : FSet) (w : Nat) : Nat :=
  let count := (bits w 32 32 + 2 ^ 32 - 1) % 2 ^ 32
  let low := bits w 0 32 ||| (fl.toNat <<< 8)
  (if count = 0 then low - bits low 0 3 + 2 else low) + count <<< 32

/-- The completion word, the launch and its signal at the end of a strand (R188, R189). Where the DONE write fails the launch
signals all the same (DESIGN CHOICE, log 78). -/
def State.endLaunch (s : State) (t : Strand) : State :=
  match s.launchOf t with
  | none => s
  | some l =>
    let s := (s.cwOrRequest l (endCw t.allFlags)).modLaunch l.id fun l => { l with left := l.left - 1 }
    if l.left ≤ 1 then (s.signalDone l).modLaunch l.id fun l => { l with stat := .final } else s

/-- `end` (R222): it waits for the vector queue, discards held entries, and removes the strand; its accesses have
performed. -/
def execEndStrand (s : State) : StepOut :=
  runInstr (do
    let t ← me
    waitFor (t.vheld || t.vq.isEmpty)
    modify fun s => (s.settleAll.endLaunch t).removeStrand t.uid) s

/-- The PMA of a partition that stands at an HBM address (R109). -/
def Part.pmaOf (p : Part) (a : Nat) : Nat :=
  let loc := a % 2 ^ 34
  (loc / 4096 * p.nb + p.lb (a / 2 ^ 34)) * 4096 + loc % 4096

/-- Does a cached page translate to an HBM address? -/
def Cached.reaches (p : Part) (a : Nat) : Cached → Bool
  | .page x =>
    let out := x.l2.oa + x.ipa % x.l2.size
    a < 2 ^ 40 && out ≤ p.pmaOf a && p.pmaOf a < out + x.size
  | .table _ _ => false

/-- Remove cached translations of a partition, and complete (R123, R431): no access uses them any more, and each that used one has
performed at partition scope. -/
def State.dropEntries (s : State) (p : Part) (f : Tlb → Bool) : State :=
  let s := s.landAll
  let gone := s.tlb.filter fun t => t.pid = p.pid && f t
  let mine := fun (u : Nat) => (s.strand? u).any fun t => t.owner.pid? = some p.pid
  { s with tlb := s.tlb.filter fun t => !(t.pid = p.pid && f t) }.reveal fun x =>
    if mine x.uid && gone.any fun t => t.what.reaches p x.addr then x.hid.filter (· == Viewer.fetch) else x.hid

/-- Remove cached translations of the executing strand's partition. -/
def dropTlb (f : Tlb → Bool) : M Unit := modify fun s =>
  match s.myPart? with
  | none => s
  | some p => s.dropEntries p f

/-- Is an entry one of those that translate the page that holds an address (R123): of that ASID or with G = 1, each piece of the
stage-1 page, and the non-leaf entries on the way? -/
def Tlb.covers (va : Nat) (asid : BitVec 16) (t : Tlb) : Bool :=
  (t.what.global || t.asid = asid) &&
  (match t.what with
    | .page x => t.va / x.l1.size = va / x.l1.size
    | .table _ _ => t.va ≤ va && va < t.va + t.size)

/-- `tlbi` (R123): `fence.part sv, sve`, then the entries for the page and ASID, and those with G = 1. -/
def execTlbi (a b : SReg) (s : State) : StepOut :=
  scalar (do
    needLevel .sup (.tlbi a b)
    let va := (← readS a).toNat
    let asid := (← readS b).setWidth 16
    fencePosts
    dropTlb (Tlb.covers va asid)) s

/-- `tlbia` (R123): every stage-1 entry of the partition. -/
def execTlbia (s : State) : StepOut :=
  scalar (do
    needLevel .sup .tlbia
    fencePosts
    dropTlb fun _ => true) s

/-- `launch` (R182, R467). -/
def execLaunch (d a b : SReg) (s : State) : StepOut :=
  scalar (do
    let _ ← needPart (.launch d a b)
    let x ← readS a
    let q ← readS b
    writeS d (wd (← pushLaunch x q))) s

/-- `swb` (R113): windows are coherent, so it changes no value; it never faults. -/
def execSwb (a b : SReg) (s : State) : StepOut :=
  scalar (do
    let _ ← readS a
    let _ ← readS b) s

/-- The expected signature of a scan pattern (R453). -/
def scanSig (pat : Nat) : BitVec 32 :=
  nth [0x6B2D0E91#32, 0x1C77A4F3#32, 0xD3055B28#32] pat 0x8E4AC61D#32

/-- Does a core hold nothing: no resident strand, no vector state, no pins (R451)? -/
def State.drained (s : State) (c : CoreId) : Bool :=
  !(s.strands.any fun t => t.live && t.place.map (·.1) = some c) && !(s.slots.any fun o => o.core = c)

/-- The core that 13 bits in the layout of PHYSID name (R146). -/
def physCore (x : Nat) : CoreId := ⟨bits x 0 2, bits x 2 4, bits x 6 3, bits x 9 4⟩

/-- The result of `test.scan` (R224): a status and a signature; none while the scan still runs. A core that is sound
gives the expected signature, one that is not another (log 16). -/
def scanResult (x : Nat) : M (Option (Nat × BitVec 32)) := do
  let s ← get
  let c := physCore x
  let pat := bits x 16 8
  let k := s.ctl c
  if bits x 13 3 != 0 || bits x 24 40 != 0 || 8 < c.col || 8 < c.core || 3 < pat then return some (3, 0)
  else if k.scanBy = some s.me.uid then
    if !k.wd then
      modify fun s => s.modCtl c fun k => { k with scanBy := none }
      return some (1, 0)
    else if ← freeBool then
      let other ← free
      let sound ← freeBool
      let sig := if sound then scanSig pat else BitVec.ofNat 32 other
      modify fun s => s.modCtl c fun k => { k with scanBy := none, pat := pat, sig := sig }
      return some (0, sig)
    else return none
  else if !k.wd || !s.drained c || k.scanBy.isSome then return some (2, 0)
  else
    modify fun s => s.modCtl c fun k => { k with scanBy := some s.me.uid }
    return none

/-- `test.scan` (R224): while the pattern runs the instruction stays issued; asynchronous events wait for it. -/
def execTestScan (d a : SReg) (s : State) : StepOut :=
  runInstr (do
    needLevel .mon (.testScan d a)
    let x ← readS a
    match ← scanResult x.toNat with
    | none => throw (.stall true)
    | some (st, sig) =>
      writeS d (wd (st + sig.toNat <<< 32))
      advance 4) s

/-- Does an address lie in the host aperture (R108, R223), whatever its page permits? -/
def State.inHost (s : State) (p : Part) (ptbase va : Word) : Bool :=
  canonical va && (match walk (s.entryAt p) XErr.s1 false (va.toNat % 2 ^ 56) levels (rootOf ptbase) with
    | .error _ => false
    | .ok l1 => match s.stage2 p (l1.oa + va.toNat % l1.size) with
      | .error _ => false
      | .ok l2 => bits (l2.oa + (l1.oa + va.toNat % l1.size) % l2.size) 46 2 = 2)

/-- The translation of an address for a write by `dfin`, none in the host aperture; what was collapsed before a fault stays
(R223). -/
def dfinPlace (va trapVal : Word) : M (Option Place) := do
  let s ← get
  match s.me.owner with
  | .part pid _ _ _ =>
    if (s.part? pid).any fun p => s.inHost p s.me.ptbase va then return none
    match ← xlate s.myTlbs pid s.me.asid s.me.ptbase s.me.pl va .w with
    | .ok pl => return some pl
    | .error e => throw (.trap ⟨7, trapVal, e.route⟩ true)
  | _ => return some (← place va .w 7)

/-- Collapse the active elements that meet [va, stop) on DET pages, in ascending order, piece by piece of 4 KiB (R109, R223).
Between two pages it may be abandoned: it reissues in full. -/
def dfinFrom (start stop : Nat) : (fuel va : Nat) → M Unit
  | 0, _ => pure ()
  | fuel + 1, va => do
    if stop ≤ va then return
    let next := min stop ((va / 4096 + 1) * 4096)
    if !inAperture (wd va) then
      match ← dfinPlace (wd va) (wd (max start (va / 65536 * 65536))) with
      | none => pure ()
      | some pl =>
        if pl.det then
          modify fun s => (s.accums.filter fun c => c.meets pl.addr (next - va)).foldl State.collapse s
    if next < stop && next % 65536 = 0 then
      if ← freeBool then stallKeep
    dfinFrom start stop fuel next

/-- `dfin` (R223). -/
def execDfin (a b : SReg) (s : State) : StepOut :=
  scalar (do
    let x := (← readS a).toNat
    let n := (← readS b).toNat
    if 2 ^ 64 < x + n then trapAt 7 (wd x)
    if n != 0 then dfinFrom x (x + n) (n / 4096 + 2) x) s

/-- A pending asynchronous event is taken (R156, R316). -/
def execAsyncTrapEntry (s : State) : StepOut := .next s.takeAsync

/-- WDOG of a strand has reached 0: its watchdog is pending (R157). -/
def execWdogExpiry (s : State) : StepOut :=
  .next (s.modStrand s.ev.x fun t => if t.live then { t with wdgPend := true } else t)

end Sys2Proof.Machine
end

