-- ==== Sys2Proof/Machine/EngineCalls.lean ====
section
/-! DEFINITION. Engine calls (R16-R33, R178, R226-R229): addresses, tickets, the call table, back-pressure, and the
instructions `post`, `await`, `probe` and `otok`. -/

namespace Sys2Proof.Machine

/-- Fields of an engine address (R19). -/
def eaKind (a : Word) : Nat := bits a.toNat 0 4
/-- QUEUE (R19). -/
def eaQueue (a : Word) : Nat := bits a.toNat 4 4
/-- INDEX (R19). -/
def eaIndex (a : Word) : Nat := bits a.toNat 8 12
/-- NW (R19). -/
def eaNw (a : Word) : Bool := bit a.toNat 20
/-- RV (R19). -/
def eaRv (a : Word) : Bool := bit a.toNat 21
/-- VRET (R19). -/
def eaVret (a : Word) : Nat := bits a.toNat 22 6
/-- RK (R19). -/
def eaRk (a : Word) : Bool := bit a.toNat 28
/-- KRET (R19). -/
def eaKret (a : Word) : Nat := bits a.toNat 29 3

/-- The typed queues of a kind (R20): their depths and whether `postv` delivers. -/
def kindQueues (kind : Nat) : List (Nat × Bool) :=
  nth [[(32, false)], [(64, false), (64, false), (64, false)], [(64, true)], [(16, false)],
    [(64, false), (256, true), (16, false)], [(256, true), (256, true), (16, false)], [(256, true)]] kind []

/-- How many engines of a kind a partition has (R16). -/
def Part.engines (p : Part) (kind : Nat) : Nat := if perCluster kind then 8 * p.nb else p.nb

/-- The logical index of an address for a strand (R17). -/
def ownIndex (t : Strand) (a : Word) : Nat :=
  if eaIndex a = 0xFFF then (if perCluster (eaKind a) then t.pos / 8 else t.pos / 64) else eaIndex a

/-- The registers of the return group, and the return mask, that a call type has; none: the address names one that the
type does not have, or the group passes v63, or k0 (R21, R333, R343, R357, R369, R388, R398, R406, R408). -/
def callReturns (a : Word) : Option (List Nat × Option Nat) :=
  let rv := eaRv a
  let rk := eaRk a
  let mask := if rk then some (eaKret a) else none
  let regs := fun (n : Nat) => if rv then (below n).map (eaVret a + ·) else []
  let ok := fun (n : Nat) => (!rv || eaVret a + n ≤ 64) && (!rk || eaKret a != 0)
  match eaKind a, eaQueue a with
  | 2, 0 => if rk || !ok 4 then none else some (regs 4, none)
  | 4, 0 => if ok 1 then some (regs 1, mask) else none
  | 5, 0 => if ok 5 then some (regs 5, mask) else none
  | 5, 1 => if ok 5 then some (regs 5, mask) else none
  | _, _ => if rv || rk then none else some ([], none)

/-- Is an engine address well formed for a strand of a partition (R21)? -/
def eaOk (p : Part) (t : Strand) (a : Word) (vec : Bool) : Bool :=
  bits a.toNat 32 32 = 0 && ownIndex t a < p.engines (eaKind a) &&
  (match (kindQueues (eaKind a))[eaQueue a]? with
    | some (_, v) => v = vec
    | none => false) && (callReturns a).isSome

/-- The bulkhead of an engine. -/
def engBh (kind eng : Nat) : Nat := if perCluster kind then eng / 8 else eng

/-- Is a queue full for a context (R30)? -/
def State.queueFull (s : State) (kind eng queue pid ctx : Nat) : Bool :=
  let l := s.calls.filter fun c => c.kind = kind && c.eng = eng && c.queue = queue
  let depth := (nth (kindQueues kind) queue (0, false)).1
  depth ≤ l.length || depth * 3 / 4 ≤ (l.filter fun c => c.pid = pid && c.ctx = ctx).length

/-- The pending calls that are charged to an ENGQ cap (R178). -/
def State.engqCharge (s : State) (p : Part) (a : Nat) : Nat :=
  (s.calls.filter fun c => c.pid = p.pid && (p.caps c.ctx c.rcb 21 288).any fun (b, _) => a = b).length

/-- Would one more call exceed an ENGQ cap (R178)? -/
def State.engqOver (s : State) (p : Part) (ctx rcb : Nat) : Bool :=
  (p.caps ctx rcb 21 288).any fun (a, cap) => cap ≤ s.engqCharge p a

/-- The slot that a post takes: the lowest free one, else that of the earliest posted DONE call; it waits while one is
PENDING, and traps when none is (R24). -/
def pickCallSlot : M Nat := do
  let t ← me
  let cs := t.calls.zipIdx
  match cs.find? fun (o, _) => o.isNone with
  | some (_, i) => return i
  | none =>
    let done := cs.filterMap fun (o, i) => match o with
      | some x => if x.stat = .done then some (x.order, i) else none
      | none => none
    match done with
    | [] =>
      if t.calls.any fun o => match o with
        | some x => x.stat = .pending
        | none => false
      then stall
      else trapAt 0x10 2
    | d :: rest => return (rest.foldl (fun b x => if x.1 < b.1 then x else b) d).2

/-- The channels that a texture descriptor has by its FMT, as the caller can read it at the post; all four if it cannot
(R388; DEDUCED, log 18). -/
def State.txuChannels (s : State) (p : Part) (t : Strand) (regs : List RecReg) : Nat :=
  let r := (regs.head?.map (·.bits.toNat)).getD 0
  match s.getVa p t.ptbase t.pl 2 (bits r 0 64 / 64 * 64) 64 with
  | some l => nth [4, 4, 1, 2] (bits (dwordAt l 1) 36 4) 4
  | none => 4

/-- What a post sends (R22, R306): its engine address, delivery, record, record registers, VLEN and activity map, and
whether the record has an uncorrectable error. -/
structure Post where
  addr : Word
  vec : Bool
  record : BitVec 512
  regs : List RecReg
  vl : Nat
  act : MBits
  bad : Bool
  deriving DecidableEq, Repr

/-- The all-ones BUSY ticket (R22). -/
def busyTicket : Word := BitVec.allOnes 64

/-- Take a slot for a call (R22, R226): the count advances. -/
def openSlot (kind queue index : Nat) (stat : TStat) (rc : Word) : M (Nat × Slot) := do
  let i ← pickCallSlot
  let t ← me
  let x : Slot := ⟨t.posts + 1, kind, queue, index, stat, rc, t.postOrder⟩
  modMe fun t => { t with
    calls := t.calls.set i (some x), posts := t.posts + 1, postOrder := t.postOrder + 1
    mark := t.mark || stat != .pending }
  return (i, x)

/-- Is a register that a call will return still pending, or, at a `post`, named by a queued entry that comes before it
(R31, R238; DEDUCED, log 19)? -/
def Strand.returnsBusy (t : Strand) (vec : Bool) (rets : List Nat) (rk : Option Nat) : Bool :=
  rets.any (fun r => t.vpend.getLsbD r) || (match rk with
    | some k => t.kpend.getLsbD k
    | none => false) ||
  (!vec && !t.vheld && t.vq.any fun e =>
    (e.names t).any rets.contains || e.op.masks.any fun k => rk = some k)

/-- How the engine of a call reads (R28, R124). -/
def Call.reader (c : Call) : Reader := .engine c.uid (if perCluster c.kind then some c.eng else none)

/-- The bytes of stores that a new call may still miss: for as long as it runs they are written without order to it, whatever is fenced
later (R28, R340, R366, R391, R413). -/
def State.missedAtPost (s : State) (c : Call) : List Race :=
  (s.recent.filter fun x => [0, 2, 3, 5].contains c.kind && x.missed c.reader).flatMap fun x =>
    ((below 8).filter x.mask.getLsbD).map fun i => ⟨c.id, x.addr + i, 1, false⟩

/-- Post a call (R226, R307): the ticket. Stalls of any kind leave nothing behind (R30). An open tile that a return register
belongs to is merged first (R243). -/
def postCall (p : Part) (x : Post) : M Word := do
  let s ← get
  let t := s.me
  let kind := eaKind x.addr
  let queue := eaQueue x.addr
  let index := ownIndex t x.addr
  let ok := eaOk p t x.addr x.vec
  let none' := x.vec && x.act = 0
  let ctx := t.owner.ctx
  let eng := s.engOf p ctx kind index
  let full := ok && !none' && s.queueFull kind eng queue p.pid ctx
  if full && eaNw x.addr then return busyTicket
  let past := s.engqOver p ctx t.owner.rcb
  let (stat, rc) : TStat × Word := if !ok then (.fault, faultRecord 1 kind queue 0)
    else if none' then (.done, 0)
    else if past then (.fault, faultRecord 8 kind queue 0)
    else (.pending, 0)
  let (i, sl) ← openSlot kind queue index stat rc
  waitFor !full
  if stat != .pending then return wd (sl.ticket i)
  let (rets0, rk) := (callReturns x.addr).getD ([], none)
  let rets := if kind = 2 then rets0.take (s.txuChannels p t x.regs) else rets0
  waitFor (!t.returnsBusy x.vec rets rk)
  for r in rets do
    mergeFor t.uid r
  let id ← newId
  let c : Call := {
    id := id, uid := t.uid, slot := i, seq := sl.seq, pid := p.pid, ctx := ctx, rcb := t.owner.rcb, lid := t.owner.lid
    kind := kind, queue := queue, index := index, eng := eng, record := x.record, regs := x.regs, vl := x.vl
    act := x.act, rets := rets, rk := rk, peer := none, prio := (p.eff ctx t.owner.rcb).prio
    asid := t.asid, ptbase := t.ptbase, level := t.pl
    started := false, moved := 0, todo := [], held := [], grans := [], rows := [], pos := t.pos
    flags := 0, suspensions := 0, suspended := false }
  modify fun s =>
    let s := { s with
      me := { s.me with
        vpend := rets.foldl (fun m r => setBit m r true) s.me.vpend
        kpend := match rk with
          | some k => setBit s.me.kpend k true
          | none => s.me.kpend }
      calls := s.calls ++ [c]
      raced := s.missedAtPost c ++ s.raced }
    let b := s.bh (engBh kind eng)
    if b.lost then s.callFault c 0x17 0
    else if b.state != .owned then (s.spoilSort c).callReset c
    else if x.bad then s.callFault c 7 0
    else s
  return wd (sl.ticket i)

/-- The feature group and partition of an engine-call instruction (R98, R467). -/
def needCall (i : Instr) : M Part := do
  let p ← needPart i
  needGroup 2 i
  return p

/-- A dword of a call record as a post reads it (R28, R128). -/
def loadRec (pl : Place) : M Nat := do
  let s ← get
  if pl.lags then readAs (.record s.me.uid s.myCore) pl.addr 8 else loadPath false pl 8

/-- 64 bytes at an address as one scalar load (R28): the record, and whether it has an uncorrectable error. -/
def loadRecord (b : Word) : M (BitVec 512 × Bool) := do
  aligned b 64
  let pl ← place b .r 6
  let mut n := 0
  for i in below 8 do
    n := n + (← loadRec { pl with addr := pl.addr + 8 * i }) <<< (64 * i)
  return (BitVec.ofNat 512 n, (← get).badAt pl.addr 64)

/-- `post` (R226). -/
def execPostCall (d a b : SReg) (s : State) : StepOut :=
  scalar (do
    let p ← needCall (.postCall d a b)
    let x ← readS a
    let y ← readS b
    let (rec0, bad) ← loadRecord y
    writeS d (← postCall p ⟨x, false, rec0, [], 0, 0, bad⟩)) s

/-- What a ticket names (R227): BUSY, STALE, or a slot. -/
inductive Looked where
  | code (n : Nat)
  | slot (i : Nat) (x : Slot)
  deriving DecidableEq, Repr

/-- The first two steps of `await` and `probe` (R227, R228). -/
def Strand.look (t : Strand) (x : Word) : Looked :=
  if x = busyTicket then .code 4
  else
    let i := bits x.toNat 0 6
    match nth t.calls i none with
    | none => .code 5
    | some sl => if sl.ticket i = x.toNat then .slot i sl else .code 5

/-- Does a call slot of a strand hold a ticket? -/
def Strand.holds (t : Strand) (x : Word) : Bool := t.calls.zipIdx.any fun (c, i) => c.any fun sl => sl.ticket i = x.toNat

/-- A ticket that another strand holds has been given to `await` or `probe` (R27): the status is that of R227 and R228, and R12 applies. -/
def noteForeign (x : Word) : M Unit :=
  modify fun s => match s.me.owner, s.me.look x with
    | .part pid ctx _ _, .code 5 => if s.others.any fun t => t.live && t.holds x then s.breach pid ctx s.me.pl else s
    | _, _ => s

/-- Free a slot (R24). -/
def freeCallSlot (i : Nat) : M Unit := modMe fun t => { t with calls := t.calls.set i none }

/-- `await` up to its fault trap (R227): the fault record, if it ends in one. -/
def awaitBody (i : Instr) (d a : SReg) : M (Option Word) := do
  let _ ← needCall i
  let x ← readS a
  noteForeign x
  let fin : Option Word ← match (← me).look x with
    | .code n => do
      writeS d (wd n)
      pure none
    | .slot k sl => do
      waitFor (sl.stat != .pending)
      freeCallSlot k
      if sl.stat = .fault then pure (some sl.record)
      else do
        if sl.stat = .done then modify State.acquire
        writeS d (wd sl.stat.code)
        pure none
  if fin.isNone then advance 4
  return fin

/-- `await` (R25, R227): a FAULT frees its slot and then traps. -/
def execAwaitCall (d a : SReg) (s : State) : StepOut :=
  match (awaitBody (.awaitCall d a) d a).run s with
  | .ok none s' => .next s'
  | .ok (some rc) s' => .next ({ s with me := { s.me with calls := s'.me.calls } }.takeTrap ⟨0x10, rc, .sup⟩ false false)
  | .error e _ => runInstr (throw e) s

/-- `probe` (R228): it never waits and never traps on a status. -/
def execProbeCall (d a : SReg) (s : State) : StepOut :=
  scalar (do
    let _ ← needCall (.probeCall d a)
    let x ← readS a
    noteForeign x
    match (← me).look x with
    | .code n => writeS d (wd n)
    | .slot k sl =>
      if sl.stat != .pending then freeCallSlot k
      if sl.stat = .done then modify State.acquire
      writeS d (wd sl.stat.code)) s

/-- The count of an ordering sequence (R33). -/
def Part.otok (p : Part) (n : Nat) : Nat := ((p.otoks.find? (·.1 == n)).map (·.2)).getD 0

/-- Set the count of an ordering sequence (R33): it wraps at 2^32. -/
def Part.setOtok (p : Part) (n c : Nat) : Part :=
  { p with otoks := (if c % 2 ^ 32 = 0 then [] else [(n, c % 2 ^ 32)]) ++ p.otoks.filter (·.1 != n) }

/-- `otok` (R33, R229). -/
def execOtok (d a : SReg) (s : State) : StepOut :=
  scalar (do
    let p ← needCall (.otok d a)
    let n := bits (← readS a).toNat 0 8
    modMyPart fun p => p.setOtok n (p.otok n + 1)
    writeS d (wd (p.otok n + n <<< 32))) s

end Sys2Proof.Machine
end

