-- ==== Sys2Proof/Machine/Engine.lean ====
section
/-! DEFINITION. What the engines share (R25, R26, R28-R37): the run of a call to its final status, operands by virtual
address, and operands in scratch. -/

namespace Sys2Proof.Machine

/-- A fault of a call: its code and the address, 0 where there is none (R25, R26). -/
structure CallFault where
  code : Nat
  va : Nat
  deriving DecidableEq, Repr

/-- The monad of an engine's work. What it did before a fault stays. -/
abbrev E := EStateM CallFault State

/-- End a call FAULT. -/
def faultAt (code : Nat) (va : Nat := 0) : E α := throw ⟨code, va⟩

/-- Fault unless the condition holds. -/
def require (b : Bool) (code : Nat) (va : Nat := 0) : E Unit := if b then pure () else faultAt code va

/-- A choice or an access of the machine inside an engine's work; an error inside the engine otherwise (R26). -/
def ofM (m : M α) : E α := fun s =>
  match m.run s with
  | .ok a s' => .ok a s'
  | .error _ s' => .error ⟨9, 0⟩ s'

/-- A call ends by the outcome of its work. -/
def endCall (c : Call) (m : E Unit) (s : State) : State :=
  match m.run s with
  | .ok _ s' => s'.callDone c
  | .error f s' => s'.callFault c f.code f.va

/-- The call of a name. -/
def State.call? (s : State) (cid : Nat) : Option Call := s.calls.find? (·.id == cid)

/-- Change a call. -/
def State.modCall (s : State) (cid : Nat) (f : Call → Call) : State :=
  { s with calls := s.calls.map fun c => if c.id = cid then f c else c }

/-- A call's step: it ends FAULT by a fault of its work, DONE where the work answers that it is complete. -/
def stepCall (c : Call) (m : E Bool) (s : State) : State :=
  match m.run s with
  | .ok true s' => s'.callDone c
  | .ok false s' => s'
  | .error f s' => s'.callFault c f.code f.va

/-- The calls of a queue of an engine, in acceptance order (R29). -/
def State.queued (s : State) (kind eng queue : Nat) : List Call :=
  s.calls.filter fun c => c.kind = kind && c.eng = eng && c.queue = queue

/-- The effective priority of a call's queue RCB now (R174). -/
def State.callPrio (s : State) (c : Call) : Nat :=
  match s.part? c.pid with
  | some p => (p.eff c.ctx c.rcb).prio
  | none => 0

/-- Does a call run on its engine: taken up and not suspended (R339, R364)? -/
def Call.runs (c : Call) : Bool := c.started && !c.suspended

/-- Is a call the one that its engine selects: the highest priority, then the one that runs, then acceptance order (R339,
R364)? -/
def State.selects (s : State) (prio : Call → Nat) (c : Call) : Bool :=
  !(s.queued c.kind c.eng c.queue).any fun d =>
    prio c < prio d || (prio d = prio c && (if c.runs = d.runs then d.id < c.id else d.runs))

/-- The engine takes a call up: one that ran before it is suspended; a suspended one resumes (R338, R339, R364). -/
def State.takeUp (s : State) (c : Call) : State :=
  { s with calls := s.calls.map fun d =>
      if d.id = c.id then
        { d with started := true, suspended := false, suspensions := if d.suspended then d.suspensions + 1 else d.suspensions }
      else if d.kind = c.kind && d.eng = c.eng && d.queue = c.queue && d.started then { d with suspended := true } else d }

/-- Is an ENGQ cap of a call's caller exceeded when its engine comes to it (R178, R334, R349, R362, R382, R390, R411)? -/
def State.engqPast (s : State) (c : Call) : Bool :=
  match s.part? c.pid with
  | none => false
  | some p => (p.caps c.ctx c.rcb 21 288).any fun (a, cap) => cap < s.engqCharge p a

/-- An outcome as a value: what was done stays. -/
def tryE {α : Type} (m : E α) : E (Except CallFault α) := fun s =>
  match m.run s with
  | .ok a s' => .ok (.ok a) s'
  | .error e s' => .ok (.error e) s'

/-- Unspecified bytes (log 7). -/
def freeBytes : (n : Nat) → E (List Byte)
  | 0 => return []
  | n + 1 => do return BitVec.ofNat 8 (← ofM (freeBelow 256)) :: (← freeBytes n)

/-- The call that an engine's step names, if it is one of the given queue and type, and the condition holds. -/
def callStep (kind queue : Nat) (ok : State → Call → Bool) (f : Call → State → State) (s : State) : StepOut :=
  match s.call? s.ev.x with
  | some c => .next (if c.kind = kind && c.queue = queue && ok s c then f c s else s)
  | none => .next s

/-- A free part of a list, and the rest: all of it, or a free choice for each. -/
def freePart {α : Type} (l : List α) : E (List α × List α) := do
  if ← ofM freeBool then return (l, [])
  let mut a : List α := []
  let mut b : List α := []
  for x in l do
    if ← ofM freeBool then a := a ++ [x] else b := b ++ [x]
  return (a, b)

/-- The TLBs of the engine of a call (R2, R121): its cluster's and its die's. -/
def Call.tlbs (c : Call) : List TlbPlace :=
  if perCluster c.kind then [.cluster c.eng, .die (c.eng / 64)] else [.die (c.eng / 8)]

/-- The place of an operand of a call (R26): a scratch-aperture address does not translate. -/
def operand (c : Call) (va : Word) (acc : Acc) : E Place := do
  if inAperture va then faultAt 4 va.toNat
  match ← ofM (xlate c.tlbs c.pid c.asid c.ptbase c.level va acc) with
  | .ok pl => return pl
  | .error e => faultAt (if e.nack then 0x17 else if e.perm then 5 else 4) va.toNat

/-- The pieces of a range by 4 KiB (R109). -/
def rangeOf (va n : Nat) : List (Nat × Nat) := pieces 4096 (n / 4096 + 2) va n

/-- Bytes of memory as the engine of a call reads them: each dword with the stores that it may still miss seen or not (R28,
R126). -/
def viewBytes (c : Call) (a n : Nat) : E (List Byte) := do
  modify fun s => s.touch a n
  let s ← get
  if !s.recent.any fun x => meets a n x.addr 8 then return s.bytesAt a n
  let mut l : List Byte := []
  for (d, k) in pieces 8 (n / 8 + 2) a n do
    l := l ++ leBytes k (← ofM (readAs c.reader d k))
  return l

/-- Does a store touch some of these bytes? -/
def Recent.hits (x : Recent) (a n : Nat) : Bool := (below 8).any fun i => x.mask.getLsbD i && a ≤ x.addr + i && x.addr + i < a + n

/-- Are some of these bytes written without order while the call may read them: by a store that its engine may still miss, or since
the call was accepted (R340, R366, R391, R413)? -/
def State.unsure (s : State) (c : Call) (a n : Nat) : Bool :=
  s.recent.any (fun x => x.missed c.reader && x.hits a n) || s.raced.any fun x => x.cid = c.id && meets a n x.addr x.n

/-- Read an operand (R26): data with an uncorrectable error is code 0x07. -/
def readOp (c : Call) (va n : Nat) : E (List Byte) := do
  let mut l : List Byte := []
  for (a, k) in rangeOf va n do
    let pl ← operand c (wd a) .r
    let s ← get
    require (!s.badAt pl.addr k) 7 a
    l := l ++ (← viewBytes c pl.addr k)
  return l

/-- Where a range of virtual addresses of a call lies in memory, as far as it translates. -/
def State.spots (s : State) (c : Call) (va n : Nat) (acc : Acc) : List (Nat × Nat) :=
  match s.part? c.pid with
  | none => []
  | some p => (rangeOf va n).filterMap fun (a, k) =>
    match s.freshPlace p c.ptbase c.level (wd a) acc false with
    | .ok pl => some (pl.addr, k)
    | .error _ => none

/-- The places of a range for an access, all translated before any of them is used. -/
def placesOf (c : Call) (va n : Nat) (acc : Acc) : E (List (Place × Nat)) := do
  let mut l : List (Place × Nat) := []
  for (a, k) in rangeOf va n do
    l := l ++ [(← operand c (wd a) acc, k)]
  return l

/-- Write bytes of an operand, piece by piece. -/
def writeOp (c : Call) (va : Nat) (l : List Byte) : E Unit := do
  for (a, k) in rangeOf va l.length do
    let pl ← operand c (wd a) .w
    modify fun s => s.putBy c.id pl.addr (slice l (a - va) k)

/-- The stash split of the caller's launch in a cluster (R107, R111). -/
def State.callSplit (s : State) (c : Call) (cluster : Nat) : Option Split := s.split? c.lid cluster

/-- Where a range of a launch's scratch lies in memory (R111). -/
def Split.spots (x : Split) (off n : Nat) : List (Nat × Nat) := (rangeOf off n).filterMap fun (o, k) => (x.at o).map (·, k)

/-- Bytes of a launch's scratch from an offset, as the engine of a call reads them; the range lies below S. -/
def scratchBytes (c : Call) (x : Split) (off n : Nat) : E (List Byte) := do
  let mut l : List Byte := []
  for (a, k) in x.spots off n do
    l := l ++ (← viewBytes c a k)
  return l

/-- Has a range of scratch data with an uncorrectable error? -/
def scratchBad (x : Split) (off n : Nat) (s : State) : Bool := (x.spots off n).any fun (a, k) => s.badAt a k

/-- Is a range of scratch written without order while the call may read it? -/
def State.scratchUnsure (s : State) (c : Call) (x : Split) (off n : Nat) : Bool := (x.spots off n).any fun (a, k) => s.unsure c a k

/-- Write bytes of a launch's scratch. -/
def putScratch (c : Call) (x : Split) (off : Nat) (l : List Byte) (s : State) : State :=
  (rangeOf off l.length).foldl (fun s (o, k) =>
    match x.at o with
    | some a => s.putBy c.id a (slice l (o - off) k)
    | none => s) s

/-- Set the full bits of the granules that hold a range of scratch (R114). -/
def fillScratch (x : Split) (off n : Nat) (s : State) : State :=
  ((below ((off + n + 63) / 64 - off / 64)).map (off / 64 + ·)).foldl (fun s g =>
    match x.at (64 * g) with
    | some a => s.setFull (a / 64)
    | none => s) s

/-- Are the given fields (lowest bit, width) of a number all zero? -/
def fieldsZero (x : Nat) (l : List (Nat × Nat)) : Bool := l.all fun (lo, n) => bits x lo n = 0

end Sys2Proof.Machine
end

