-- ==== Sys2Proof/Machine/MatrixEngine.lean ====
section
/-! DEFINITION. Dahlia, the matrix engine (R330-R342; R61, R63-R65). -/

namespace Sys2Proof.Machine

/-- A job record (R333). -/
structure MJob where
  ord : Bool
  cin : Bool
  csc : Bool
  fb : Bool
  ofmt : Nat
  sat : Bool
  rpt : Bool
  pa : Nat
  pb : Nat
  m : Nat
  n : Nat
  kb : Nat
  aoff : Nat
  astr : Nat
  boff : Nat
  bstr : Nat
  coff : Nat
  cstr : Nat
  soff : Nat
  roff : Nat
  deriving DecidableEq, Repr

/-- The fields of a record (R333). -/
def mjob (r : Nat) : MJob where
  ord := bit r 4
  cin := bit r 5
  csc := bit r 6
  fb := bit r 7
  ofmt := bits r 8 2
  sat := bit r 10
  rpt := bit r 11
  pa := bits r 12 4 + 1
  pb := bits r 16 4 + 1
  m := bits r 64 16
  n := bits r 80 16
  kb := bits r 96 16
  aoff := bits r 128 22
  astr := bits r 160 22
  boff := bits r 192 22
  bstr := bits r 224 22
  coff := bits r 256 22
  cstr := bits r 288 22
  soff := bits r 320 22
  roff := bits r 352 22

/-- Bytes of an output element (R332). -/
def MJob.e (j : MJob) : Nat := if j.ofmt = 0 then 4 else 2

/-- The output format (R333). -/
def MJob.fmt (j : MJob) : Fmt := nth [f32, bf16, f16] j.ofmt f32

/-- The regions of a job (R334): A, B, C, scale, report, as offset and length. -/
def MJob.regions (j : MJob) : List (Nat × Nat) :=
  [(j.aoff, (j.m - 1) * j.astr + (j.pa + 1) * j.kb), (j.boff, (j.n - 1) * j.bstr + (j.pb + 1) * j.kb),
   (j.coff, (j.m - 1) * j.cstr + j.n * j.e), (j.soff, if j.csc then 4 * j.n else 0), (j.roff, if j.rpt then 8 else 0)]

/-- The reserved fields of a record (R333). -/
def mjobReserved : List (Nat × Nat) :=
  [(20, 44), (112, 16), (150, 10), (182, 10), (214, 10), (246, 10), (278, 10), (310, 10), (342, 10), (374, 10), (384, 128)]

/-- The checks of a job before it starts, in order (R334): its fault code, or the scratch that it works in. -/
def MJob.check (j : MJob) (r : Nat) (x : Option Split) : Except Nat Split :=
  let reg := fun i => nth j.regions i (0, 0)
  let hit := fun a b => meets (reg a).1 (reg a).2 (reg b).1 (reg b).2
  if !fieldsZero r mjobReserved || j.ofmt = 3 then .error 0x03
  else if bits r 0 4 ≠ 1 then .error 0x10
  else if j.m = 0 || j.n = 0 || j.kb = 0 then .error 0x11
  else if j.cin && j.csc then .error 0x12
  else if j.coff % j.e ≠ 0 || j.cstr % j.e ≠ 0 || (j.csc && j.soff % 4 ≠ 0) || (j.rpt && j.roff % 8 ≠ 0) then .error 0x06
  else if (1 < j.m && j.astr < (j.pa + 1) * j.kb) || (1 < j.n && j.bstr < (j.pb + 1) * j.kb) ||
      (1 < j.m && j.cstr < j.n * j.e) then .error 0x15
  else match x with
    | none => .error 0x13
    | some x =>
      if x.scr = 0 then .error 0x13
      else if j.regions.any fun (o, n) => 0 < n && x.scr * 65536 < o + n then .error 0x14
      else if hit 2 0 || hit 2 1 || hit 2 3 || hit 4 0 || hit 4 1 || hit 4 3 || hit 4 2 then .error 0x16
      else .ok x

/-- A block of a panel (R61, R331): scale byte and eight mantissas. -/
def panelBlock (l : List Byte) (p kb nkb : Nat) : Nat × List Int :=
  let byte := fun i => (nth l i 0).toNat
  (byte kb, (below 8).map fun t =>
    toS p (((below p).map fun j => if bit (byte ((1 + j) * nkb + kb)) t then 2 ^ j else 0).foldl (· + ·) 0))

/-- The partial of a K-block (R63). -/
def mePart (a b : Nat × List Int) : FRes :=
  if a.1 = 255 || b.1 = 255 then (f32.nan, 0)
  else
    let q := ((a.2.zip b.2).map fun (x, y) => x * y).foldl (· + ·) 0
    roundInt f32 0 q ((a.1 : Int) + b.1 - 254) false false

/-- One element of the output (R335, R336): start value, partials, and the scale of its column. -/
def MJob.element (j : MJob) (start : Nat) (parts : List FRes) (sc : Nat) : M (Nat × FSet) := do
  let fl := parts.foldl (fun f p => f ||| p.2) 0
  let (acc, f1) ← if j.ord then
      pure (parts.foldl (fun (st : FRes) p => let (x, f) := fAdd f32 0 st.1 p.1; (x, st.2 ||| f)) (start, 0))
    else freeSum 10 (parts.length + 1) ((start :: parts.map Prod.fst).map fun x => ⟨false, x, 0, [0]⟩)
  let (y, f2) :=
    if j.csc then
      match mulV (unpack f32 acc) (unpack f32 sc) with
      | none => (j.fmt.nan, fNV)
      | some v => roundV j.fmt 0 v j.sat
    else if j.ofmt = 0 then (acc, 0)
    else fToF f32 j.fmt 0 acc j.sat
  return (y, fl ||| f1 ||| f2)

/-- Read panels `lo ..` of an operand: code 0x07 for an error in a byte. -/
def panels (c : Call) (x : Split) (off str p kb lo hi : Nat) : E (List (List (Nat × List Int))) := do
  let s ← get
  let rows := (below hi).drop lo
  require (!rows.any fun i => scratchBad x (off + i * str) ((p + 1) * kb) s) 7
  let mut out : List (List (Nat × List Int)) := []
  for i in rows do
    let l ← scratchBytes c x (off + i * str) ((p + 1) * kb)
    out := out ++ [(below kb).map fun b => panelBlock l p b kb]
  return out

/-- The operand bytes that output element (i, k) depends on (R340): offset and length. -/
def MJob.operands (j : MJob) (i k : Nat) : List (Nat × Nat) :=
  [(j.aoff + i * j.astr, (j.pa + 1) * j.kb), (j.boff + k * j.bstr, (j.pb + 1) * j.kb),
   (j.coff + i * j.cstr + k * j.e, if j.cin then j.e else 0), (j.soff + 4 * k, if j.csc then 4 else 0)]

/-- An unspecified element (R340), with the flags that its roundings raise: never DZ (R337). -/
def MJob.anyElement (j : MJob) : E (Nat × FSet) := do
  let y ← ofM (freeBelow (2 ^ (8 * j.e)))
  let f ← ofM (freeBelow 32)
  return (y, BitVec.ofNat 5 f &&& ~~~fDZ)

/-- One tile of a job (R335): every element is computed before the first is written. An element that depends on a byte written
without order before the tile reads it is unspecified; a write that comes after that read, of which the tile reads nothing any more,
leaves it as it is, since it is written once (R336, R340; DEDUCED, log 57). -/
def MJob.tile (j : MJob) (c : Call) (x : Split) (ti tj : Nat) : E FSet := do
  let r0 := 32 * ti
  let r1 := min j.m (r0 + 32)
  let c0 := 32 * tj
  let c1 := min j.n (c0 + 32)
  let as ← panels c x j.aoff j.astr j.pa j.kb r0 r1
  let bs ← panels c x j.boff j.bstr j.pb j.kb c0 c1
  let at' := fun (i k : Nat) => j.coff + (r0 + i) * j.cstr + (c0 + k) * j.e
  let mut out : List (Nat × Nat) := []
  let mut fl : FSet := 0
  for (a, i) in as.zipIdx do
    for (b, k) in bs.zipIdx do
      let s ← get
      let soff := j.soff + 4 * (c0 + k)
      require (!(j.cin && scratchBad x (at' i k) j.e s) && !(j.csc && scratchBad x soff 4 s)) 7
      let cin ← if j.cin then scratchBytes c x (at' i k) j.e else pure []
      let (start, f0) := if j.cin then fToF j.fmt f32 0 (leNat cin) false else (0, 0)
      let sc := leNat (← if j.csc then scratchBytes c x soff 4 else pure [])
      let (y, f) ← if (j.operands (r0 + i) (c0 + k)).any fun (o, n) => s.scratchUnsure c x o n then j.anyElement
        else ofM (j.element start ((a.zip b).map fun (p, q) => mePart p q) sc)
      out := out ++ [(at' i k, y)]
      fl := fl ||| f0 ||| f
  for (o, y) in out do
    modify fun s => putScratch c x o (leBytes j.e y) s
  return fl

/-- The time of a job that was suspended `r` times (R338). -/
def MJob.time (j : MJob) (r : Nat) : Nat :=
  let up := fun (a b : Nat) => (a + b - 1) / b
  64 + up j.m 32 * up j.n 32 * (up j.kb 16 * up j.pa 2 * up j.pb 8 + 8) + (if j.ord then 40 else 24) + 64 * r

/-- The tiles of a job in their order (R335). -/
def MJob.tiles (j : MJob) : List (Nat × Nat) :=
  (below ((j.m + 31) / 32)).flatMap fun ti => (below ((j.n + 31) / 32)).map fun tj => (ti, tj)

/-- The report of a job (R332, R338): its flags and its time, with the times it was suspended. -/
def MJob.report (j : MJob) (r : Nat) (fl : FSet) : Nat := fl.toNat + (j.time r % 2 ^ 32) <<< 32

/-- What a job does after its last tile: the report, and full bits (R337, R341). -/
def MJob.finish (j : MJob) (c : Call) (x : Split) (fl : FSet) (s : State) : State :=
  let s := if j.rpt then putScratch c x j.roff (leBytes 8 (j.report c.suspensions fl)) s else s
  if j.fb then
    let s := (below j.m).foldl (fun s i => fillScratch x (j.coff + i * j.cstr) (j.n * j.e) s) s
    if j.rpt then fillScratch x j.roff 8 s else s
  else s

/-- The next tile of a job (R335); a step after the last one the job is complete (R337, R341). -/
def stepMatrix (c : Call) (j : MJob) (x : Split) : E Bool := do
  match j.tiles[c.moved]? with
  | some (ti, tj) =>
    let fl ← j.tile c x ti tj
    modify fun s => s.modCall c.id fun d => { d with moved := c.moved + 1, flags := c.flags ||| fl }
    return false
  | none =>
    modify (j.finish c x c.flags)
    return true

/-- The checks of a job that its engine comes to first (R334), in order: its scratch, or its fault code. -/
def MJob.start (j : MJob) (c : Call) (s : State) : Except Nat Split :=
  match j.check c.record.toNat (s.callSplit c c.eng) with
  | .ok x => if !c.started && s.engqPast c then .error 0x08 else .ok x
  | .error code => .error code

/-- A matrix job's turn (R334, R339): the job that its engine selects is taken up and checked, and computes one tile. -/
def runMatrix (c : Call) (s : State) : State :=
  let j := mjob c.record.toNat
  let t := s.takeUp c
  match j.start c s, t.call? c.id with
  | .ok x, some d => stepCall d (stepMatrix d j x) t
  | .error code, _ => t.callFault c code 0
  | _, none => t

/-- Has a job no tile left, and only its end to come? -/
def Call.tilesDone (c : Call) : Bool := c.kind = 0 && c.started && decide ((mjob c.record.toNat).tiles.length ≤ c.moved)

/-- Does the matrix engine of a job work on it: the one whose last tile is written, else the one that it selects at this tile boundary
by the priority at its post (R339)? -/
def State.jobsOn (s : State) (c : Call) : Bool :=
  if (s.queued 0 c.eng 0).any Call.tilesDone then c.tilesDone else s.selects (·.prio) c

/-- A matrix job (R335-R342), by call: one tile, or its end; between two tiles a job of higher priority may be selected (R339). -/
def execMatrixJob (s : State) : StepOut := callStep 0 0 State.jobsOn runMatrix s

end Sys2Proof.Machine
end

