-- ==== Sys2Proof/Machine/RasterBlend.lean ====
section
/-! DEFINITION. Peony, the raster-blend engine (R367-R386): raster calls, the tile store, blend programs, fragment batches
and their token order. -/

namespace Sys2Proof.Machine

/-- A point in units of 2^-149 pixel: every finite f32 is an integer there. -/
structure Pt where
  x : Int
  y : Int
  deriving DecidableEq, Repr

/-- A coordinate in units of 2^-149, none for NaN and infinity (R368). -/
def coord (x : Nat) : Option Int :=
  match unpack f32 x with
  | .num neg m e => some (scaled neg m e (-149))
  | _ => none

/-- The edge function E(a, b, p) (R368). -/
def edgeFn (a b p : Pt) : Int := (b.x - a.x) * (p.y - a.y) - (b.y - a.y) * (p.x - a.x)

/-- Is a point inside an edge (R368)? -/
def inEdge (a b p : Pt) : Bool :=
  let e := edgeFn a b p
  0 < e || (e = 0 && (0 < b.y - a.y || (b.y - a.y = 0 && b.x - a.x < 0)))

/-- A triangle of a segment, its corners in the order of positive area; none if it covers nothing (R368). -/
def triangleOf (l : List Byte) : Option (Pt × Pt × Pt) :=
  let c := fun i => coord (leNat (slice l (4 * i) 4))
  match c 0, c 1, c 2, c 3, c 4, c 5 with
  | some x0, some y0, some x1, some y1, some x2, some y2 =>
    let a : Pt := ⟨x0, y0⟩
    let b : Pt := ⟨x1, y1⟩
    let d : Pt := ⟨x2, y2⟩
    let area := edgeFn a b d
    if area = 0 then none else if area < 0 then some (a, d, b) else some (a, b, d)
  | _, _, _, _, _, _ => none

/-- Does a triangle cover a point (R368)? -/
def covers (t : Pt × Pt × Pt) (p : Pt) : Bool := inEdge t.1 t.2.1 p && inEdge t.2.1 t.2.2 p && inEdge t.2.2 t.1 p

/-- The sample of a position of a tile (R368); a quarter pixel is 2^147 units. -/
def sampleAt (mode : Bool) (x0 y0 : Int) (q : Nat) : Pt :=
  let u : Int := (2 ^ 147 : Nat)
  if mode then
    let px := q / 4 % 8
    let py := q / 32
    ⟨(4 * (x0 + px) + (1 + 2 * (q % 2) : Nat)) * u, (4 * (y0 + py) + (1 + 2 * (q / 2 % 2) : Nat)) * u⟩
  else ⟨(4 * (x0 + (q % 16 : Nat)) + 2) * u, (4 * (y0 + (q / 16 : Nat)) + 2) * u⟩

/-- The result of each of the 256 positions: the index of its triangle in place LAYER (R369). -/
def rasterise (mode : Bool) (x0 y0 : Int) (layer : Nat) (seg : List (Option (Pt × Pt × Pt))) : List (Option Nat) :=
  (below 256).map fun q =>
    let p := sampleAt mode x0 y0 q
    let hits := seg.zipIdx.filterMap fun (t, i) =>
      match t with
      | some t => if covers t p then some i else none
      | none => none
    hits[layer]?

/-- The last check of a call (R382). -/
def withinQuota (c : Call) : E Unit := do require (!(← get).engqPast c) 0x08

/-- A raster call (R367-R369): its results for the return registers. -/
def runRaster (c : Call) : E Unit := do
  let r := c.record.toNat
  require (fieldsZero r [(5, 11), (24, 8), (49, 15), (192, 320)]) 0x03
  require (bits r 0 4 = 1) 0x10
  let n := bits r 32 17
  require (1 ≤ n && n ≤ 65536) 0x11
  let tri := bits r 128 64
  require (tri % 32 = 0) 0x06
  withinQuota c
  let l ← readOp c tri (32 * n)
  let seg := (below n).map fun i => triangleOf (slice l (32 * i) 32)
  let res := rasterise (bit r 4) (toS 16 (bits r 64 16)) (toS 16 (bits r 80 16)) (bits r 16 8) seg
  let v := res.zipIdx.foldl (fun m (o, q) =>
    setElem 32 q (match o with
      | some i => (bits r 96 32 + i) % 2 ^ 32
      | none => 0xFFFFFFFF) m) 0
  let k := res.zipIdx.foldl (fun m (o, q) => if o.isSome then m + 2 ^ q else m) 0
  for d in c.rets do
    modify fun s => s.returnV c.uid d (BitVec.ofNat 8192 v) 4
  match c.rk with
  | some d => modify fun s => s.returnK c.uid d (BitVec.ofNat 2048 k)
  | none => pure ()

/-- The first of a queue (R381). -/
def State.isFirst (s : State) (c : Call) : Bool := !(s.queued c.kind c.eng c.queue).any fun d => d.id < c.id

/-- RASTER (R369), by call: raster calls run one at a time in acceptance order. -/
def execRbeRaster (s : State) : StepOut := callStep 4 0 (fun s c => s.isFirst c) (fun c s => endCall c (runRaster c) s) s

/-- A micro-op of a blend program (R373). -/
structure MicroOp where
  op : Nat
  int : Bool
  d : Nat
  a : Nat
  b : Nat
  c : Nat
  cmp : Nat
  high : Nat
  deriving DecidableEq, Repr

/-- The fields of a micro-op word (R373). -/
def microOp (w : BitVec 32) : MicroOp :=
  let x := w.toNat
  ⟨bits x 0 4, bit x 4, bits x 5 5, bits x 10 5, bits x 15 5, bits x 20 5, bits x 25 2, bits x 27 5⟩

/-- The operands that a micro-op reads (R374). -/
def MicroOp.reads (m : MicroOp) : List Nat :=
  match m.op with
  | 2 => [m.a, m.b, m.c]
  | 5 => [m.a, m.b, m.c]
  | 7 => [m.a]
  | 8 => [m.a]
  | 9 => []
  | _ => [m.a, m.b]

/-- Does a micro-op write D (R374)? -/
def MicroOp.writes (m : MicroOp) : Bool := m.op != 7 && m.op != 8

/-- Is a micro-op valid in a slot of NW state words (R373)? -/
def MicroOp.ok (m : MicroOp) (nw : Nat) : Bool :=
  let named := fun x => x < nw || (8 ≤ x && x < 28)
  m.op < 10 && m.high = 0 &&
  (m.op = 6 || m.cmp = 0) && (m.op = 2 || m.op = 5 || m.c = 0) && (m.op < 7 || m.b = 0) && (m.op != 9 || m.a = 0) &&
  (if m.writes then m.d < nw || (16 ≤ m.d && m.d < 20) else m.d = 0) &&
  m.reads.all named && !(m.int && (m.op = 5 || 7 ≤ m.op))

/-- Does a program name an input at or above a number (R376)? -/
def namesInput (prog : List (BitVec 32)) (n : Nat) : Bool :=
  prog.any fun w => (microOp w).reads.any fun x => 8 + n ≤ x && x < 16

/-- The words of one fragment's run (R375): state, temporaries, inputs and constants, by operand number; and the flags. -/
structure Blend where
  words : List Nat
  flags : FSet
  deriving DecidableEq, Repr

/-- How a run of a program goes on after a micro-op (R374). -/
inductive BlendEnd where
  | go
  | kill
  | stop
  deriving DecidableEq, Repr

/-- One micro-op (R374). -/
def MicroOp.run (m : MicroOp) (ordinal : Nat) (x : Blend) : Blend × BlendEnd :=
  let a := nth x.words m.a 0
  let b := nth x.words m.b 0
  let c := nth x.words m.c 0
  let put := fun (v : Nat) (f : FSet) => (⟨x.words.set m.d (v % 2 ^ 32), x.flags ||| f⟩, BlendEnd.go)
  let fl := fun (r : FRes) => put r.1 r.2
  let truth := fun (r : Bool × FSet) => put (if r.1 then 1 else 0) r.2
  match m.op with
  | 0 => if m.int then put (a + b) 0 else fl (fAdd f32 0 a b)
  | 1 => if m.int then put (a * b) 0 else fl (fMul f32 0 a b)
  | 2 => if m.int then put (a * b + c) 0 else fl (fFma f32 0 a b c false false)
  | 3 => if m.int then put (min a b) 0 else fl (fMinMax f32 false a b)
  | 4 => if m.int then put (max a b) 0 else fl (fMinMax f32 true a b)
  | 5 => put (if c != 0 then a else b) 0
  | 6 =>
    if m.int then truth (nth [decide (a < b), decide (a ≤ b), a == b, a != b] m.cmp false, 0)
    else match m.cmp with
      | 0 => truth (fLess f32 false a b)
      | 1 => truth (fLess f32 true a b)
      | 2 => truth (fEq f32 a b)
      | _ => truth (!(fEq f32 a b).1, (fEq f32 a b).2)
  | 7 => (x, if a != 0 then .kill else .go)
  | 8 => (x, if a != 0 then .stop else .go)
  | _ => put ordinal 0

/-- The micro-ops of a fragment in order (R375). -/
def runBlend (ordinal : Nat) : List MicroOp → Blend → Blend × BlendEnd
  | [], x => (x, .go)
  | m :: rest, x =>
    match m.run ordinal x with
    | (y, .go) => runBlend ordinal rest y
    | r => r

/-- Commit the fragment of a position (R375). -/
def RbeSlot.commitAt (x : RbeSlot) (c : Call) (ordinal q : Nat) : RbeSlot :=
  if x.stopped.getLsbD q then x
  else
    let st := x.planes.map fun p => elem 32 q p.toNat
    let ins := (below 8).map fun i => c.word (i + 1) q
    let words := st ++ List.replicate (8 - st.length) 0 ++ ins ++ [0, 0, 0, 0] ++ x.consts.map (·.toNat)
    let (y, e) := runBlend ordinal (x.prog.map microOp) ⟨words, 0⟩
    let x := { x with flags := x.flags ||| y.flags }
    if e = .kill then x
    else { x with
      planes := x.planes.zipIdx.map fun (p, w) => BitVec.ofNat 8192 (setElem 32 q (nth y.words w 0) p.toNat)
      stopped := if e = .stop then x.stopped ||| BitVec.ofNat 256 (2 ^ q) else x.stopped }

/-- The positions of a batch that hold a fragment (R376). -/
def Call.fragments (c : Call) : List Nat := those 256 fun q => q < c.vl && c.act.getLsbD q

/-- The token count of a batch (R376). -/
def Call.token (c : Call) : BitVec 32 := BitVec.ofNat 32 (c.word 0 0)

/-- Commit a batch (R375, R377): its fragments, and NEXT moves on. -/
def RbeSlot.commit (x : RbeSlot) (now : Nat) (c : Call) : RbeSlot :=
  let y := c.fragments.foldl (fun y q => y.commitAt c (c.token - x.base).toNat q) x
  RbeSlot.moveTo { y with committed := y.committed + 1, waiting := y.waiting.filter (·.token != c.token) } now (x.next + 1)

/-- The fragments that wait in an engine's window (R378). -/
def State.windowLoad (s : State) (eng : Nat) : Nat :=
  (s.rbe.filter (·.eng == eng)).foldl (fun n x => x.waiting.foldl (fun n w => n + w.call.fragments.length) n) 0

/-- The CLOSE calls that wait on a slot: their ENDTOKs (R372, R379). Those of an earlier opening have ended with it. -/
def State.closers (s : State) (eng slot : Nat) : List (BitVec 32) :=
  (s.calls.filter fun c => c.kind = 4 && c.queue = 2 && c.eng = eng && c.started &&
    bits c.record.toNat 0 4 = 2 && bits c.record.toNat 4 5 = slot).map fun c => BitVec.ofNat 32 (bits c.record.toNat 64 32)

/-- The gap timer starts with the first that waits (R379). -/
def State.startTimer (s : State) (eng slot : Nat) : State :=
  let idle := (s.closers eng slot).isEmpty
  s.modRbe eng slot fun x => if idle && x.waiting.isEmpty then { x with timer := some s.time.toNat } else x

/-- The slot that a call may use: open, and of its context (R372). -/
def State.ownSlot (s : State) (c : Call) (slot : Nat) : E RbeSlot :=
  match s.rbeSlot? c.eng slot with
  | some x => if x.pid = c.pid && x.ctx = c.ctx then pure x else faultAt 0x14
  | none => faultAt 0x14

/-- Is a call the first of its queue that has not started (R29, R371)? -/
def State.isNext (s : State) (c : Call) : Bool :=
  !c.started && !(s.queued c.kind c.eng c.queue).any fun d => d.id < c.id && !d.started

/-- The checks of a batch up to its slot (R376, R382). -/
def checkBatch (c : Call) : E RbeSlot := do
  let h := c.word 0 1
  require (bits h 13 19 = 0 && c.word 0 2 = 0 && c.word 0 3 = 0) 0x03
  let x ← (← get).ownSlot c (bits h 8 5)
  require (bits h 0 8 = x.seq) 0x15
  let n := c.regs.length
  let tags := c.regs.map fun r => r.tag.toNat
  require (2 ≤ n && n ≤ 9 && 4 ≤ c.vl && tags.headD 15 = 4 && ((tags.drop 1).all fun t => t = 4 || t = 5 || t = 10) &&
    !namesInput x.prog (n - 1)) 0x16
  withinQuota c
  return x

/-- A batch arrives (R377): true if it commits now, false if it waits. -/
def runBatch (c : Call) : E Bool := do
  let x ← checkBatch c
  let s ← get
  let t := c.token
  let d := x.ahead t
  require (d < 2 ^ 31 && !x.cancelled.contains t && !(x.waiting.any (·.token == t))) 0x19
  if d = 0 then
    set (s.modRbe c.eng x.slot fun x => x.commit s.time.toNat c)
    return true
  require (d < 4096) 0x18
  if 512 < s.windowLoad c.eng + c.fragments.length then
    set (s.modRbe c.eng x.slot fun x => { x.cancelTok s.time.toNat t with ncancel := x.ncancel + 1 })
    faultAt 0x18
  else
    set ((s.startTimer c.eng x.slot).modRbe c.eng x.slot fun x => { x with waiting := x.waiting ++ [⟨t, c⟩] })
    return false

/-- FRAGMENT_BATCH (R377), by call. -/
def execFragmentBatch (s : State) : StepOut :=
  callStep 4 1 (fun s c => s.isNext c) (fun c s =>
    match (runBatch c).run s with
    | .ok true s' => s'.callDone c
    | .ok false s' => s'.modCall c.id fun c => { c with started := true }
    | .error f s' => s'.callFault c f.code f.va) s

/-- BATCH_COMMIT (R375, R377): the waiting batch of a slot (engine, slot) whose token is NEXT. -/
def execBatchCommit (s : State) : StepOut :=
  match s.rbeSlot? s.ev.x s.ev.y with
  | none => .next s
  | some x =>
    match x.waiting.find? fun w => w.token = x.next with
    | none => .next s
    | some w => .next ((s.modRbe x.eng x.slot fun x => x.commit s.time.toNat w.call).callDone w.call)

/-- The lowest token that waits on a slot, by its distance from NEXT (R379): batches, and the ENDTOKs of waiting CLOSEs. -/
def State.lowestWait (s : State) (x : RbeSlot) : Option Nat :=
  let l := (x.waiting.map fun w => x.ahead w.token) ++
    ((s.closers x.eng x.slot).map x.ahead).filter fun d => 0 < d && d < 2 ^ 31
  match l with
  | [] => none
  | d :: rest => some (rest.foldl min d)

/-- Has the gap timer of a slot reached its end (R379)? -/
def State.gapDue (s : State) (x : RbeSlot) : Bool :=
  match x.timer, s.lowestWait x with
  | some t, some d => 0 < d && 2 ^ x.aexp ≤ s.time.toNat - t
  | _, _ => false

/-- GAP_TIMEOUT (R379), by engine and slot. -/
def execGapTimeout (s : State) : StepOut :=
  match s.rbeSlot? s.ev.x s.ev.y with
  | none => .next s
  | some x =>
    match s.lowestWait x with
    | none => .next s
    | some d =>
      if s.gapDue x then
        let gone := (x.cancelled.filter fun t => x.ahead t < d).length
        .next (s.modRbe x.eng x.slot fun x =>
          RbeSlot.moveTo { x with expired := x.expired + (d - gone), cancelled := x.cancelled.filter fun t => d ≤ x.ahead t }
            s.time.toNat (x.next + BitVec.ofNat 32 d))
      else .next s

/-- A control call: TYPE (R371). -/
def Call.ctlType (c : Call) : Nat := bits c.record.toNat 0 4
/-- SLOT (R371). -/
def Call.ctlSlot (c : Call) : Nat := bits c.record.toNat 4 5
/-- TOK (R371). -/
def Call.ctlTok (c : Call) : BitVec 32 := BitVec.ofNat 32 (bits c.record.toNat 64 32)

/-- Checks 1 to 4 of a control call (R371, R382). -/
def checkControl (c : Call) : E Unit := do
  let r := c.record.toNat
  require (fieldsZero r [(9, 7), (38, 26), (96, 32), (256, 256)]) 0x03
  let a1 := bits r 128 64
  let a2 := bits r 192 64
  match c.ctlType with
  | 1 =>
    require (bit r 27 || a2 = 0) 0x10
    require (12 ≤ bits r 32 6 && bits r 32 6 ≤ 40) 0x11
    require (a1 % 64 = 0 && a2 % 64 = 0) 0x06
  | 2 =>
    require (bits r 16 22 = 0) 0x10
    require (a1 % 64 = 0 && a2 % 8 = 0) 0x06
  | 3 => require (bits r 16 22 = 0 && a1 = 0 && a2 = 0) 0x10
  | 4 => require (c.ctlSlot = 0 && bits r 24 14 = 0 && bits r 64 32 = 0 && a1 = 0 && a2 = 0) 0x10
  | _ => faultAt 0x10

/-- OPEN (R372). -/
def runRbeOpen (c : Call) : E Unit := do
  checkControl c
  let r := c.record.toNat
  let s ← get
  require (s.rbeSlot? c.eng c.ctlSlot).isNone 0x13
  withinQuota c
  let nw := bits r 24 3 + 1
  let blk ← readOp c (bits r 128 64) 128
  let word := fun i => BitVec.ofNat 32 (leNat (slice blk (4 * i) 4))
  let prog := (below (bits r 28 4 + 1)).map word
  require (prog.all fun w => (microOp w).ok nw) 0x12
  let init ← if bit r 27 then readOp c (bits r 192 64) (1024 * nw) else pure []
  let x : RbeSlot := {
    eng := c.eng, slot := c.ctlSlot, pid := c.pid, ctx := c.ctx
    planes := (below nw).map fun w => BitVec.ofNat 8192 (leNat (slice init (1024 * w) 1024))
    stopped := 0, prog := prog, consts := (below 8).map fun i => word (16 + i), seq := bits r 16 8
    base := c.ctlTok, next := c.ctlTok, cancelled := [], aexp := bits r 32 6, timer := none
    expired := 0, ncancel := 0, flags := 0, committed := 0, waiting := [] }
  modify fun s => { s with rbe := s.rbe ++ [x] }

/-- RBE_OPEN (R372), by call; it also takes a call whose TYPE queue 2 does not have, which ends in check 2. -/
def execRbeOpen (s : State) : StepOut :=
  callStep 4 2 (fun s c => s.isNext c && (c.ctlType = 1 || c.ctlType = 0 || 4 < c.ctlType))
    (fun c s => endCall c (runRbeOpen c) s) s

/-- The report of a CLOSE (R380). -/
def RbeSlot.report (x : RbeSlot) : Nat :=
  min x.expired 0xFFFF + min x.ncancel 0xFFFF <<< 16 + x.flags.toNat <<< 32 + (x.committed % 2 ^ 24) <<< 40

/-- Has the wait of a CLOSE on a slot ended (R372)? -/
def RbeSlot.closes (x : RbeSlot) (endTok : BitVec 32) : Bool :=
  (x.ahead endTok = 0 || 2 ^ 31 ≤ x.ahead endTok) && !x.waiting.any fun w => w.token = x.next

/-- Write some unspecified part of an operand (R382): where it translates. -/
def writeSome (c : Call) (va : Nat) (l : List Byte) : E Unit := do
  for (a, k) in rangeOf va l.length do
    match ← tryE (operand c (wd a) .w) with
    | .error _ => pure ()
    | .ok pl =>
      for i in below k do
        if ← ofM freeBool then
          modify fun s => s.putDev (pl.addr + i) (slice l (a - va + i) 1)

/-- Do two calls name one slot of one engine, each as a CLOSE that waits on it? -/
def Call.closesWith (c d : Call) : Bool :=
  d.kind = 4 && d.queue = 2 && d.started && d.ctlType = 2 && d.eng = c.eng && d.ctlSlot = c.ctlSlot && d.id != c.id

/-- The slot of a CLOSE is freed (R372): the batches that wait in its window end, and another CLOSE that waits on it names a slot that is
not open any more. -/
def State.freeRbe (s : State) (c : Call) (x : RbeSlot) : State :=
  let s := x.waiting.foldl (fun s w => s.callFault w.call 0x19 0) s
  let s := { s with rbe := s.rbe.filter fun y => !(y.eng = x.eng && y.slot = x.slot) }
  (s.calls.filter c.closesWith).foldl (fun s d => s.callFault d 0x14 0) s

/-- A CLOSE whose wait has ended (R372, R382): the waiting batches end, the slot is freed, the planes and the report are
written; `broken`: an uncorrectable error strikes it while it writes (R26). -/
def finishClose (c : Call) (x : RbeSlot) (broken : Bool) : E Unit := do
  modify fun s => s.freeRbe c x
  let r := c.record.toNat
  let out := x.planes.flatMap fun p => leBytes 1024 p.toNat
  let stat := leBytes 8 x.report
  let pass : E Unit := do
    require (!broken) 9
    let _ ← placesOf c (bits r 128 64) out.length .w
    let _ ← placesOf c (bits r 192 64) 8 .w
  match ← tryE pass with
  | .ok _ =>
    writeOp c (bits r 128 64) out
    writeOp c (bits r 192 64) stat
  | .error f =>
    writeSome c (bits r 128 64) out
    writeSome c (bits r 192 64) stat
    throw f

/-- CLOSE (R372): true when it is final, false while it waits. -/
def runRbeClose (c : Call) : E Bool := do
  checkControl c
  let s ← get
  let x ← s.ownSlot c c.ctlSlot
  if !c.started then withinQuota c
  if x.closes c.ctlTok then
    finishClose c x false
    return true
  return false

/-- A CLOSE that an uncorrectable error strikes (R26, R382): while it writes, its slot is freed as well. -/
def breakClose (c : Call) : E Unit := do
  checkControl c
  let x ← (← get).ownSlot c c.ctlSlot
  if x.closes c.ctlTok then finishClose c x true else faultAt 9

/-- RBE_CLOSE (R372), by call: the call is checked and waits, or ends. -/
def execRbeClose (s : State) : StepOut :=
  callStep 4 2 (fun s c => (c.started || s.isNext c) && c.ctlType = 2) (fun c s =>
    match (runRbeClose c).run s with
    | .ok true s' => s'.callDone c
    | .ok false s' =>
      if c.started then s else (s'.startTimer c.eng c.ctlSlot).modCall c.id fun c => { c with started := true }
    | .error f s' => s'.callFault c f.code f.va) s

/-- CANCEL (R378). -/
def runRbeCancel (c : Call) : E Unit := do
  checkControl c
  let s ← get
  let x ← s.ownSlot c c.ctlSlot
  withinQuota c
  let t := c.ctlTok
  require (x.ahead t < 2 ^ 31 && !x.cancelled.contains t) 0x19
  require (x.ahead t ≤ 4095) 0x18
  let s := (x.waiting.filter (·.token == t)).foldl (fun s w => s.callFault w.call 0x19 0) s
  set (s.modRbe c.eng c.ctlSlot fun x => { x.cancelTok s.time.toNat t with ncancel := x.ncancel + 1 })

/-- CANCEL (R378), by call. -/
def execRbeCancel (s : State) : StepOut :=
  callStep 4 2 (fun s c => s.isNext c && c.ctlType = 3) (fun c s => endCall c (runRbeCancel c) s) s

/-- SEQRESET (R372). -/
def runSeqReset (c : Call) : E Unit := do
  checkControl c
  let s ← get
  let q := bits c.record.toNat 16 8
  require (!s.rbe.any fun x => x.eng = c.eng && x.seq = q) 0x15
  withinQuota c
  set (s.modPart c.pid fun p => p.setOtok q 0)

/-- SEQRESET (R372), by call. -/
def execRbeSeqreset (s : State) : StepOut :=
  callStep 4 2 (fun s c => s.isNext c && c.ctlType = 4) (fun c s => endCall c (runSeqReset c) s) s

end Sys2Proof.Machine
end

