-- ==== Sys2Proof/Machine/Texture.lean ====
section
/-! DEFINITION. Iris, the texture unit (R387-R391): descriptors, exact filtering and the sample call. -/

namespace Sys2Proof.Machine

/-- An exact rational number, its denominator positive; not reduced. -/
structure Frac where
  n : Int
  d : Nat
  deriving DecidableEq, Repr

/-- An integer. -/
def Frac.int (n : Int) : Frac := ⟨n, 1⟩
/-- Sum. -/
def Frac.add (a b : Frac) : Frac := ⟨a.n * b.d + b.n * a.d, a.d * b.d⟩
/-- Difference. -/
def Frac.sub (a b : Frac) : Frac := ⟨a.n * b.d - b.n * a.d, a.d * b.d⟩
/-- Product. -/
def Frac.mul (a b : Frac) : Frac := ⟨a.n * b.n, a.d * b.d⟩
/-- ⌊a⌋. -/
def Frac.floor (a : Frac) : Int := a.n / (a.d : Int)
/-- a ≤ b. -/
def Frac.le (a b : Frac) : Bool := a.n * b.d ≤ b.n * a.d
/-- Rounded to a multiple of 2^-8, ties to even, in units of 2^-8 (R389). -/
def Frac.q8 (a : Frac) : Int :=
  let x := a.n * 256
  let k := x / (a.d : Int)
  let r := 2 * (x - k * a.d)
  if (a.d : Int) < r || (r = a.d && k % 2 = 1) then k + 1 else k

/-- An f32 as a rational, none for NaN and infinity (R389). -/
def Frac.ofF32 (x : Nat) : Option Frac :=
  match unpack f32 x with
  | .num neg m e =>
    let v : Int := (m * 2 ^ e.toNat : Nat)
    some ⟨if neg then -v else v, 2 ^ (-e).toNat⟩
  | _ => none

/-- A texture descriptor (R387). -/
structure Tex where
  base : Nat
  w : Nat
  h : Nat
  levels : Nat
  fmt : Nat
  deriving DecidableEq, Repr

/-- The fields of a descriptor (R387). -/
def texOf (l : List Byte) : Tex :=
  let y := dwordAt l 1
  ⟨dwordAt l 0, bits y 0 16 + 1, bits y 16 16 + 1, bits y 32 4 + 1, bits y 36 4⟩

/-- Are the reserved bits of a descriptor 0 (R387)? -/
def texReserved (l : List Byte) : Bool := bits (dwordAt l 1) 40 24 = 0 && (slice l 16 48).all (· == 0)

/-- Bytes of a texel (R387). -/
def Tex.b (t : Tex) : Nat := nth [4, 8, 4, 8] t.fmt 4
/-- Channels (R388). -/
def Tex.chans (t : Tex) : Nat := nth [4, 4, 1, 2] t.fmt 4
/-- Width of a level (R387). -/
def Tex.wl (t : Tex) (l : Nat) : Nat := max 1 (t.w >>> l)
/-- Height of a level (R387). -/
def Tex.hl (t : Tex) (l : Nat) : Nat := max 1 (t.h >>> l)
/-- Row pitch of a level (R387). -/
def Tex.pitch (t : Tex) (l : Nat) : Nat := (t.wl l * t.b + 63) / 64 * 64
/-- Offset of a level (R387). -/
def Tex.off (t : Tex) (l : Nat) : Nat := (below l).foldl (fun o k => o + t.pitch k * t.hl k) 0
/-- Address of a texel (R387). -/
def Tex.texel (t : Tex) (l i j : Nat) : Nat := (t.base + t.off l + j * t.pitch l + i * t.b) % 2 ^ 64

/-- An index brought into a level by an address mode (R389): 0 wrap, 1 clamp, 2 mirror. -/
def texAddr (mode : Nat) (i : Int) (n : Nat) : Nat :=
  match mode with
  | 0 => (i % (n : Int)).toNat
  | 1 => (min (max i 0) ((n : Int) - 1)).toNat
  | _ => let m := (i % (2 * (n : Int))).toNat; if m < n then m else 2 * n - 1 - m

/-- A texel that a lane names: its address, and its weight. -/
structure Tap where
  addr : Nat
  weight : Frac
  deriving DecidableEq, Repr

/-- What filters a lane (R388): the control fields. -/
structure Filter where
  filt : Nat
  au : Nat
  av : Nat
  n : Nat
  deriving DecidableEq, Repr

/-- A texel by the address modes (R389). -/
def Filter.fetch (f : Filter) (t : Tex) (l : Nat) (i j : Int) (w : Frac) : Tap :=
  ⟨t.texel l (texAddr f.au i (t.wl l)) (texAddr f.av j (t.hl l)), w⟩

/-- point(l, u, v) (R389). -/
def Filter.point (f : Filter) (t : Tex) (l : Nat) (u v : Frac) : List Tap :=
  [f.fetch t l (u.mul (.int (t.wl l))).floor (v.mul (.int (t.hl l))).floor (.int 1)]

/-- The lower index of a bilinear pair and the weight of the upper one in units of 2^-8 (R389). -/
def bilinAxis (u : Frac) (n : Nat) : Int × Int :=
  let x := (u.mul (.int n)).sub ⟨1, 2⟩
  let i := x.floor
  let f := (x.sub (.int i)).q8
  if f = 256 then (i + 1, 0) else (i, f)

/-- bilin(l, u, v), each weight times `w` (R389). -/
def Filter.bilin (f : Filter) (t : Tex) (l : Nat) (u v w : Frac) : List Tap :=
  let (i, fx) := bilinAxis u (t.wl l)
  let (j, fy) := bilinAxis v (t.hl l)
  let g := fun (a b : Int) => w.mul ⟨a * b, 65536⟩
  [f.fetch t l i j (g (256 - fx) (256 - fy)), f.fetch t l (i + 1) j (g fx (256 - fy)),
   f.fetch t l i (j + 1) (g (256 - fx) fy), f.fetch t l (i + 1) (j + 1) (g fx fy)]

/-- The taps of a lane (R389); none where a coordinate is NaN or infinite. -/
def Filter.taps (f : Filter) (t : Tex) (u v lod du dv : Nat) : Option (List Tap) :=
  let axis := if f.filt = 3 then (Frac.ofF32 du).bind fun a => (Frac.ofF32 dv).map fun b => (a, b)
    else some (.int 0, .int 0)
  match Frac.ofF32 u, Frac.ofF32 v, Frac.ofF32 lod, axis with
  | some u, some v, some lod, some (du, dv) =>
    let top := t.levels - 1
    let lam := if lod.le (.int 0) then Frac.int 0 else if (Frac.int top).le lod then .int top else lod
    let near := (lam.add ⟨1, 2⟩).floor.toNat
    match f.filt with
    | 0 => some (f.point t near u v)
    | 1 => some (f.bilin t near u v (.int 1))
    | 2 =>
      let l0 := lam.floor.toNat
      if l0 = top then some (f.bilin t l0 u v (.int 1))
      else
        let g := (lam.sub (.int l0)).q8
        if g = 256 then some (f.bilin t (l0 + 1) u v (.int 1))
        else some (f.bilin t l0 u v ⟨256 - g, 256⟩ ++ f.bilin t (l0 + 1) u v ⟨g, 256⟩)
    | _ => some ((below f.n).flatMap fun (k : Nat) =>
        let tk : Frac := ⟨2 * (k : Int) + 1 - f.n, 2 * f.n⟩
        f.bilin t near (u.add (tk.mul du)) (v.add (tk.mul dv)) ⟨1, f.n⟩)
  | _, _, _, _ => none

/-- A channel of a texel (R387). -/
inductive Chan where
  | nan
  | inf (neg : Bool)
  | num (x : Frac)
  deriving DecidableEq, Repr

/-- Channel `c` of the bytes of a texel (R387). -/
def Tex.chan (t : Tex) (l : List Byte) (c : Nat) : Chan :=
  if t.fmt = 0 then .num ⟨((nth l c 0).toNat : Int), 255⟩
  else
    let f := if t.fmt = 1 then f16 else f32
    match unpack f (leNat (slice l (f.n / 8 * c) (f.n / 8))) with
    | .nan _ => .nan
    | .inf neg => .inf neg
    | .num neg m e =>
      let v : Int := (m * 2 ^ e.toNat : Nat)
      .num ⟨if neg then -v else v, 2 ^ (-e).toNat⟩

/-- A channel of a lane from its weighted texels (R389): rounded once, RNE. -/
def mixChan (l : List (Frac × Chan)) : Nat :=
  let l := l.filter fun x => x.1.n != 0
  if l.any fun x => x.2 = .nan then f32.nan
  else
    let pos := l.any fun x => x.2 = .inf false
    let neg := l.any fun x => x.2 = .inf true
    if pos && neg then f32.nan
    else if pos || neg then f32.inf neg
    else
      let sum := l.foldl (fun (s : Frac) x => match x.2 with
        | .num v => s.add (x.1.mul v)
        | _ => s) (.int 0)
      if sum.n = 0 then 0 else (roundRat f32 0 (sum.n < 0) sum.n.natAbs sum.d false).1

/-- Bits of element `e` of a record register. -/
def Call.hdr (c : Call) (e : Nat) : Nat := c.word 0 e

/-- The control word of a sample call (R388). -/
def sampleFilter (ctl : Nat) : Filter := ⟨bits ctl 0 2, bits ctl 2 2, bits ctl 4 2, bits ctl 6 4 + 1⟩

/-- The checks of a sample call in order (R390): its filter and its texture. -/
def checkSample (c : Call) : E (Filter × Tex) := do
  let ctl := c.hdr 2
  let f := sampleFilter ctl
  let va := c.hdr 0 + c.hdr 1 <<< 32
  let desc ← tryE (do
    require (va % 64 = 0) 0x06
    readOp c va 64)
  let t := match desc with
    | .ok l => texOf l
    | .error _ => ⟨0, 1, 1, 1, 0⟩
  let clean := match desc with
    | .ok l => texReserved l
    | .error _ => true
  require (c.hdr 3 = 0 && bits ctl 10 22 = 0 && clean) 0x03
  let tags := c.regs.map fun r => r.tag.toNat
  require (!c.rets.isEmpty && c.regs.length = (if f.filt = 3 then 6 else 4) && tags.headD 15 = 4 &&
    ((tags.drop 1).all (· == 10)) && 4 ≤ c.vl && t.fmt < 4 && f.au ≠ 3 && f.av ≠ 3 && (f.filt = 3 || f.n = 1)) 0x10
  require (t.w ≤ 16384 && t.h ≤ 16384 && 2 ^ (t.levels - 1) ≤ max t.w t.h) 0x11
  match desc with
  | .error e => throw e
  | .ok _ => pure ()
  require (t.base % 64 = 0) 0x06
  require (!(← get).engqPast c) 0x08
  return (f, t)

/-- The channels of a lane (R389, R391): unspecified where a texel was written without order. -/
def sampleLane (c : Call) (f : Filter) (t : Tex) (q : Nat) : E (List Nat) := do
  match f.taps t (c.word 1 q) (c.word 2 q) (c.word 3 q) (c.word 4 q) (c.word 5 q) with
  | none => return List.replicate t.chans 0
  | some taps =>
    let mut l : List (Frac × List Byte) := []
    let mut open' := false
    for x in taps do
      let pl ← operand c (wd x.addr) .r
      modify fun s => s.touch pl.addr t.b
      let s ← get
      require (!s.badAt pl.addr t.b) 7 x.addr
      open' := open' || s.unsure c pl.addr t.b
      l := l ++ [(x.weight, s.bytesAt pl.addr t.b)]
    let mut out : List Nat := []
    for k in below t.chans do
      if open' then out := out ++ [← ofM (freeBelow (2 ^ 32))]
      else out := out ++ [mixChan (l.map fun (w, b) => (w, t.chan b k))]
    return out

/-- The sampled lanes of a call: element t is lane t of the f32 registers (R388). -/
def Call.lanes (c : Call) : List Nat := those 256 fun q => q < c.vl && c.act.getLsbD q

/-- The bits of a register of a strand, wherever its data is (R31, R246). -/
def State.regBits (s : State) (t : Strand) (r : Nat) : Nat :=
  match t.vres r, t.owner.pid?.bind s.part? with
  | .backed, some p => (s.ipaNat p (t.slotIpa r) 1024 false).getD (t.vreg r).toNat
  | _, _ => (t.vreg r).toNat

/-- A sample call (R388-R391): nothing is written before every lane is computed. -/
def runSample (c : Call) : E Unit := do
  let (f, t) ← checkSample c
  let lanes ← c.lanes.mapM fun q => do return (q, ← sampleLane c f t q)
  for (d, k) in c.rets.zipIdx do
    modify fun s =>
      if t.chans ≤ k then s.modStrand c.uid fun t => { t with vpend := setBit t.vpend d false }
      else match s.strand? c.uid with
        | none => s
        | some u =>
          s.returnV c.uid d (BitVec.ofNat 8192 (lanes.foldl (fun m (q, l) => setElem 32 q (nth l k 0) m) (s.regBits u d))) 10

/-- SAMPLE (R389), by call: calls run one at a time in acceptance order (R391). -/
def execTxuSample (s : State) : StepOut :=
  callStep 2 0 (fun s c => !(s.queued 2 c.eng 0).any fun d => d.id < c.id) (fun c s => endCall c (runSample c) s) s

end Sys2Proof.Machine
end

