-- ==== Sys2Proof/Machine/Ray.lean ====
section
/-! DEFINITION. Larkspur, the ray engine (R392-R407, R411-R415): exact geometry, traversal, bindings, traces, replies and
the sorting buffer. -/

namespace Sys2Proof.Machine

/-- A vector of three exact coordinates, in units of 2^-149. -/
structure Vec3 where
  x : Int
  y : Int
  z : Int
  deriving DecidableEq, Repr

/-- Difference. -/
def Vec3.sub (a b : Vec3) : Vec3 := ⟨a.x - b.x, a.y - b.y, a.z - b.z⟩
/-- a · (b × c). -/
def Vec3.det (a b c : Vec3) : Int :=
  a.x * (b.y * c.z - b.z * c.y) + a.y * (b.z * c.x - b.x * c.z) + a.z * (b.x * c.y - b.y * c.x)

/-- Three f32 values, none if one is NaN or infinite. -/
def vec3 (x y z : Nat) : Option Vec3 :=
  match coord x, coord y, coord z with
  | some a, some b, some c => some ⟨a, b, c⟩
  | _, _, _ => none

/-- A ray as the engine traverses it (R398): origin, direction and bounds. -/
structure RayQ where
  o : Vec3
  d : Vec3
  tmin : FVal
  tmax : FVal
  deriving DecidableEq, Repr

/-- A bound as a fraction, if it is finite. -/
def boundFrac : FVal → Option (Int × Int)
  | .num neg m e => some (scaled neg m e (-149), (2 ^ 149 : Nat))
  | _ => none

/-- a ≤ b for fractions with positive denominators. -/
def fracLe (a b : Int × Int) : Bool := a.1 * b.2 ≤ b.1 * a.2

/-- Is a number that is at least `t` there: tmin ≤ n/d (R398, R400)? -/
def RayQ.above (q : RayQ) (x : Int × Int) : Bool :=
  match q.tmin with
  | .inf neg => neg
  | .nan _ => false
  | v => (boundFrac v).any fun b => fracLe b x

/-- n/d ≤ tmax (R398, R400). -/
def RayQ.beneath (q : RayQ) (x : Int × Int) : Bool :=
  match q.tmax with
  | .inf neg => !neg
  | .nan _ => false
  | v => (boundFrac v).any fun b => fracLe x b

/-- A ray with its eight components (R398); none if it is final at once with MISS. -/
def rayOf (c : List (BitVec 32)) : Option RayQ :=
  let f := fun i => (nth c i 0).toNat
  let lo := unpack f32 (f 6)
  let hi := unpack f32 (f 7)
  match vec3 (f 0) (f 1) (f 2), vec3 (f 3) (f 4) (f 5) with
  | some o, some d =>
    if d = ⟨0, 0, 0⟩ || lo.isNan || hi.isNan || cmpV lo hi = .gt then none else some ⟨o, d, lo, hi⟩
  | _, _ => none

/-- The interval in which a ray is between two planes of an axis: fractions with positive denominators; none: never; some
none: always. -/
def slab (o d lo hi : Int) : Option (Option ((Int × Int) × (Int × Int))) :=
  if d = 0 then (if lo ≤ o && o ≤ hi then some none else none)
  else if 0 < d then some (some ((lo - o, d), (hi - o, d)))
  else some (some ((o - hi, -d), (o - lo, -d)))

/-- Does the segment of a ray meet a closed box, exactly (R392, R402)? -/
def RayQ.meetsBox (q : RayQ) (lo hi : Vec3) : Bool :=
  match slab q.o.x q.d.x lo.x hi.x, slab q.o.y q.d.y lo.y hi.y, slab q.o.z q.d.z lo.z hi.z with
  | some a, some b, some c =>
    let l := [a, b, c].filterMap id
    let empty := q.tmin = .inf false || q.tmax = .inf true
    !empty && (l.all fun x => q.beneath x.1 && q.above x.2) && l.all fun x => l.all fun y => fracLe x.1 y.2
  | _, _, _ => false

/-- The hit of a ray and a triangle, exactly, and the sign of F (R400). -/
def RayQ.hitTri (q : RayQ) (v0 v1 v2 : Vec3) : Option (Int × Int × Int × Int × Int) :=
  let e1 := v1.sub v0
  let e2 := v2.sub v0
  let s := q.o.sub v0
  let f := q.d.det e1 e2
  if f = 0 then none
  else
    let sg : Int := if f < 0 then 1 else -1
    let den := sg * -f
    let t := sg * s.det e1 e2
    let b1 := sg * (-(q.d.det s e2))
    let b2 := sg * (-(q.d.det e1 s))
    if 0 ≤ b1 && 0 ≤ b2 && b1 + b2 ≤ den && q.above (t, den) && q.beneath (t, den) then some (t, b1, b2, den, f) else none

/-- Does a hit beat another (R402)? -/
def Hit.beats (a b : Hit) : Bool :=
  let l := a.t * b.den
  let r := b.t * a.den
  l < r || (l = r && (a.prim.toNat < b.prim.toNat || (a.prim = b.prim && a.addr < b.addr)))

/-- Does a hit beat the best so far, if there is one? -/
def Hit.beatsO (a : Hit) : Option Hit → Bool
  | none => true
  | some b => a.beats b

/-- The sub-triangle of a hit in a micro-map of a level (R395). -/
def Hit.sub (h : Hit) (lvl : Nat) : Nat :=
  let n : Int := (2 ^ lvl : Nat)
  let i := h.b1 * n / h.den
  let j := h.b2 * n / h.den
  let (i, j) := if i + j = n then (if 0 < i then (i - 1, j) else (i, j - 1)) else (i, j)
  let up : Int := if h.den < (h.b1 * n - i * h.den) + (h.b2 * n - j * h.den) then 1 else 0
  (j * (2 * n - j) + 2 * i + up).toNat

/-- How the traversal of a ray ends (R402): MISS, HIT, a candidate and the way to it, without a specified result (R413: a status,
elements, and a hit to go on from), or never. -/
inductive RayEnd where
  | miss
  | hit (h : Hit)
  | cand (h : Hit) (way : List Nat)
  | loose (st : Nat) (vals : List Nat) (h : Hit)
  | never
  deriving DecidableEq, Repr

/-- What a traversal works on: the call whose address space it uses, the binding, the header flags and the ray. -/
structure Scene where
  c : Call
  root : Nat
  ommb : Nat
  flags : BitVec 8
  q : RayQ
  decided : List Nat
  deriving DecidableEq, Repr

/-- CLOSEST (R398). -/
def Scene.closest (x : Scene) : Bool := x.flags.getLsbD 3

/-- A traversal in progress: the best accepted hit, the candidates met, its end, whether a byte was read that was written without
order, and what was read (R413). -/
structure Trav where
  best : Option Hit
  cands : List Hit
  done : Option RayEnd
  race : Bool
  reads : List (Nat × Nat)
  deriving DecidableEq, Repr

/-- A traversal meets a fault (R411). One that has read a byte written without order ends no call: its ray's results are unspecified
(R413), which code 0 says here. -/
def Trav.fail {α : Type} (st : Trav) (f : CallFault) : E α := faultAt (if st.race then 0 else f.code) f.va

/-- The place of scene bytes (R411). -/
def Scene.spot (x : Scene) (va n : Nat) (st : Trav) : E Place := do
  match ← tryE (operand x.c (wd va) .r) with
  | .error f => st.fail f
  | .ok pl => if (← get).badAt pl.addr n then st.fail ⟨7, va⟩ else return pl

/-- Scene bytes (R411, R413). -/
def Scene.read (x : Scene) (va n : Nat) (st : Trav) : E (List Byte × Trav) := do
  let mut l : List Byte := []
  let mut st := st
  for (a, k) in rangeOf va n do
    let pl ← x.spot a k st
    let s ← get
    st := { st with race := st.race || s.unsure x.c pl.addr k, reads := (pl.addr, k) :: st.reads }
    l := l ++ (← viewBytes x.c pl.addr k)
  return (l, st)

/-- What a met triangle is (R401): 0 transparent, 1 opaque, 2 unknown. -/
def Scene.classify (x : Scene) (w : Nat) (h : Hit) (st : Trav) : E (Nat × Trav) := do
  let two := x.flags.getLsbD 7
  if x.flags.getLsbD 6 then return (1, st)
  else if bit w 0 then
    let s := h.sub (bits w 2 3)
    let (l, st) ← x.read ((x.ommb + bits w 8 40 + s / 4) % 2 ^ 64) 1 st
    match bits (leNat l) (2 * (s % 4)) 2 with
    | 0 => return (0, st)
    | 1 => return (1, st)
    | 2 => return (if two then 0 else 2, st)
    | _ => return (if two then 1 else 2, st)
  else return (if bit w 1 || two then 1 else 2, st)

/-- Test one triangle (R394, R400-R402), `way` leading to it. -/
def Scene.triangle (x : Scene) (va : Nat) (way : List Nat) (st : Trav) : E Trav := do
  if st.done.isSome then return st
  let (l, st) ← x.read va 48 st
  let f := fun i => leNat (slice l (4 * i) 4)
  let w := dwordAt l 5
  if !(bits w 5 3 = 0 && bits w 48 16 = 0 && bits w 2 3 ≤ 6) then st.fail ⟨0x15, 0⟩
  match vec3 (f 0) (f 1) (f 2), vec3 (f 3) (f 4) (f 5), vec3 (f 6) (f 7) (f 8) with
  | some v0, some v1, some v2 =>
    match x.q.hitTri v0 v1 v2 with
    | none => return st
    | some (t, b1, b2, den, fs) =>
      if (fs < 0 && x.flags.getLsbD 4) || (0 < fs && x.flags.getLsbD 5) then return st
      let h : Hit := ⟨t, b1, b2, den, BitVec.ofNat 32 (f 9), va⟩
      let (k, st) ← x.classify w h st
      match k with
      | 0 => return st
      | 1 =>
        if x.closest then return { st with best := if h.beatsO st.best then some h else st.best }
        else return { st with done := some (.hit h) }
      | _ =>
        if x.closest then
          if x.decided.contains va || st.cands.any (·.addr == va) then return st
          else return { st with cands := st.cands ++ [h] }
        else return { st with done := some (.cand h way) }
  | _, _, _ => return st

/-- Does a child word keep R393? -/
def childOk (w : Nat) : Bool :=
  match bits w 0 2 with
  | 0 => true
  | 1 => fieldsZero w [(2, 2), (52, 3), (58, 6), (4, 3)]
  | 2 => fieldsZero w [(2, 2), (52, 3), (58, 6)]
  | _ => false

/-- The box of a child (R392), none if it is empty. -/
def childBox (l : List Byte) (o : Vec3) (c : Nat) : Option (Vec3 × Vec3) :=
  let byte := fun i => (nth l i 0).toNat
  let u := fun a => ((2 ^ (byte (12 + a) + 22) : Nat) : Int)
  let lo := fun a => byte (16 + 6 * c + a)
  let hi := fun a => byte (19 + 6 * c + a)
  if hi 0 < lo 0 || hi 1 < lo 1 || hi 2 < lo 2 then none
  else some (⟨o.x + lo 0 * u 0, o.y + lo 1 * u 1, o.z + lo 2 * u 2⟩,
    ⟨o.x + (hi 0 + 1 : Nat) * u 0, o.y + (hi 1 + 1 : Nat) * u 1, o.z + (hi 2 + 1 : Nat) * u 2⟩)

/-- Where a traversal goes on below child `c`, `after` leading to the triangle after which it resumes (R402): none if it has passed the
child, else what is left of the way, none for all of it. -/
def resumeIn (after : Option (List Nat)) (c : Nat) : Option (Option (List Nat)) :=
  match after with
  | some (a :: rest) => if c < a then none else if c = a then some (some rest) else some none
  | _ => some none

/-- Does a traversal that resumes after a triangle pass triangle `i` of a block (R402)? -/
def resumePast (after : Option (List Nat)) (i : Nat) : Bool :=
  match after with
  | some (a :: _) => i ≤ a
  | _ => false

/-- The box and the word of a child of a node (R392, R393): neither is read where its KIND is 0. -/
def Scene.child (x : Scene) (base c : Nat) (st : Trav) : E (List Byte × List Byte × Trav) := do
  let pl ← x.spot (base + 64 + 8 * c) 1 st
  let now := (← get).byteAt pl.addr
  let seen ← viewBytes x.c pl.addr 1
  if bits (leNat seen) 0 2 = 0 && bits now.toNat 0 2 = 0 then return (leBytes 6 0, leBytes 8 0, st)
  let (b, st) ← x.read (base + 16 + 6 * c) 6 st
  let (w, st) ← x.read (base + 64 + 8 * c) 8 st
  return (b, w, st)

/-- The 128 bytes of a node, those of empty children as 0 (R392, R393). -/
def Scene.block (x : Scene) (base : Nat) (st : Trav) : E (List Byte × Trav) := do
  let (h, st) ← x.read base 16 st
  let (boxes, words, st) ← (below 8).foldlM (fun (bs, ws, st) c => do
    let (b, w, st) ← x.child base c st
    return (bs ++ b, ws ++ w, st)) (([] : List Byte), ([] : List Byte), st)
  return (h ++ boxes ++ words, st)

/-- Visit a node, depth first, children in slot order (R392, R393, R402), after the triangle that `after` leads to. A box that the ray
does not meet may be entered all the same. -/
def Scene.node (x : Scene) : (fuel off : Nat) → (after : Option (List Nat)) → (way : List Nat) → Trav → E Trav
  | 0, _, _, _, st => return { st with done := st.done <|> some .never }
  | fuel + 1, off, after, way, st => do
    if st.done.isSome then return st
    let (l, st) ← x.block ((x.root + off) % 2 ^ 64) st
    let byte := fun i => (nth l i 0).toNat
    let word := fun c => dwordAt l (8 + c)
    if !(byte 15 = 0 && ((below 3).all fun a => 1 ≤ byte (12 + a) && byte (12 + a) ≤ 254) &&
      (below 8).all fun c => childOk (word c)) then st.fail ⟨0x15, 0⟩
    (below 8).foldlM (fun st c => do
      let w := word c
      if bits w 0 2 = 0 || st.done.isSome || (resumeIn after c).isNone then return st
      let rest := (resumeIn after c).getD none
      let origin := vec3 (leNat (slice l 0 4)) (leNat (slice l 4 4)) (leNat (slice l 8 4))
      match origin.bind fun o => childBox l o c with
      | none => return st
      | some (lo, hi) =>
        let go ← if x.q.meetsBox lo hi then pure true else ofM freeBool
        if !go then return st
        let o := bits w 4 48 * 16
        if bits w 0 2 = 1 then Scene.node x fuel o rest (way ++ [c]) st
        else (below (bits w 55 3 + 1)).foldlM (fun st i =>
          if resumePast rest i then return st
          else x.triangle ((x.root + o + 48 * i) % 2 ^ 64) (way ++ [c, i]) st) st) st

/-- A free integer. -/
def freeInt : M Int := do
  let n ← free
  return if ← freeBool then -(n : Int) else n

/-- An unspecified end of a ray (R413): any status and elements, and any hit to go on from. -/
def anyEnd : M RayEnd := do
  let st ← freeBelow 4
  let t ← freeBelow (2 ^ 32)
  let p ← freeBelow (2 ^ 32)
  let b1 ← freeBelow (2 ^ 32)
  let b2 ← freeBelow (2 ^ 32)
  let h : Hit := ⟨← freeInt, ← freeInt, ← freeInt, (← free) + 1, BitVec.ofNat 32 (← free), ← free⟩
  return .loose st [t, p, b1, b2] h

/-- The end of a closest-hit traversal (R402): the best accepted hit, unless a candidate is parked. Which candidate, and
whether one that the result beats is parked, depends on an order that is free. -/
def closestEnd (old best : Option Hit) (cands : List Hit) : M RayEnd := do
  let best := match best, old with
    | some a, some b => if a.beats b then some a else some b
    | some a, none => some a
    | none, o => o
  let opts := cands.filter (·.beatsO old)
  let must := opts.any (·.beatsO best)
  let fin ← if must then pure false else if opts.isEmpty then pure true else freeBool
  if fin then return (match best with
    | some h => .hit h
    | none => .miss)
  match opts[← freeBelow opts.length]? with
  | some h => return .cand h []
  | none => return .miss

/-- Depth beyond which a traversal repeats a node and never ends: a node offset has 52 bits and is a multiple of 128. -/
def rayDepth : Nat := 2 ^ 45 + 1

/-- Traverse a ray (R402): its end, and what it has read. One whose results are unspecified ends in any way (R413). -/
def traverse (c : Call) (b : RayBind) (flags : BitVec 8) (r : Ray) : E (RayEnd × List (Nat × Nat)) := do
  if r.loose then return (← ofM anyEnd, [])
  match rayOf r.comp with
  | none => return (.miss, [])
  | some q =>
    let x : Scene := ⟨c, b.root.toNat, b.ommb.toNat, flags, q, r.decided⟩
    let after := if x.closest || r.passed.isEmpty then none else some r.passed
    match ← tryE (x.node rayDepth 0 after [] ⟨none, [], none, false, []⟩) with
    | .error f => if f.code = 0 then return (← ofM anyEnd, []) else throw f
    | .ok st =>
      let e ← if st.race then ofM anyEnd
        else match st.done with
          | some e => pure e
          | none => if x.closest then ofM (closestEnd r.best st.best st.cands) else pure .miss
      return (e, st.reads)

/-- The hash of a ray (R404). -/
def rayHash (box : List (BitVec 32)) (c : List (BitVec 32)) : Nat :=
  let cell := fun a =>
    match coord (nth box a 0).toNat, coord (nth box (a + 3) 0).toNat, coord (nth c a 0).toNat with
    | some lo, some hi, some o => if hi ≤ lo then 0 else (min (max (8 * (o - lo) / (hi - lo)) 0) 7).toNat
    | _, _, _ => 0
  let sg := fun a => if bit (nth c (3 + a) 0).toNat 31 then 1 else 0
  (cell 0 <<< 6 + cell 1 <<< 3 + cell 2) <<< 3 + sg 0 <<< 2 + sg 1 <<< 1 + sg 2

/-- Is a ray not final? -/
def Ray.live (r : Ray) : Bool := r.stat != .final

/-- The binding of a context on an engine (R397). -/
def State.bind? (s : State) (eng pid ctx num : Nat) : Option RayBind :=
  s.binds.find? fun b => b.eng = eng && b.pid = pid && b.ctx = ctx && b.num = num

/-- Sets without a live ray are gone (R405). -/
def State.pruneSets (s : State) : State := { s with raysets := s.raysets.filter fun x => x.rays.any Ray.live }

/-- Change a ray of a set. -/
def State.modRay (s : State) (x : RaySet) (idx : Nat) (f : Ray → Ray) : State :=
  { s with raysets := s.raysets.map fun y =>
      if y.eng = x.eng && y.pid = x.pid && y.ctx = x.ctx && y.rsid = x.rsid && y.uid = x.uid then
        { y with rays := y.rays.map fun r => if r.idx = idx then f r else r }
      else y }

/-- An exact fraction rounded once to f32 (R403). -/
def roundFrac (n d : Int) : Nat := if n = 0 then 0 else (roundRat f32 0 (n < 0) n.natAbs d.natAbs false).1

/-- The elements t, PRIM, b1 and b2 of a result (R403). -/
def hitVals : Option Hit → List Nat
  | some h => [roundFrac h.t h.den, h.prim.toNat, roundFrac h.b1 h.den, roundFrac h.b2 h.den]
  | none => [f32.inf false, 0xFFFFFFFF, 0, 0]

/-- A result of a lane of a call (R403). -/
def State.laneResult (s : State) (cid lane st : Nat) (h : Option Hit) (rsid : BitVec 16) (reads : List (Nat × Nat) := []) : State :=
  { s with laneRes := s.laneRes ++ [⟨cid, lane, st, hitVals h, rsid, reads⟩] }

/-- The five elements of a result (R403). -/
def LaneRes.elems (l : LaneRes) : List Nat := (l.st + l.rsid.toNat <<< 16) :: l.vals

/-- An unspecified result in the place of one (R413; log 7). -/
def State.anyResult (s : State) (l : LaneRes) : LaneRes :=
  let f := fun (j : Nat) => Config.free s.tick (2 ^ 51 + 4096 * l.cid + 8 * l.lane + j) % 2 ^ 32
  { l with st := f 0 % 4, vals := [f 1, f 2, f 3, f 4] }

/-- Has another written a byte that the ray of a result has read, since the call was accepted (R413)? -/
def State.lateRace (s : State) (l : LaneRes) : Bool :=
  s.raced.any fun y => y.cid = l.cid && l.reads.any fun (a, n) => meets a n y.addr y.n

/-- A result is unspecified if such a byte was read. -/
def State.settleLane (s : State) (l : LaneRes) : LaneRes := if s.lateRace l then s.anyResult l else l

/-- The rays of such results that stay parked have unspecified results from then on (R413). -/
def State.loosenRays (s : State) (l : List LaneRes) : State :=
  let bad := (l.filter s.lateRace).map fun x => (x.cid, x.lane)
  if bad.isEmpty then s
  else { s with raysets := s.raysets.map fun x => { x with
    rays := x.rays.map fun r => if bad.contains (r.cid, r.lane) then { r with loose := true } else r } }

/-- A trace or reply whose rays are all final or parked completes with its results (R403, R407). -/
def State.finishRays (s : State) (c : Call) : State :=
  if s.raysets.any fun x => x.rays.any fun r => r.cid = c.id && r.stat = .flying then s
  else
    let mine := s.laneRes.filter (·.cid == c.id)
    let res := mine.map s.settleLane
    let s := { s.loosenRays mine with laneRes := s.laneRes.filter (·.cid != c.id) }
    let s := c.rets.zipIdx.foldl (fun s (d, j) =>
      match s.strand? c.uid with
      | none => s
      | some u => s.returnV c.uid d (BitVec.ofNat 8192 (res.foldl (fun m (l : LaneRes) => setElem 32 l.lane (nth l.elems j 0) m)
          (s.regBits u d))) (nth [4, 10, 4, 10, 10] j 4)) s
    let s := match c.rk with
      | some d => s.returnK c.uid d (BitVec.ofNat 2048 (res.foldl (fun m (l : LaneRes) => if l.st = 2 then m + 2 ^ l.lane else m) 0))
      | none => s
    s.callDone c

/-- Discard the rays that satisfy `p`: the lane of a reply that a discarded ray flew for reads NONE, and such a reply
completes when it has no ray left (R405, R407, R411). -/
def State.dropRays (s : State) (except : Nat) (p : RaySet → Ray → Bool) : State :=
  let gone := s.raysets.flatMap fun x => (x.rays.filter fun r => r.live && p x r).map fun r => (x, r)
  let s := { s with raysets := s.raysets.map fun (x : RaySet) => { x with
    rays := x.rays.map fun (r : Ray) => if r.live && p x r then { r with stat := .final } else r } }
  let s := s.pruneSets
  let fly := gone.filter fun (_, r) => r.stat = .flying && r.cid != except
  let s := fly.foldl (fun s (x, r) => s.laneResult r.cid r.lane 3 none x.rsid) s
  (fly.map fun (_, r) => r.cid).eraseDups.foldl (fun s cid =>
    match s.call? cid with
    | some c => s.finishRays c
    | none => s) s

/-- A fault of a trace or reply in traversal (R411). -/
def State.faultRays (s : State) (c : Call) (f : CallFault) : State :=
  let s := { s with laneRes := s.laneRes.filter (·.cid != c.id) }
  let s := s.callFault c f.code f.va
  if c.queue = 0 then s.dropRays c.id fun x _ => x.cid = c.id
  else s.dropRays c.id fun _ r => r.cid = c.id

/-- Let one flying ray of a set traverse (R402, R403). -/
def State.flyRay (s : State) (x : RaySet) (r : Ray) : State :=
  match s.call? r.cid, s.bind? x.eng x.pid x.ctx x.bind with
  | some c, some b =>
    match (traverse c b x.flags r).run s with
    | .error f s' => s'.faultRays c f
    | .ok (e, l) s' =>
      let fin := s'.modRay x r.idx fun r => { r with stat := .final }
      match e with
      | .never => s'
      | .miss => ((fin.laneResult c.id r.lane 0 none x.rsid l).pruneSets).finishRays c
      | .hit h => ((fin.laneResult c.id r.lane 1 (some h) x.rsid l).pruneSets).finishRays c
      | .cand h way => ((s'.modRay x r.idx fun r => { r with stat := .parked h, passed := way }).laneResult c.id r.lane 2 (some h)
          x.rsid l).finishRays c
      | .loose st vals h =>
        let s'' := if st = 2 then s'.modRay x r.idx fun r => { r with stat := .parked h, loose := true } else fin
        (({ s'' with laneRes := s''.laneRes ++ [⟨c.id, r.lane, st, vals, x.rsid, l⟩] } : State).pruneSets).finishRays c
  | _, _ => s

/-- The flying rays of a context on an engine that satisfy `p`, with their hash. -/
def State.buffered (s : State) (eng ctx : Nat) (p : RaySet → Nat → Bool) : List (Nat × RaySet × Ray) :=
  s.raysets.flatMap fun x =>
    if x.eng = eng && x.ctx = ctx then
      let box := ((s.bind? x.eng x.pid x.ctx x.bind).map (·.hash)).getD []
      x.rays.filterMap fun r =>
        let h := rayHash box r.comp
        if r.stat = .flying && p x h then some (h, x, r) else none
    else []

/-- Release rays to traversal, in ascending h (R404); one that a fault has discarded meanwhile is passed. -/
def State.release (s : State) (l : List (Nat × RaySet × Ray)) : State :=
  (sortBy (fun a b => decide (a.1 ≤ b.1)) l).foldl (fun s (_, x, r) =>
    if s.raysets.any fun y => y.eng = x.eng && y.pid = x.pid && y.ctx = x.ctx && y.rsid = x.rsid && y.rays.contains r then
      s.flyRay x r
    else s) s

/-- RAY_BATCH_RELEASE (R404), by engine, hash, binding and context: the group holds 32 rays or its oldest came 2,048 clk
ago. -/
def execRayBatchRelease (s : State) : StepOut :=
  let l := s.buffered s.ev.x s.ev.v.toNat fun x h => h = s.ev.y && x.bind = s.ev.z
  .next (if 32 ≤ l.length || l.any fun (_, _, r) => 2048 ≤ s.time.toNat - r.since then s.release l else s)

/-- Checks of a control call of the RTE up to its alignment (R396, R411). -/
def checkRayControl (c : Call) : E Unit := do
  let r := c.record.toNat
  require (fieldsZero r [(7, 9), (32, 32), (384, 128)]) 0x03
  match bits r 0 4 with
  | 1 =>
    require (bits r 16 16 = 0) 0x10
    require (bits r 64 64 % 128 = 0) 0x06
  | 2 => require (fieldsZero r [(16, 16), (64, 320)]) 0x10
  | 3 => require (fieldsZero r [(4, 3), (64, 320)]) 0x10
  | _ => faultAt 0x10

/-- Has a binding rays in flight or parked (R397)? -/
def State.bindBusy (s : State) (c : Call) (num : Nat) : Bool :=
  s.raysets.any fun x => x.eng = c.eng && x.pid = c.pid && x.ctx = c.ctx && x.bind = num && x.rays.any Ray.live

/-- The bindings without one of a context. -/
def State.unbound (s : State) (c : Call) (num : Nat) : List RayBind :=
  s.binds.filter fun b => !(b.eng = c.eng && b.pid = c.pid && b.ctx = c.ctx && b.num = num)

/-- BIND (R397). -/
def runRtBind (c : Call) : E Unit := do
  checkRayControl c
  let s ← get
  let r := c.record.toNat
  let num := bits r 4 3
  require (!s.bindBusy c num) 0x13
  let rest := s.unbound c num
  require ((rest.filter (·.eng == c.eng)).length < 64) 0x14
  withinQuota c
  let b : RayBind := {
    eng := c.eng, pid := c.pid, ctx := c.ctx, num := num, root := wd (bits r 64 64), ommb := wd (bits r 128 64)
    hash := (below 6).map fun i => BitVec.ofNat 32 (bits r (192 + 32 * i) 32) }
  set { s with binds := rest ++ [b] }

/-- BIND (R397), by call; it also takes a call whose TYPE queue 2 does not have, which ends in check 2. -/
def execRtBind (s : State) : StepOut :=
  callStep 5 2 (fun s c => s.isNext c && (c.ctlType = 1 || c.ctlType = 0 || 3 < c.ctlType))
    (fun c s => endCall c (runRtBind c) s) s

/-- UNBIND (R397). -/
def runRtUnbind (c : Call) : E Unit := do
  checkRayControl c
  let s ← get
  let num := bits c.record.toNat 4 3
  require (s.bind? c.eng c.pid c.ctx num).isSome 0x12
  require (!s.bindBusy c num) 0x13
  withinQuota c
  set { s with binds := s.unbound c num }

/-- UNBIND (R397), by call. -/
def execRtUnbind (s : State) : StepOut :=
  callStep 5 2 (fun s c => s.isNext c && c.ctlType = 2) (fun c s => endCall c (runRtUnbind c) s) s

/-- The live set of a strand on an engine (R405). -/
def State.liveSet (s : State) (c : Call) (rsid : Nat) : Option RaySet :=
  s.raysets.find? fun x => x.eng = c.eng && x.uid = c.uid && x.pid = c.pid && x.ctx = c.ctx && x.rsid.toNat = rsid &&
    x.rays.any Ray.live

/-- DROP (R397, R405). -/
def runRtDrop (c : Call) : E Unit := do
  checkRayControl c
  let s ← get
  match s.liveSet c (bits c.record.toNat 16 16) with
  | none => faultAt 0x18
  | some x =>
    withinQuota c
    set (s.dropRays c.id fun y r => y = x && r.stat != .flying)

/-- DROP (R397), by call. -/
def execRtDrop (s : State) : StepOut :=
  callStep 5 2 (fun s c => s.isNext c && c.ctlType = 3) (fun c s => endCall c (runRtDrop c) s) s

/-- The live rays on an engine that satisfy `p`. -/
def State.rayLoad (s : State) (eng : Nat) (p : RaySet → Bool) : Nat :=
  (s.raysets.filter fun x => x.eng = eng && p x).foldl (fun n x => n + (x.rays.filter Ray.live).length) 0

/-- The next RSID of a context on an engine (R399): values that are still live are passed. -/
def State.nextRsid (s : State) (c : Call) : (fuel n : Nat) → Nat
  | 0, n => n
  | fuel + 1, n =>
    if s.raysets.any fun x => x.eng = c.eng && x.pid = c.pid && x.ctx = c.ctx && x.rsid.toNat = n then
      s.nextRsid c fuel ((n + 1) % 2 ^ 16)
    else n

/-- The checks of a trace (R398, R411). -/
def checkTrace (c : Call) : E Unit := do
  let h := c.word 0 0
  require (bits h 8 24 = 0) 0x03
  let tags := c.regs.map fun r => r.tag.toNat
  require (tags = [4, 10, 10, 10, 10, 10, 10, 10, 10] && !c.rets.isEmpty) 0x10
  let s ← get
  require (s.bind? c.eng c.pid c.ctx (bits h 0 3)).isSome 0x12
  let new := (c.lanes.filter fun q => (rayOf ((below 8).map fun i => BitVec.ofNat 32 (c.word (i + 1) q))).isSome).length
  require (s.rayLoad c.eng (fun x => x.pid = c.pid && x.ctx = c.ctx) + new ≤ 3072) 0x08
  withinQuota c

/-- A trace starts (R398, R399, R413): its set is created, and rays that are final at once have their result. It waits
while the engine has no room. -/
def startTrace (c : Call) (s : State) : State :=
  match (checkTrace c).run s with
  | .error f s' => s'.callFault c f.code f.va
  | .ok _ s =>
    let h := c.word 0 0
    let rays : List Ray := c.lanes.map fun q =>
      let comp := (below 8).map fun i => BitVec.ofNat 32 (c.word (i + 1) q)
      ⟨q, comp, if (rayOf comp).isSome then .flying else .final, c.id, q, s.time.toNat, none, [], [], false⟩
    let new := (rays.filter Ray.live).length
    if 4096 < s.rayLoad c.eng (fun _ => true) + new then s
    else
      let mine := fun (x : Nat × Nat × Nat × Nat) => x.1 = c.eng && x.2.1 = c.pid && x.2.2.1 = c.ctx
      let next := ((s.rsids.find? mine).map fun x => x.2.2.2).getD 0
      let id := s.nextRsid c 65536 next
      let rsid := BitVec.ofNat 16 id
      let x : RaySet := ⟨c.eng, c.pid, c.ctx, c.uid, rsid, bits h 0 3, BitVec.ofNat 8 h, rays, c.id⟩
      let s := { s with
        rsids := (c.eng, c.pid, c.ctx, (id + 1) % 2 ^ 16) :: s.rsids.filter fun x => !mine x
        raysets := s.raysets ++ [x] }
      let s := (rays.filter fun r => !r.live).foldl (fun s r => s.laneResult c.id r.lane 0 none rsid) s
      ((s.modCall c.id fun c => { c with started := true }).pruneSets).finishRays c

/-- TRACE (R402), by call: the start of the trace. -/
def execRtTrace (s : State) : StepOut := callStep 5 0 (fun s c => s.isNext c) startTrace s

/-- The checks of a reply (R406, R411): its set. -/
def checkReply (c : Call) : E RaySet := do
  let h := c.word 0 0
  require (bits h 16 16 = 0) 0x03
  require (c.regs.map (fun r => r.tag.toNat) = [4, 4, 4] && !c.rets.isEmpty) 0x10
  match (← get).liveSet c (bits h 0 16) with
  | none => faultAt 0x18
  | some x =>
    require (c.lanes.all fun p => c.word 2 p ≤ 2) 0x16
    withinQuota c
    return x

/-- One lane of a reply (R407). -/
def State.replyLane (s : State) (c : Call) (x : RaySet) (p : Nat) : State :=
  let again := c.lanes.any fun q => q < p && c.word 1 q = c.word 1 p
  let idx := c.word 1 p
  let ray := (s.raysets.find? fun y => y.eng = x.eng && y.pid = x.pid && y.ctx = x.ctx && y.uid = x.uid &&
    y.rsid = x.rsid).bind fun y => y.rays.find? (·.idx == idx)
  match ray, again with
  | some r, false =>
    match r.stat with
    | .parked h =>
      let again' := fun (best : Option Hit) => s.modRay x idx fun r => { r with
        stat := .flying, cid := c.id, lane := p, since := s.time.toNat, best := best
        decided := h.addr :: r.decided }
      let fin := s.modRay x idx fun r => { r with stat := .final }
      let ends := if r.loose then { fin with laneRes := fin.laneRes ++ [s.anyResult ⟨c.id, p, 1, [], x.rsid, []⟩] }
        else fin.laneResult c.id p 1 (some h) x.rsid
      match c.word 2 p with
      | 0 => again' r.best
      | 1 => if x.flags.getLsbD 3 then again' (some h) else ends
      | _ => ends
    | _ => s.laneResult c.id p 3 none x.rsid
  | _, _ => s.laneResult c.id p 3 none x.rsid

/-- A reply starts (R407): its decisions act, and its rays resume. -/
def startReply (c : Call) (s : State) : State :=
  match (checkReply c).run s with
  | .error f s' => s'.callFault c f.code f.va
  | .ok x s =>
    let s := c.lanes.foldl (fun s p => s.replyLane c x p) s
    ((s.modCall c.id fun c => { c with started := true }).pruneSets).finishRays c

/-- REPLY (R407), by call: the start of the reply. -/
def execRtReply (s : State) : StepOut := callStep 5 1 (fun s c => s.isNext c) startReply s

end Sys2Proof.Machine
end

