-- ==== Sys2Proof/Machine/Vector.lean ====
section
/-! DEFINITION. The common frame of vector entries (R232-R234, R239-R243, R253, R254): elements, activity, checks,
residency and the element loop. -/

namespace Sys2Proof.Machine

/-- What became of an entry that ran: it retires (a `vldff` with a new VL), stops at a pre-emption point with elements
left, or faults at an element (R153, R163, R239, R296). -/
inductive VOut where
  | retire (vl : Option Nat)
  | stop (vs : Nat)
  | trap (vs : Nat) (t : Trap)
  deriving DecidableEq, Repr

/-- Element `e` of width `w` of the group that starts at a register (R232). -/
def Strand.elemAt (t : Strand) (base w e : Nat) : Nat :=
  elem w (e % (8192 / w)) (t.vreg (base + e / (8192 / w))).toNat

/-- A strand with element `e` of a group written: the register is dirty and not poisoned (R142, R246). -/
def Strand.putElem (t : Strand) (base w e x : Nat) : Strand :=
  let r := base + e / (8192 / w)
  { t with
    v := t.v.setIfInBounds r (BitVec.ofNat 8192 (setElem w (e % (8192 / w)) x (t.vreg r).toNat))
    res := t.res.setIfInBounds r .dirty
    vpoison := setBit t.vpoison r false }

/-- A strand with bit `e` of a mask register written; k0 is never written (R140, R142). -/
def Strand.putMask (t : Strand) (k e : Nat) (b : Bool) : Strand :=
  if k = 0 then t
  else { t with k := t.k.setIfInBounds k (setBit (t.kreg k) e b), kpoison := setBit t.kpoison k false }

/-- A strand with the tags of `g` registers set (R234). -/
def Strand.setTags (t : Strand) (base g tag : Nat) : Strand :=
  { t with tags := loop g (fun i v => v.setIfInBounds (base + i) (BitVec.ofNat 4 tag)) t.tags }

/-- The current mask CM (R241). -/
def Strand.cm (t : Strand) : MBits := t.mstack.getLast?.getD (BitVec.allOnes 2048)

/-- The active elements in [lo, n) under a governing mask and CM (R240). -/
def Strand.active (t : Strand) (k : MBits) (lo n : Nat) : List Nat :=
  ((below n).drop lo).filter fun e => k.getLsbD e && t.cm.getLsbD e

/-- The words of an entry as TRAPVAL holds them (R99). -/
def VEntry.words (e : VEntry) : Word := e.w1.setWidth 64 ||| (e.w2.setWidth 64 <<< 32)

/-- Illegal instruction as a queued trap (R239, R253). -/
def badEntry (e : VEntry) : M α := trapAt 1 e.words

/-- Type mismatch (R159, R234): TRAPVAL holds the tags of the first and the second vector source; for a source that the
instruction does not have the spec states no tag, and the field is free (log 7). -/
def mismatch (tags : List Nat) : M α := do
  let f := Config.free (← get).tick 999983
  let a := tags[0]?.getD (f % 16)
  let b := tags[1]?.getD (f / 16 % 16)
  trapAt 9 (wd (a + b <<< 4))

/-- The rounding mode of an entry: DYN is the captured FRM, and 5 to 7 there are illegal (R253). -/
def VEntry.mode (e : VEntry) (rm : Nat) : M Nat :=
  let r := if rm = 7 then e.frm.toNat else rm
  if 4 < r then badEntry e else pure r

/-- An entry that runs to completion requires VSTART = 0 (R163, R239). -/
def VEntry.whole (e : VEntry) : M Unit := do
  if (← me).vstart != 0 then badEntry e

/-- Poison consumed by vector and mask sources (R143, R159); with `keep` what was swapped in stays, and with it its poison. -/
def consume (regs masks : List Nat) (keep : Bool := false) : M Unit := do
  let t ← me
  match regs.find? fun r => t.vpoison.getLsbD r with
  | some r => throw (.trap ⟨0x0F, wd (1 + r <<< 2), .sup⟩ keep)
  | none => pure ()
  match masks.find? fun k => k != 0 && t.kpoison.getLsbD k with
  | some k => throw (.trap ⟨0x0F, wd (2 + k <<< 2), .sup⟩ keep)
  | none => pure ()

/-- Make the registers of an entry resident, in ascending number (R247, R249). -/
def reside (named : List Nat) : M Unit := do
  for r in (below 64).filter fun r => named.contains r do
    if !(← makeResident r named) then trapAt 0x0A (wd r)
  if !(← me).live then stallKeep

/-- Poison of an entry's sources if an element is active, then residency of the registers that it names (R254); a source that its
swap-in poisons is consumed as well (R142, R143, R247). -/
def ready (named srcs masks : List Nat) (active : Bool) : M Unit := do
  if active then consume srcs masks
  reside named
  if active then consume srcs [] true

/-- What stands before the first element of an entry (R254): poison and residency, and the merging of open tiles that its
registers belong to (R243). -/
def prepare (named srcs masks : List Nat) (active : Bool) : M Unit := do
  ready named srcs masks active
  let t ← me
  for r in named do
    mergeFor t.uid r

/-- Where an element loop over [vs, n) ends: at `n`, or, where the vector unit lags behind, possibly at a multiple of 8 on
the way (R163). After the last element, also where n is a multiple of 8, it goes on to its end (DESIGN CHOICE, log 87). -/
def stopBound (vs n : Nat) : M Nat := do
  let m := (n - 1) / 8 - vs / 8
  if (← me).eager || n ≤ vs then return n
  let k ← freeBelow (m + 1)
  return if k = 0 then n else (vs / 8 + k) * 8

/-- The element loop of R254: `f` gives the value and flags of an element, `put` writes it, `fin` sets the tag. -/
def elementwise (e : VEntry) (k : MBits) (cap : Nat) (f : Nat → M (Nat × FSet)) (put : Nat → Nat → Strand → Strand)
    (fin : Strand → Strand) : M VOut := do
  let t ← me
  let vs := t.vstart.toNat
  let n := min e.vl cap
  let hi ← stopBound vs n
  for i in t.active k vs hi do
    let (x, fl) ← f i
    modMe fun t => (put i x t).laneOr i fl
  if hi < n then return .stop hi
  modMe fin
  return .retire none

/-- Is an element active at or above VSTART (R143)? -/
def VEntry.any (e : VEntry) (t : Strand) (k : MBits) (cap : Nat) : Bool :=
  !(t.active k t.vstart.toNat (min e.vl cap)).isEmpty

/-- Write elements of a register or group. -/
def intoV (base w : Nat) (i x : Nat) (t : Strand) : Strand := t.putElem base w i x

/-- Write bits of a mask. -/
def intoK (d : Nat) (i x : Nat) (t : Strand) : Strand := t.putMask d i (x != 0)

/-- Is a tag one of the integer tags? -/
def isInt (tag : Nat) : Bool := tag < 8
/-- Is a tag one of the signed integer tags? -/
def isSigned (tag : Nat) : Bool := tag < 8 && tag % 2 = 1

/-- An element of an integer tag as an integer (R44). -/
def intVal (tag w x : Nat) : Int := if isSigned tag then toS w x else ((x % 2 ^ w : Nat) : Int)

/-- The format of a floating-point tag. -/
def tagFmt (tag : Nat) : Fmt := (fmtOfTag tag).getD f32

end Sys2Proof.Machine
end

