-- ==== Sys2Proof/Machine/VectorCompute.lean ====
section
/-! DEFINITION. The vector arithmetic, mask, permute and tile operations as their entries execute (R252-R281). -/

namespace Sys2Proof.Machine

/-- Element `e` of a second operand: of a register, or the low `w` bits of the scalar (R234, R259). -/
def VSrc.at (b : VSrc) (t : Strand) (w e : Nat) : Nat :=
  match b with
  | .reg r => t.elemAt r.toNat w e
  | .val x => x.toNat % 2 ^ w

/-- The tag of a second operand: a scalar has that of the first (R234). -/
def VSrc.tag (b : VSrc) (t : Strand) (ta : Nat) : Nat :=
  match b with
  | .reg r => t.vtagOf r.toNat
  | .val _ => ta

/-- The tag of a second operand that is a vector source (R159). -/
def VSrc.shown (b : VSrc) (t : Strand) : List Nat :=
  match b with
  | .reg r => [t.vtagOf r.toNat]
  | .val _ => []

/-- The tag-agnostic operations among the binary ones (R256). -/
def BinOp.agnostic : BinOp → Bool
  | .and => true
  | .or => true
  | .xor => true
  | _ => false

/-- The binary operations that have no float row (R257). -/
def BinOp.intOnly : BinOp → Bool
  | .mulh => true
  | .rem => true
  | .sll => true
  | .srl => true
  | .sra => true
  | .adds => true
  | .subs => true
  | _ => false

/-- The binary operations that have a rounding result (R253). -/
def BinOp.rounds : BinOp → Bool
  | .add => true
  | .sub => true
  | .rsub => true
  | .mul => true
  | .div => true
  | .avg => true
  | _ => false

/-- Clamp to an integer format's range (R45). -/
def IFmt.clamp (i : IFmt) (x : Int) : Nat := ofI i.n (max i.range.1 (min i.range.2 x))

/-- The integer rows of R257 (R44-R46). -/
def BinOp.int (op : BinOp) (i : IFmt) (a b : Nat) : Nat :=
  let w := i.n
  let x := i.val a
  let y := i.val b
  match op with
  | .add => ofI w (x + y)
  | .sub => ofI w (x - y)
  | .rsub => ofI w (y - x)
  | .mul => ofI w (x * y)
  | .mulh => ofI w (x * y / (2 ^ w : Nat))
  | .div => if y = 0 then 2 ^ w - 1 else ofI w (x.tdiv y)
  | .rem => if y = 0 then a % 2 ^ w else ofI w (x.tmod y)
  | .avg => ofI w ((x + y + 1) / 2)
  | .min => if x < y then a % 2 ^ w else b % 2 ^ w
  | .max => if x < y then b % 2 ^ w else a % 2 ^ w
  | .and => a &&& b
  | .or => a ||| b
  | .xor => a ^^^ b
  | .sll => (a <<< (b % w)) % 2 ^ w
  | .srl => (a % 2 ^ w) >>> (b % w)
  | .sra => ofI w (toS w a / (2 ^ (b % w) : Nat))
  | .adds => i.clamp (x + y)
  | .subs => i.clamp (x - y)

/-- (a + b) / 2 with one rounding (R257, R258). -/
def fAvg (f : Fmt) (rm a b : Nat) : FRes :=
  match unpack f a, unpack f b with
  | .num n1 m1 e1, .num n2 m2 e2 =>
    let base := min e1 e2
    let zneg := if m1 = 0 && m2 = 0 && n1 == n2 then n1 else rm == 2
    roundInt f rm (scaled n1 m1 e1 base + scaled n2 m2 e2 base) (base - 1) zneg false
  | x, y => addV f rm x y false

/-- The float rows of R257, and the tag-agnostic ones. -/
def BinOp.float (op : BinOp) (f : Fmt) (rm a b : Nat) : FRes :=
  match op with
  | .add => fAdd f rm a b
  | .sub => fSub f rm a b
  | .rsub => fSub f rm b a
  | .mul => fMul f rm a b
  | .div => fDiv f rm a b
  | .avg => fAvg f rm a b
  | .min => fMinMax f false a b
  | .max => fMinMax f true a b
  | .and => (a &&& b, 0)
  | .or => (a ||| b, 0)
  | .xor => (a ^^^ b, 0)
  | _ => (0, 0)

/-- One element of a binary operation under the tag of the first source (R257). -/
def BinOp.apply (op : BinOp) (tag rm a b : Nat) : FRes :=
  if isInt tag || op.agnostic then (op.int (ifmtOfTag tag) a b, 0) else op.float (tagFmt tag) rm a b

/-- A binary operation, V or VS form (R257, R259). -/
def runBin (e : VEntry) (op : BinOp) (d a : VReg) (b : VSrc) (k : KReg) : M VOut := do
  let t ← me
  let ta := t.vtagOf a.toNat
  let tb := b.tag t ta
  let w := widthOf ta
  if op.agnostic then
    if widthOf tb != w then mismatch (ta :: b.shown t)
  else if tb != ta || 11 < ta || (op.intOnly && !isInt ta) then mismatch (ta :: b.shown t)
  let rm ← if op.rounds then e.mode 7 else pure 0
  let km := t.kreg k.toNat
  let srcs := a.toNat :: b.names
  prepare (d.toNat :: srcs) srcs [k.toNat] (e.any t km (8192 / w))
  elementwise e km (8192 / w)
    (fun i => do
      let t ← me
      return op.apply ta rm (t.elemAt a.toNat w i) (b.at t w i))
    (intoV d.toNat w) (·.setTags d.toNat 1 ta)

/-- Does a unary operation take a tag (R257, R265)? -/
def UnOp.takes (op : UnOp) (tag : Nat) : Bool :=
  match op with
  | .mv => true
  | .abs => tag < 12
  | .neg => tag < 12
  | .clz => tag < 8
  | .popc => tag < 8
  | _ => 8 ≤ tag && tag < 12

/-- Has a unary operation a rounding result (R253)? -/
def UnOp.rounds : UnOp → Bool
  | .sqrt => true
  | .rcp => true
  | .exp2 => true
  | .log2 => true
  | _ => false

/-- One element of a unary operation (R257, R265); `pick` decides only where the bounds of R55's functions do not. -/
def UnOp.apply (op : UnOp) (tag rm a : Nat) (pick : Bool) : FRes :=
  let w := widthOf tag
  let top := 2 ^ (w - 1)
  match op with
  | .mv => (a, 0)
  | .abs =>
    if isSigned tag then (ofI w (toS w a).natAbs, 0) else if isInt tag then (a, 0) else (a % top, 0)
  | .neg => if isInt tag then (ofI w (-(a : Int)), 0) else (if a < top then a + top else a - top, 0)
  | .sqrt => fSqrt (tagFmt tag) rm a
  | .rcp => fRcp (tagFmt tag) rm a
  | .exp2 => fExp2 (tagFmt tag) rm a pick
  | .log2 => fLog2 (tagFmt tag) rm a pick
  | .clz => (clzN w a, 0)
  | .popc => (popcount w a, 0)

/-- A unary operation (R257, R265). -/
def runUn (e : VEntry) (op : UnOp) (d a : VReg) (k : KReg) : M VOut := do
  let t ← me
  let ta := t.vtagOf a.toNat
  let w := widthOf ta
  if !op.takes ta then mismatch [ta]
  let rm ← if op.rounds then e.mode 7 else pure 0
  let km := t.kreg k.toNat
  prepare [d.toNat, a.toNat] [a.toNat] [k.toNat] (e.any t km (8192 / w))
  elementwise e km (8192 / w)
    (fun i => do
      let pick ← freeBool
      return op.apply ta rm ((← me).elemAt a.toNat w i) pick)
    (intoV d.toNat w) (·.setTags d.toNat 1 ta)

/-- The destination tag of `vwmul` by source tag (R260). -/
def wideTag (tag : Nat) : Option Nat := nth [some 2, some 3, some 4, some 5, some 6, some 7, none, none, some 10, some 10, some 11] tag none

/-- The product of two elements in a wider format (R260). -/
def wideMul (ta td rm a b : Nat) : FRes :=
  if isInt ta then (ofI (widthOf td) (intVal ta (widthOf ta) a * intVal ta (widthOf ta) b), 0)
  else
    match mulV (unpack (tagFmt ta) a) (unpack (tagFmt ta) b) with
    | none => ((tagFmt td).nan, fNV)
    | some v => roundV (tagFmt td) rm v false

/-- `vwmul` (R260). -/
def runWmul (e : VEntry) (d a b : VReg) (k : KReg) : M VOut := do
  let t ← me
  let ta := t.vtagOf a.toNat
  let tb := t.vtagOf b.toNat
  match if ta = tb then wideTag ta else none with
  | none => mismatch [ta, tb]
  | some td =>
    let rm ← e.mode 7
    let w := widthOf ta
    let km := t.kreg k.toNat
    prepare (a.toNat :: b.toNat :: group d 2) [a.toNat, b.toNat] [k.toNat] (e.any t km (8192 / w))
    elementwise e km (8192 / w)
      (fun i => do
        let t ← me
        return wideMul ta td rm (t.elemAt a.toNat w i) (t.elemAt b.toNat w i))
      (intoV d.toNat (2 * w)) (·.setTags d.toNat 2 td)

/-- An exact sum of values rounded once (R261). A zero sum of like-signed zeros keeps their sign; any other zero sum is +0,
or −0 under RDN (R258). -/
def sumV (f : Fmt) (rm : Nat) (l : List FVal) : FRes :=
  let pos := l.any fun v => v == .inf false
  let neg := l.any fun v => v == .inf true
  if l.any FVal.isNan then (f.nan, l.foldl (fun fl v => fl ||| v.nv) 0)
  else if pos && neg then (f.nan, fNV)
  else if pos then (f.inf false, 0)
  else if neg then (f.inf true, 0)
  else
    let ex := fun (v : FVal) => match v with
      | .num _ m e => if m = 0 then (0 : Int) else e
      | _ => 0
    let base := l.foldl (fun b v => min b (ex v)) 0
    let val := fun (v : FVal) => match v with
      | .num n m e => if m = 0 then (0 : Int) else scaled n m e base
      | _ => 0
    let isZero := fun (v : FVal) => match v with
      | .num _ m _ => m == 0
      | _ => false
    let zneg := if l.all isZero && (l.all FVal.neg || !l.any FVal.neg) then l.all FVal.neg else rm == 2
    roundInt f rm (l.foldl (fun s v => s + val v) 0) base zneg false

/-- One element of `vdot4` (R261): 0 × ∞ is invalid. -/
def dot4 (ta td rm c : Nat) (l : List (Nat × Nat)) : FRes :=
  if isInt ta then
    let w := widthOf ta
    (ofI 32 ((c : Int) + l.foldl (fun s (a, b) => s + intVal ta w a * intVal ta w b) 0), 0)
  else
    let f := tagFmt ta
    let ps := l.map fun (a, b) => mulV (unpack f a) (unpack f b)
    let (x, fl) := sumV (tagFmt td) rm (unpack (tagFmt td) c :: ps.map fun p => p.getD (.nan true))
    (x, fl)

/-- The tag of vd that `vdot4` requires (R261). -/
def dotTag (tag : Nat) : Option Nat :=
  match tag with
  | 0 => some 4
  | 1 => some 5
  | 8 => some 10
  | 9 => some 10
  | _ => none

/-- `vdot4` (R261). -/
def runDot4 (e : VEntry) (d a b : VReg) (k : KReg) : M VOut := do
  let t ← me
  let ta := t.vtagOf a.toNat
  let tb := t.vtagOf b.toNat
  match if ta = tb then dotTag ta else none with
  | none => mismatch [ta, tb]
  | some td =>
    if t.vtagOf d.toNat != td then mismatch [ta, tb]
    let rm ← e.mode 7
    let w := widthOf ta
    let cap := 8192 / (4 * w)
    let km := t.kreg k.toNat
    let all := [a.toNat, b.toNat, d.toNat]
    prepare all all [k.toNat] (e.any t km cap)
    elementwise e km cap
      (fun i => do
        let t ← me
        return dot4 ta td rm (t.elemAt d.toNat 32 i)
          ((below 4).map fun j => (t.elemAt a.toNat w (4 * i + j), t.elemAt b.toNat w (4 * i + j))))
      (intoV d.toNat 32) (·.setTags d.toNat 1 td)

/-- One element of a compare (R262). -/
def CmpOp.apply (op : CmpOp) (tag a b : Nat) : Bool × FSet :=
  if isInt tag then
    let x := intVal tag (widthOf tag) a
    let y := intVal tag (widthOf tag) b
    (match op with
      | .eq => x == y
      | .ne => x != y
      | .lt => decide (x < y)
      | .le => decide (x ≤ y), 0)
  else
    let f := tagFmt tag
    match op with
    | .eq => fEq f a b
    | .ne => (!(fEq f a b).1, (fEq f a b).2)
    | .lt => fLess f false a b
    | .le => fLess f true a b

/-- A compare (R262). -/
def runCmp (e : VEntry) (op : CmpOp) (d : KReg) (a b : VReg) (k : KReg) : M VOut := do
  let t ← me
  let ta := t.vtagOf a.toNat
  let tb := t.vtagOf b.toNat
  if ta != tb || 11 < ta then mismatch [ta, tb]
  let w := widthOf ta
  let km := t.kreg k.toNat
  prepare [a.toNat, b.toNat] [a.toNat, b.toNat] [k.toNat] (e.any t km (8192 / w))
  elementwise e km (8192 / w)
    (fun i => do
      let t ← me
      let (x, fl) := op.apply ta (t.elemAt a.toNat w i) (t.elemAt b.toNat w i)
      return (if x then 1 else 0, fl))
    (intoK d.toNat) id

/-- A governing mask that is not encoded: CM alone governs (R240). -/
def allOnes : MBits := BitVec.allOnes 2048

/-- `vsel` (R257): k is the selector. -/
def runSel (e : VEntry) (d a b : VReg) (k : KReg) : M VOut := do
  let t ← me
  let ta := t.vtagOf a.toNat
  let tb := t.vtagOf b.toNat
  let w := widthOf ta
  if widthOf tb != w then mismatch [ta, tb]
  prepare [d.toNat, a.toNat, b.toNat] [a.toNat, b.toNat] [k.toNat] (e.any t allOnes (8192 / w))
  let sel := t.kreg k.toNat
  elementwise e allOnes (8192 / w)
    (fun i => do return ((← me).elemAt (if sel.getLsbD i then b else a).toNat w i, 0))
    (intoV d.toNat w) (·.setTags d.toNat 1 ta)

/-- `mif`, `melse`, `mend` and `mbrk` (R241, R268): on the mask stack; `full` and `low` are its bounds. -/
def runStack (push : Bool) (kc : Option KReg) (f : MBits → MBits → MBits → List MBits) : M VOut := do
  let t ← me
  if push then
    if 15 < t.mstack.length then trapAt 0x0E 0
  else if t.mstack.isEmpty then trapAt 0x0E 1
  match kc with
  | some k => consume [] [k.toNat]
  | none => pure ()
  let parent := (t.mstack.dropLast.getLast?).getD allOnes
  let c := match kc with
    | some k => t.kreg k.toNat
    | none => 0
  modMe fun t => { t with mstack := (if push then t.mstack else t.mstack.dropLast) ++ f t.cm parent c }
  return .retire none

/-- Bits of a mask-logic operation (R267). -/
def MaskOp.apply (op : MaskOp) (a b : Bool) : Bool :=
  match op with
  | .and => a && b
  | .or => a || b
  | .xor => a != b
  | .not => !a

/-- `mand`, `mor`, `mxor` and `mnot` (R267). R163 does not name mask logic: like the arithmetic it may stop at a multiple of 8 (DESIGN
CHOICE, log 87). -/
def runMlog (e : VEntry) (op : MaskOp) (d a b : KReg) : M VOut := do
  let t ← me
  if e.any t allOnes 2048 then consume [] (a.toNat :: if op = .not then [] else [b.toNat])
  elementwise e allOnes 2048
    (fun i => do
      let t ← me
      return (if op.apply ((t.kreg a.toNat).getLsbD i) ((t.kreg b.toNat).getLsbD i) then 1 else 0, 0))
    (intoK d.toNat) id

/-- `vslideup` and `vslidedn` (R270). -/
def runSlide (e : VEntry) (up : Bool) (d a : VReg) (x : Word) (k : KReg) : M VOut := do
  let t ← me
  let ta := t.vtagOf a.toNat
  let w := widthOf ta
  let cap := 8192 / w
  let n := min e.vl cap
  let km := t.kreg k.toNat
  prepare [d.toNat, a.toNat] [a.toNat] [k.toNat] (e.any t km cap)
  elementwise e km cap
    (fun i => do
      let t ← me
      if up then return (t.elemAt (if i < x.toNat then d else a).toNat w (if i < x.toNat then i else i - x.toNat), 0)
      return (if i + x.toNat < n then t.elemAt a.toNat w (i + x.toNat) else 0, 0))
    (fun i v t => if up && i < x.toNat then t else t.putElem d.toNat w i v) (·.setTags d.toNat 1 ta)

/-- `vperm` (R271). -/
def runPerm (e : VEntry) (d a b : VReg) (k : KReg) : M VOut := do
  let t ← me
  let ta := t.vtagOf a.toNat
  let tb := t.vtagOf b.toNat
  let w := widthOf ta
  if !isInt tb || widthOf tb != w then mismatch [ta, tb]
  let cap := 8192 / w
  let n := min e.vl cap
  let km := t.kreg k.toNat
  prepare [d.toNat, a.toNat, b.toNat] [a.toNat, b.toNat] [k.toNat] (e.any t km cap)
  elementwise e km cap
    (fun i => do
      let t ← me
      let j := t.elemAt b.toNat w i
      return (if j < n then t.elemAt a.toNat w j else 0, 0))
    (intoV d.toNat w) (·.setTags d.toNat 1 ta)

/-- Write element 0 of a reduction's result and its tag, flags into lane set 0 (R274, R275). -/
def putRed (d w tag x : Nat) (fl : FSet) : M VOut := do
  modMe fun t => ((t.putElem d w 0 x).laneOr 0 fl).setTags d 1 tag
  return .retire none

/-- `vred.o` and `vred.r` (R274). -/
def runRed (e : VEntry) (ordered : Bool) (d a : VReg) (x : Word) (k : KReg) : M VOut := do
  e.whole
  let t ← me
  let ta := t.vtagOf a.toNat
  let w := widthOf ta
  if 11 < ta then mismatch [ta]
  let rm ← e.mode 7
  let km := t.kreg k.toNat
  prepare [d.toNat, a.toNat] [a.toNat] [k.toNat] (e.any t km (8192 / w))
  let t ← me
  let xs := (t.active km 0 (min e.vl (8192 / w))).map fun i => t.elemAt a.toNat w i
  let s0 := x.toNat % 2 ^ w
  if ordered then
    let (v, fl) := xs.foldl (fun (st : FRes) y => let (z, f) := tagAdd ta rm st.1 y; (z, st.2 ||| f)) (s0, 0)
    putRed d.toNat w ta v fl
  else
    let (v, fl) ← freeSum ta (xs.length + 1) ((s0 :: xs).map fun y => ⟨false, y, 0, [rm]⟩)
    putRed d.toNat w ta v fl

/-- The smaller or larger of two elements by tag (R52, R257). -/
def pickOne (isMax : Bool) (tag a b : Nat) : FRes :=
  (if isMax then BinOp.max else BinOp.min).apply tag 0 a b

/-- `vredmax` and `vredmin` (R275). -/
def runRedm (e : VEntry) (isMax : Bool) (d a : VReg) (x : Word) : M VOut := do
  e.whole
  let t ← me
  let ta := t.vtagOf a.toNat
  let w := widthOf ta
  if 11 < ta then mismatch [ta]
  prepare [d.toNat, a.toNat] [a.toNat] [] (e.any t allOnes (8192 / w))
  let t ← me
  let xs := (t.active allOnes 0 (min e.vl (8192 / w))).map fun i => t.elemAt a.toNat w i
  let (v, fl) := xs.foldl (fun (st : FRes) y => let (z, f) := pickOne isMax ta st.1 y; (z, st.2 ||| f)) (x.toNat % 2 ^ w, 0)
  putRed d.toNat w ta v fl

/-- Carry a value through the active elements of [lo, hi), writing each (R276, R277). -/
def carry (d w lo hi : Nat) (act : MBits) (f : Strand → Nat → Nat → FRes) (c : Nat) : M Unit := do
  let mut x := c
  for i in (← me).active act lo hi do
    let (y, fl) := f (← me) i x
    modMe fun t => (t.putElem d w i y).laneOr i fl
    x := y

/-- `vscan` (R276). -/
def runScan (e : VEntry) (d a : VReg) (x : Word) (k : KReg) : M VOut := do
  e.whole
  let t ← me
  let ta := t.vtagOf a.toNat
  let w := widthOf ta
  if 11 < ta then mismatch [ta]
  let rm ← e.mode 7
  let km := t.kreg k.toNat
  prepare [d.toNat, a.toNat] [a.toNat] [k.toNat] (e.any t km (8192 / w))
  carry d.toNat w 0 (min e.vl (8192 / w)) km (fun t i c => tagAdd ta rm c (t.elemAt a.toNat w i)) (x.toNat % 2 ^ w)
  modMe (·.setTags d.toNat 1 ta)
  return .retire none

/-- One element of `vrec` (R277): `d` carried, `a` of va, `c` the old element. -/
def recStep (isMax : Bool) (tag rm d a c : Nat) : FRes :=
  if isMax then
    let (s, f) := tagAdd tag rm d c
    let (m, g) := pickOne true tag s a
    (m, f ||| g)
  else tagFma tag rm d a c

/-- `vrec.mul` and `vrec.max` (R277): on resumption the carried value is that of the last active element below VSTART. -/
def runRecur (e : VEntry) (isMax : Bool) (d a : VReg) (x : Word) (k : KReg) : M VOut := do
  let t ← me
  let ta := t.vtagOf a.toNat
  let td := t.vtagOf d.toNat
  let w := widthOf ta
  if ta != td || 11 < ta then mismatch [ta, td]
  let rm ← e.mode 7
  let km := t.kreg k.toNat
  let n := min e.vl (8192 / w)
  prepare [d.toNat, a.toNat] [a.toNat, d.toNat] [k.toNat] (e.any t km (8192 / w))
  let t ← me
  let vs := t.vstart.toNat
  let hi ← stopBound vs n
  let c := match (t.active km 0 (min vs n)).getLast? with
    | some j => t.elemAt d.toNat w j
    | none => x.toNat % 2 ^ w
  carry d.toNat w vs hi km (fun t i c => recStep isMax ta rm c (t.elemAt a.toNat w i) (t.elemAt d.toNat w i)) c
  if hi < n then return .stop hi
  modMe (·.setTags d.toNat 1 ta)
  return .retire none

/-- A queued operation writes its scalar destination, which is pending no longer (R238). A word with an error mark that its
instruction took from a port as an operand does not poison it (log 84). -/
def putSd (d : SReg) (x : Word) : M Unit :=
  modMe fun t => { { t with taint := false }.setS d x with spend := setBit t.spend d.toNat false }

/-- `vext` (R272). -/
def runExt (e : VEntry) (d : SReg) (a : VReg) (i : Word) : M VOut := do
  let t ← me
  let ta := t.vtagOf a.toNat
  let w := widthOf ta
  let inside := i.toNat < min e.vl (8192 / w)
  prepare [a.toNat] [a.toNat] [] inside
  let u ← me
  let x := if inside then u.elemAt a.toNat w i.toNat else 0
  putSd d (if isSigned ta then wd (ofI 64 (toS w x)) else wd x)
  return .retire none

/-- `vtag` (R236). -/
def runVtag (d : VReg) (tag : BitVec 4) : M VOut := do
  mergeFor (← me).uid d.toNat
  modMe (·.setTags d.toNat 1 tag.toNat)
  return .retire none

/-- One element of a fused operation (R218, R263). -/
def FmaOp.apply (op : FmaOp) (tag rm a b c : Nat) : FRes :=
  let negP := op = .fnma || op = .fnms
  let negC := op = .fms || op = .fnms
  match fmtOfTag tag with
  | some f => fFma f rm a b c negP negC
  | none =>
    let p : Int := (a * b : Nat)
    (ofI (widthOf tag) ((if negP then -p else p) + (if negC then -(c : Int) else c)), 0)

/-- The three-source operations (R263). -/
def runFma (e : VEntry) (op : FmaOp) (d a b c : VReg) (k : KReg) (rm : BitVec 3) : M VOut := do
  let t ← me
  let ta := t.vtagOf a.toNat
  let tb := t.vtagOf b.toNat
  let w := widthOf ta
  if ta != tb || t.vtagOf c.toNat != ta || 11 < ta then mismatch [ta, tb]
  let rm ← e.mode rm.toNat
  let km := t.kreg k.toNat
  let srcs := [a.toNat, b.toNat, c.toNat]
  prepare (d.toNat :: srcs) srcs [k.toNat] (e.any t km (8192 / w))
  elementwise e km (8192 / w)
    (fun i => do
      let t ← me
      return op.apply ta rm (t.elemAt a.toNat w i) (t.elemAt b.toNat w i) (t.elemAt c.toNat w i))
    (intoV d.toNat w) (·.setTags d.toNat 1 ta)

/-- `vmop.r` adds a contribution to its tile, which is the most recent target; of three, the oldest is merged (R243). None of
its additions performs before the merge, so their flags are raised there (DESIGN CHOICE, log 56). -/
def openTile (base : Nat) (x : TilePart) : M Unit := do
  let t ← me
  let old := t.tiles.filter (·.base != base)
  let mine := ((t.tiles.find? (·.base == base)).map (·.parts)).getD []
  modMe fun t => { t with tiles := old ++ [⟨base, mine ++ [x]⟩] }
  if 2 ≤ old.length then
    match old.head? with
    | some o => mergeTile t.uid o.base
    | none => pure ()

/-- `vmop.o` and `vmop.r` (R278-R280). -/
def runTile (e : VEntry) (ordered : Bool) (d a b : VReg) (k : KReg) (g : Nat) : M VOut := do
  e.whole
  let t ← me
  let ta := t.vtagOf a.toNat
  let tb := t.vtagOf b.toNat
  let w := widthOf ta
  let tile := group d 8
  if 8192 / w ≤ 8 * g + 7 then badEntry e
  if tb != ta || 11 < ta || tile.any (fun r => t.vtagOf r != ta) then mismatch [ta, tb]
  let rm ← e.mode 7
  let km := t.kreg k.toNat
  let ab := [a.toNat, b.toNat]
  ready (ab ++ tile) (ab ++ tile) [k.toNat] (e.any t km (8192 / w))
  for r in ab ++ (if ordered then tile else []) do
    mergeFor t.uid r
  let t ← me
  let rows := (below 8).map fun i => t.elemAt a.toNat w (8 * g + i)
  let cols := t.active km 0 (min e.vl (8192 / w))
  if ordered then
    for j in cols do
      let y := (← me).elemAt b.toNat w j
      for i in below 8 do
        let c := (← me).elemAt (d.toNat + i) w j
        let (v, fl) := tagFma ta rm (nth rows i 0) y c
        modMe fun t => (t.putElem (d.toNat + i) w j v).laneOr j fl
  else
    openTile d.toNat ⟨rows, t.vreg b.toNat, cols.foldl (fun m j => setBit m j true) 0, BitVec.ofNat 3 rm⟩
  return .retire none

/-- `vmzero` (R281). -/
def runTileZero (e : VEntry) (d : VReg) : M VOut := do
  e.whole
  modMe fun t => { t with tiles := t.tiles.filter (·.base != d.toNat) }
  reside (group d 8)
  modMe fun t => (group d 8).foldl (fun (t : Strand) r => { t with
    v := t.v.setIfInBounds r 0, res := t.res.setIfInBounds r .dirty, vpoison := setBit t.vpoison r false }) t
  return .retire none

/-- `vmrd` (R281). -/
def runTileRead (e : VEntry) (d : VReg) : M VOut := do
  e.whole
  reside (group d 8)
  mergeFor (← me).uid d.toNat
  return .retire none

/-- One element of a conversion (R264). -/
def convert (src dst rm : Nat) (sat : Bool) (a : Nat) : FRes :=
  match fmtOfTag src, fmtOfTag dst with
  | some f, some g => fToF f g rm a sat
  | some f, none =>
    let (x, fl) := fToI f (ifmtOfTag dst) rm a
    (ofI (widthOf dst) x, fl)
  | none, some g => fOfI g rm (intVal src (widthOf src) a) sat
  | none, none =>
    let x := intVal src (widthOf src) a
    (if sat then (ifmtOfTag dst).clamp x else ofI (widthOf dst) x, 0)

/-- Make one of the 17 registers of a conversion resident: no slot of those in `keep` is taken, nor, as long as the strand holds another
one, of those in `later` (R247; where it holds none the spec's step 4 has no victim: DESIGN CHOICE, log 79). -/
def residePart (r : Nat) (keep later : List Nat) : M Unit := do
  let named := if ((← me).victim (keep ++ later)).isSome then keep ++ later else keep
  if !(← makeResident r named) then trapAt 0x0A (wd r)
  if !(← me).live then stallKeep

/-- The element loop of a conversion between 4 and 64 bits (R247): the registers of its wide group, the destination with `up`,
become resident one at a time, each before the first element that falls in it. A source that its swap-in poisons is consumed, and
nothing of the entry is committed (R142, R143). -/
def cvtWide (e : VEntry) (d a : VReg) (up : Bool) (ts td rm : Nat) (sat : Bool) : M VOut := do
  let s0 ← get
  let t := s0.me
  let (narrow, base) := if up then (a.toNat, d.toNat) else (d.toNat, a.toNat)
  let vs := t.vstart.toNat
  let n := min e.vl 2048
  let hi ← stopBound vs n
  for j in (below 16).filter fun j => vs < 128 * (j + 1) && 128 * j < hi do
    let r := base + j
    let mine := (t.active allOnes vs hi).filter fun i => i / 128 = j
    residePart r [narrow, r] ((below (16 - j)).map (r + ·))
    if !up && !mine.isEmpty && (← me).vpoison.getLsbD r then
      set { s0 with me := { t with vpoison := setBit t.vpoison r true } }
      throw (.trap ⟨0x0F, wd (1 + r <<< 2), .sup⟩ true)
    for i in mine do
      let (x, fl) := convert ts td rm sat ((← me).elemAt a.toNat (widthOf ts) i)
      modMe fun t => (t.putElem d.toNat (widthOf td) i x).laneOr i fl
  if hi < n then return .stop hi
  modMe (·.setTags d.toNat (if up then 16 else 1) td)
  return .retire none

/-- `vcvt` (R242, R264). The 17 registers of a conversion between 4 and 64 bits are made resident one at a time (R247). -/
def runCvt (e : VEntry) (d a : VReg) (tag : BitVec 4) (rm : BitVec 3) (sat : Bool) : M VOut := do
  let t ← me
  let ts := t.vtagOf a.toNat
  let td := tag.toNat
  let (gs, gd) := cvtGroup ts td
  let src := group a gs
  let dst := group d gd
  let same := gs = 1 && gd = 1 && a = d
  if a.toNat % gs != 0 || d.toNat % gd != 0 || (!same && src.any dst.contains) then badEntry e
  if ts = 15 || td = 15 then mismatch [ts]
  let rm ← e.mode rm.toNat
  let ws := widthOf ts
  let wt := widthOf td
  let cap := min (8192 * gs / ws) (8192 * gd / wt)
  let wide := 16 ≤ gs || 16 ≤ gd
  if e.any t allOnes cap then consume src []
  if wide then
    let narrow := if gs = 1 then a.toNat else d.toNat
    residePart narrow [narrow] ((if gs = 1 then dst else src).drop (t.vstart.toNat / 128))
  ready (if wide then [] else src ++ dst) (if gs < 16 then src else []) [] (e.any t allOnes cap)
  for r in src ++ dst do
    mergeFor t.uid r
  if wide then cvtWide e d a (gd != 1) ts td rm sat
  else
    elementwise e allOnes cap (fun i => do return convert ts td rm sat ((← me).elemAt a.toNat ws i))
      (intoV d.toNat wt) (·.setTags d.toNat gd td)

/-- `vins` (R272): the tag of vd stays. -/
def runIns (e : VEntry) (d : VReg) (x i : Word) : M VOut := do
  let t ← me
  let w := widthOf (t.vtagOf d.toNat)
  prepare [d.toNat] [] [] false
  let act := t.active allOnes t.vstart.toNat (min e.vl (8192 / w))
  if act.contains i.toNat then
    modMe fun t => t.putElem d.toNat w i.toNat (x.toNat % 2 ^ w)
  return .retire none

/-- `vbcast` and `viota` (R266): every active element takes a value, under the captured TAG. -/
def runFill (e : VEntry) (d : VReg) (f : Nat → Nat) : M VOut := do
  let w := widthOf e.tag.toNat
  prepare [d.toNat] [] [] false
  elementwise e allOnes (8192 / w) (fun i => return (f i % 2 ^ w, 0)) (intoV d.toNat w) (·.setTags d.toNat 1 e.tag.toNat)

/-- `viota` (R266). -/
def runIota (e : VEntry) (d : VReg) : M VOut := do
  if !isInt e.tag.toNat then mismatch []
  runFill e d id

/-- `vcompress` (R273): the place in vd is recomputed on every start. -/
def runCompress (e : VEntry) (d a : VReg) (k : KReg) : M VOut := do
  let t ← me
  let ta := t.vtagOf a.toNat
  let w := widthOf ta
  let sel := t.kreg k.toNat
  prepare [d.toNat, a.toNat] [a.toNat] [k.toNat] (e.any t allOnes (8192 / w))
  elementwise e allOnes (8192 / w)
    (fun i => do return ((← me).elemAt a.toNat w i, 0))
    (fun i v t => if sel.getLsbD i then t.putElem d.toNat w (t.active sel 0 i).length v else t)
    (·.setTags d.toNat 1 ta)

/-- `mpopc` and `mfirst` (R269): the active elements that kN selects. -/
def runMask (e : VEntry) (d : SReg) (k : KReg) (f : List Nat → Word) : M VOut := do
  let t ← me
  if e.any t allOnes 2048 then consume [] [k.toNat]
  putSd d (f (t.active (t.kreg k.toNat) t.vstart.toNat (min e.vl 2048)))
  return .retire none

end Sys2Proof.Machine
end

