-- ==== Sys2Proof/Machine/VectorMemory.lean ====
section
/-! DEFINITION. The vector memory entries (R122, R284-R302): addresses, chunks, loads, stores, atomics, and conversion to
SBP blocks (R61, R62). -/

namespace Sys2Proof.Machine

/-- One element of a memory entry: its index, the addresses that it touches, and the bytes at each. -/
structure Elt where
  e : Nat
  at' : List Word
  size : Nat
  deriving DecidableEq, Repr

/-- An element with the places of its addresses. -/
abbrev Placed := Elt × List Place

/-- The fault of an element, and whether a `vldff` takes it as a failure that trims (R296). -/
structure EltFault where
  e : Nat
  trap : Trap
  trims : Bool
  deriving DecidableEq, Repr

/-- How the chunks of an entry end. -/
inductive ChunkEnd where
  | done
  | stop (vs : Nat)
  | fault (f : EltFault)
  deriving DecidableEq, Repr

/-- The longest run of elements that touches at most 64 distinct pages of 64 KiB, and what is left (R122); scratch uses no
pin slot (R290). -/
def takeChunk : (pages : List Nat) → List Elt → List Elt × List Elt
  | _, [] => ([], [])
  | pages, x :: t =>
    let new := (x.at'.filter fun a => !inAperture a).map fun a => a.toNat / 65536
    let all := (new.filter fun p => !pages.contains p).eraseDups ++ pages
    if all.length ≤ 64 || pages.isEmpty then
      let (c, r) := takeChunk all t
      (x :: c, r)
    else ([], x :: t)

/-- The checks of one address of an element, in the order of R289: alignment, then the address and its translation, then
those of the operation. -/
def checkAddr (acc : Acc) (extra : Place → Word → M Bool) (x : Elt) (a : Word) : M (Except EltFault Place) := do
  if a.toNat % x.size ≠ 0 then return .error ⟨x.e, ⟨8, a, .sup⟩, false⟩
  match ← placeE a acc with
  | .error p => return .error ⟨x.e, ⟨acc.cause, a, p.route⟩, !p.nack⟩
  | .ok pl => return if ← extra pl a then .ok pl else .error ⟨x.e, ⟨7, a, .sup⟩, false⟩

/-- The checks of an element. -/
def checkElt (acc : Acc) (extra : Place → Word → M Bool) (x : Elt) : List Word → M (Except EltFault (List Place))
  | [] => return .ok []
  | a :: t => do
    match ← checkAddr acc extra x a with
    | .error f => return .error f
    | .ok pl =>
      match ← checkElt acc extra x t with
      | .error f => return .error f
      | .ok ps => return .ok (pl :: ps)

/-- Check the elements of a chunk in ascending order up to the first failure. -/
def checkChunk (acc : Acc) (extra : Place → Word → M Bool) : List Elt → M (List Placed × Option EltFault)
  | [] => return ([], none)
  | x :: t => do
    match ← checkElt acc extra x x.at' with
    | .error f => return ([], some f)
    | .ok ps =>
      let (r, f) ← checkChunk acc extra t
      return ((x, ps) :: r, f)

/-- The chunks of an entry (R289): each is checked, the elements below its first failure perform, and between two chunks
the queue may stop (R163). -/
def chunks (acc : Acc) (extra : Place → Word → M Bool) (perform : List Placed → M Unit) :
    (fuel : Nat) → List Elt → M ChunkEnd
  | 0, _ => return .done
  | fuel + 1, l => do
    if l.isEmpty then return .done
    let (c, rest) := takeChunk [] l
    let (ok, bad) ← checkChunk acc extra c
    perform ok
    match bad, rest with
    | some f, _ => return .fault f
    | none, [] => return .done
    | none, x :: _ =>
      if !(← me).eager then
        if ← freeBool then return .stop x.e
      chunks acc extra perform fuel rest

/-- No check beyond those of an access. -/
def noExtra (_ : Place) (_ : Word) : M Bool := pure true

/-- The address of element `e` (R288). -/
def VAddr.ea (m : VAddr) (t : Strand) (base : Word) (w e : Nat) : Word :=
  match m with
  | .unit => base + wd (e * w / 8)
  | .stride x => base + wd e * x
  | .index r ish =>
    let ti := t.vtagOf r.toNat
    base + (BitVec.ofInt 64 (intVal ti (widthOf ti) (t.elemAt r.toNat (widthOf ti) e)) <<< ish)

/-- The capacity that an address form allows (R287). -/
def VAddr.cap (m : VAddr) (t : Strand) (cap : Nat) : Nat :=
  match m with
  | .index r _ => min cap (vlmax (t.vtagOf r.toNat))
  | _ => cap

/-- The tag check of a load or store (R287): 4-bit data goes with unit stride alone, an index is an integer. `data` is the
tag of the stored register, none for a load. -/
def VAddr.checkTags (m : VAddr) (t : Strand) (w : Nat) (data : Option Nat) : M Unit := do
  match m with
  | .unit => pure ()
  | .stride _ => if w = 4 then mismatch data.toList
  | .index r _ =>
    let ti := t.vtagOf r.toNat
    if w = 4 || !isInt ti then
      match data with
      | some d => mismatch [d, ti]
      | none => mismatch [ti]

/-- An index register that is the destination as well has the width of the data; this check comes before the tags (R242,
R289, R298). -/
def VAddr.checkGroup (m : VAddr) (e : VEntry) (t : Strand) (d : VReg) (w : Nat) : M Unit := do
  match m with
  | .index r _ => if r = d && widthOf (t.vtagOf r.toNat) != w then badEntry e
  | _ => pure ()

/-- The elements that an entry accesses (R289). -/
def VEntry.elts (e : VEntry) (t : Strand) (m : VAddr) (base : Word) (w : Nat) (k : KReg) : List Elt :=
  (t.active (t.kreg k.toNat) t.vstart.toNat (min e.vl (m.cap t (8192 / w)))).map fun i =>
    ⟨i, [m.ea t base w i], max 1 (w / 8)⟩

/-- Is a chunk's data bad in part (R142)? -/
def anyBad (l : List Placed) : M Bool := do
  let s ← get
  return l.any fun (x, ps) => ps.any fun pl => s.badAt pl.addr x.size

/-- Poison a vector register (R142, R293). -/
def poisonV (d : Nat) (b : Bool) : M Unit := do
  if b then modMe fun t => { t with vpoison := setBit t.vpoison d true }

/-- Load the elements of a chunk (R49, R294, R295). -/
def loadChunk (d w : Nat) (l : List Placed) : M Unit := do
  for (x, ps) in l do
    for pl in ps do
      let v ← loadPath true pl x.size
      modMe fun t => t.putElem d w x.e (if w = 4 then v >>> (4 * (x.e % 2)) else v)

/-- `vld`, `vlds`, `vldx` and `vldff` (R289, R294, R296, R298); one that performed before entries ahead of it has its data (R130). -/
def runLd (e : VEntry) (d : VReg) (base : Word) (m : VAddr) (firstOnly : Bool) (k : KReg) : M VOut := do
  let t ← me
  let w := widthOf e.tag.toNat
  m.checkGroup e t d w
  m.checkTags t w none
  let l := e.elts t m base w k
  prepare (d.toNat :: m.names) m.names [k.toNat] (!l.isEmpty)
  let t ← me
  let l := e.elts t m base w k
  if let some (x, bad, strip) := e.pre then
    if strip = t.strip then
      for i in l do
        modMe (·.putElem d.toNat w i.e (elem w i.e x.toNat))
      poisonV d.toNat bad
      modMe (·.setTags d.toNat 1 e.tag.toNat)
      return .retire none
  let perform := fun (c : List Placed) => do
    let keep := (← me).vpoison.getLsbD d.toNat && (t.vstart != 0 || l.head?.map (·.e) != (c.head?.map (·.1.e)))
    let bad ← anyBad c
    loadChunk d.toNat w c
    poisonV d.toNat (bad || keep)
  match ← chunks .r noExtra perform l.length l with
  | .stop vs => return .stop vs
  | .done =>
    modMe (·.setTags d.toNat 1 e.tag.toNat)
    return .retire none
  | .fault f =>
    if firstOnly && f.trims && l.head?.map (·.e) != some f.e then
      modMe (·.setTags d.toNat 1 e.tag.toNat)
      return .retire (some f.e)
    return .trap f.e f.trap

/-- Store the elements of a chunk in ascending order (R291, R294); one of a `vstxo` comes after those of its entry that wrote the
same bytes before it (R299). -/
def storeChunk (v w : Nat) (ordered : Bool) (l : List Placed) : M Unit := do
  for (x, ps) in l do
    for pl in ps do
      storeAs true ordered pl x.size ((← me).elemAt v w x.e)

/-- Store the nibbles of a chunk, byte by byte (R49, R295). -/
def storeNibbles (v : Nat) (l : List Placed) : M Unit := do
  for b in (l.flatMap fun (x, _) => x.at').eraseDups do
    let mine := l.filter fun (x, _) => x.at' = [b]
    match mine.head?.bind fun (_, ps) => ps.head? with
    | none => pure ()
    | some pl =>
      let old ← loadPath true pl 1
      let t ← me
      storePath true pl 1 (mine.foldl (fun y (x, _) => setElem 4 (x.e % 2) (t.elemAt v 4 x.e) y) old)

/-- `vst`, `vsts`, `vstx` and `vstxo` (R289, R294, R298, R299). -/
def runSt (e : VEntry) (v : VReg) (base : Word) (m : VAddr) (ordered : Bool) (k : KReg) : M VOut := do
  let t ← me
  let tv := t.vtagOf v.toNat
  let w := widthOf tv
  m.checkTags t w (some tv)
  let named := v.toNat :: m.names
  prepare named named [k.toNat] (!(e.elts t m base w k).isEmpty)
  let t ← me
  let l := e.elts t m base w k
  let perform := fun (c : List Placed) => if w = 4 then storeNibbles v.toNat c else storeChunk v.toNat w ordered c
  match ← chunks .w noExtra perform l.length l with
  | .stop vs => return .stop vs
  | .done => return .retire none
  | .fault f => return .trap f.e f.trap

/-- Does a `vamo` take a tag of vc (R300)? -/
def AmoOp.takes (op : AmoOp) (tag : Nat) : Bool :=
  match op with
  | .swap => tag < 14
  | .and => tag < 14
  | .or => tag < 14
  | .xor => tag < 14
  | .fadd => 8 ≤ tag && tag < 12
  | .cas => false
  | _ => isInt tag

/-- The width code of `fadd` for a tag (R83, R300). -/
def faddCode (tag : Nat) : Nat := nth [1, 0, 2, 3] (tag - 8) 3

/-- Make an element active for an `fadd` that will perform, its value unchanged: false where its accumulator cannot be had
(R66, R67, R72, R300). -/
def reserveAcc (a fmt : Nat) : M Bool := do
  let n := if fmt = 0 then 4 else 2
  modify fun s => s.touch a n
  let s ← get
  match s.accums.find? (·.meets a n) with
  | some c => return c.addr = a && c.fmt = fmt
  | none =>
    if !(← spillFor (a / 2 ^ 34) a) then return false
    let c0 : Accum := Accum.set ⟨a, fmt, 0, false, false, false, none⟩ (unpack (accFmt fmt) (s.natAt a n))
    modify fun s => { s with accums := c0 :: s.accums }
    return true

/-- The tests of an element of `vamo.fadd` at its check (R208, R300). -/
def faddCheck (tag : Nat) (pl : Place) (_ : Word) : M Bool := do
  if pl.kind = .host || pl.kind = .win then return false
  if !pl.det then return true
  match detFmt (faddCode tag) with
  | none => return false
  | some f => reserveAcc pl.addr f

/-- A list in a free order. -/
def freeOrder {α : Type} : (fuel : Nat) → List α → M (List α)
  | 0, l => return l
  | fuel + 1, l => do
    let i ← freeBelow l.length
    match l[i]? with
    | none => return []
    | some x => return x :: (← freeOrder fuel (l.eraseIdx i))

/-- Perform one element of a `vamo`: the old value (R300). -/
def amoElem (op : AmoOp) (tag e v : Nat) (pl : Place) (ea : Word) (scope : Nat) : M Nat := do
  let n := widthOf tag / 8
  if op = .fadd then
    let (old, fl) ← faddAt true pl ea (faddCode tag) v (pl.scope scope)
    modMe fun t => t.laneOr e fl
    return old
  else atomicAt true pl n (pl.scope scope) fun old => op.apply n old v 0

/-- The scope at which an `ar` of a chunk orders (R135, R208, R301): the widest of its elements. -/
def chunkScope (scope : Nat) (l : List Placed) : Nat :=
  (l.flatMap fun (_, ps) => ps.map fun pl => pl.scope scope).foldl max 0

/-- `vamo` (R300, R301). With ar = 1 the strand's earlier vector accesses have performed before the first element does, and the
elements before what follows them on the vector path; for the others of the scope too. -/
def runAmo (e : VEntry) (op : AmoOp) (d : VReg) (base : Word) (b : VReg) (ish : Nat) (c : VReg) (k : KReg)
    (scope : Nat) (ar ret : Bool) : M VOut := do
  let t ← me
  let tc := t.vtagOf c.toNat
  let tb := t.vtagOf b.toNat
  let w := widthOf tc
  let m := VAddr.index b ish
  if ret then m.checkGroup e t d w
  if !op.takes tc || !isInt tb then mismatch [tb, tc]
  let srcs := [b.toNat, c.toNat]
  prepare (if ret then d.toNat :: srcs else srcs) srcs [k.toNat] (!(e.elts t m base w k).isEmpty)
  let t ← me
  let l := e.elts t m base w k
  let vals := t
  let order := fun (cs : List Placed) => do
    if ar then modify fun s => s.order (· = 1) (· = 1) (chunkScope scope cs)
  let perform := fun (cs : List Placed) => do
    order cs
    let keep := (← me).vpoison.getLsbD d.toNat && (t.vstart != 0 || l.head?.map (·.e) != (cs.head?.map (·.1.e)))
    let bad ← anyBad cs
    for (x, ps) in ← freeOrder cs.length cs do
      for pl in ps do
        let old ← amoElem op tc x.e (vals.elemAt c.toNat w x.e) pl (x.at'.headD 0) scope
        if ret then modMe fun t => t.putElem d.toNat w x.e old
    if ret then poisonV d.toNat (bad || keep)
    order cs
  match ← chunks .rw (if op = .fadd then faddCheck tc else noExtra) perform l.length l with
  | .stop vs => return .stop vs
  | .fault f => return .trap f.e f.trap
  | .done =>
    if ret then modMe (·.setTags d.toNat 1 tc)
    return .retire none

/-- The value of an element of any tag but raw (R48, R302). -/
def tagVal (tag x : Nat) : FVal :=
  match fmtOfTag tag with
  | some f => unpack f x
  | none =>
    let i := intVal tag (widthOf tag) x
    .num (decide (i < 0)) i.natAbs 0

/-- A finite value over 2^(t − 127) rounded RNE to an integer, and whether it is exact (R62). -/
def sbpRound (t : Nat) (v : FVal) : Int × Bool :=
  match v with
  | .num n m e => toInteger 0 n m (e - ((t : Int) - 127))
  | _ => (0, true)

/-- Do all finite elements fit at a scale (R62)? -/
def sbpFits (p t : Nat) (l : List FVal) : Bool :=
  l.all fun v => let q := (sbpRound t v).1; -(2 ^ (p - 1) : Nat) ≤ q && q ≤ (2 ^ (p - 1) : Nat) - 1

/-- Conversion of eight values to an SBP block of precision `p`: scale byte, mantissas, flags (R62). -/
def sbpBlock (p : Nat) (l : List FVal) : Nat × List Int × FSet :=
  let lo : Int := -(2 ^ (p - 1) : Nat)
  let hi : Int := (2 ^ (p - 1) : Nat) - 1
  if l.any FVal.isNan then (0xFF, l.map fun _ => 0, l.foldl (fun f v => f ||| v.nv) 0)
  else
    let inf := fun (v : FVal) => v == .inf false || v == .inf true
    let s := if l.any inf then 254 else ((below 255).find? fun t => sbpFits p t l).getD 254
    let one := fun (v : FVal) =>
      if v == .inf false then (hi, fOF)
      else if v == .inf true then (lo, fOF)
      else
        let (q, exact) := sbpRound s v
        let isZero := match v with
          | .num _ m _ => m == 0
          | _ => false
        (max lo (min hi q), (if exact then 0 else fNX) ||| (if !isZero && q = 0 then fUF else 0) |||
          (if q < lo || hi < q then fOF else 0))
    (s, (l.map one).map Prod.fst, (l.map one).foldl (fun f x => f ||| x.2) 0)

/-- Plane byte `j` of eight mantissas (R61). -/
def planeByte (j : Nat) (ms : List Int) : Nat :=
  (ms.zipIdx.map fun (m, i) => if bit (ofI 64 m) j then 2 ^ i else 0).foldl (· + ·) 0

/-- `vplane` (R302): the blocks with an active element. -/
def runPlane (e : VEntry) (v : VReg) (base : Word) (k : KReg) (p : Nat) : M VOut := do
  let t ← me
  let tv := t.vtagOf v.toNat
  let w := widthOf tv
  if tv = 15 then mismatch [tv]
  if t.vstart.toNat % 8 ≠ 0 then badEntry e
  let km := t.kreg k.toNat
  let n := min e.vl (8192 / w)
  prepare [v.toNat] [v.toNat] [k.toNat] (e.any t km (8192 / w))
  let t ← me
  let act := t.active km t.vstart.toNat n
  let nblk := (n + 7) / 8
  let l := ((below nblk).filter fun b => act.any fun i => i / 8 = b).map fun b =>
    (⟨8 * b, (base + wd b) :: (below p).map fun j => base + wd (nblk * (1 + j) + b), 1⟩ : Elt)
  let perform := fun (c : List Placed) => do
    for (x, ps) in c do
      let vals := (below 8).map fun i =>
        if act.contains (x.e + i) then tagVal tv (t.elemAt v.toNat w (x.e + i)) else .num false 0 0
      let (s, ms, fl) := sbpBlock p vals
      modMe fun t => t.laneOr x.e fl
      for (pl, j) in ps.zipIdx do
        storePath true pl 1 (if j = 0 then s else planeByte (j - 1) ms)
  match ← chunks .w noExtra perform l.length l with
  | .stop vs => return .stop vs
  | .done => return .retire none
  | .fault f => return .trap f.e f.trap

end Sys2Proof.Machine
end

