-- ==== Sys2Proof/Machine/VectorQueue.lean ====
section
/-! DEFINITION. Stream accesses and `postv` (R303-R307), the run of a queued entry (R238, R239, R153), and the entry of a
vector instruction into the queue (R98, R153, R154, R165, R235, R237, R238, R297, R314). -/

namespace Sys2Proof.Machine

/-- A stream port of a strand. -/
def Strand.sport (t : Strand) (p : Nat) : SPort := nth t.sports p SPort.empty

/-- Change a stream port. -/
def Strand.modSport (t : Strand) (p : Nat) (f : SPort → SPort) : Strand := { t with sports := t.sports.modify p f }

/-- A port without a vector or a binding gives up its storage (R303). -/
def SPort.settle (x : SPort) : SPort := if x.bind = .unbound && x.fifo.isEmpty then { x with held := false } else x

/-- The bytes that hold the first `n` elements of width `w` (R304). -/
def bytesFor (n w : Nat) : Nat := (n * w + 7) / 8

/-- The oldest vector of a port into vd (R304). -/
def takeVec (e : VEntry) (d : VReg) (port : Nat) (k : KReg) (x : SVec) : M VOut := do
  let w := widthOf e.tag.toNat
  let t ← me
  let act := t.active (t.kreg k.toNat) 0 (min e.vl (8192 / w))
  prepare [d.toNat] [] [k.toNat] (!act.isEmpty)
  for i in act do
    let v := if bytesFor (i + 1) w ≤ x.count then elem w i x.data.toNat else 0
    modMe fun t => t.putElem d.toNat w i v
  poisonV d.toNat x.bad
  modMe fun t => (t.setTags d.toNat 1 e.tag.toNat).modSport port fun p => SPort.settle { p with fifo := p.fifo.drop 1 }
  return .retire none

/-- The vector that a port takes from vs (R304). -/
def putVec (e : VEntry) (v : VReg) (port : Nat) (k : KReg) : M VOut := do
  let t ← me
  let tag := t.vtagOf v.toNat
  let w := widthOf tag
  let n := min e.vl (8192 / w)
  let act := t.active (t.kreg k.toNat) 0 n
  prepare [v.toNat] [v.toNat] [k.toNat] (!act.isEmpty)
  let c := bytesFor n w
  let x : SVec := {
    data := BitVec.ofNat 8192 (((← me).vreg v.toNat).toNat % 2 ^ (8 * c))
    count := c
    tag := BitVec.ofNat 4 tag
    act := act.foldl (fun m i => setBit m i true) 0
    bad := false
    pushed := true }
  modMe fun t => t.modSport port fun p => { p with fifo := p.fifo ++ [x] }
  return .retire none

/-- A bounded access that moved no vector (R305). -/
def noVec (sd : Option SReg) : M VOut := do
  match sd with
  | some d => putSd d 1
  | none => pure ()
  return .retire none

/-- `vpop` and `vpop.nw` (R304, R305); `sd` with a limit of 0 does not wait. -/
def runPop (e : VEntry) (d : VReg) (port : Nat) (k : KReg) (sd : Option (SReg × Nat)) : M VOut := do
  e.whole
  let p := (← me).sport port
  if p.bind = .departure then badEntry e
  match p.fifo, sd with
  | x :: _, _ =>
    let r ← takeVec e d port k x
    match sd with
    | some (s, _) => putSd s 0
    | none => pure ()
    return r
  | [], some (s, 0) => noVec (some s)
  | [], _ => stall

/-- `vpush` and `vpush.nw` (R304, R305). -/
def runPush (e : VEntry) (v : VReg) (port : Nat) (k : KReg) (sd : Option (SReg × Nat)) : M VOut := do
  e.whole
  let p := (← me).sport port
  if p.bind = .arrival then badEntry e
  if p.bind = .departure && p.fifo.length < 4 then
    let r ← putVec e v port k
    match sd with
    | some (s, _) => putSd s 0
    | none => pure ()
    return r
  match sd with
  | some (s, 0) => noVec (some s)
  | _ => stall

/-- `postv` (R306, R307): the record is read from the registers, then the call is posted. -/
def runPostv (e : VEntry) (d : SReg) (ea : Word) (va : VReg) (n : Nat) (k : KReg) : M VOut := do
  e.whole
  let s ← get
  match s.myPart? with
  | none => badEntry e
  | some p =>
    let regs := group va n
    let act := s.me.active (s.me.kreg k.toNat) 0 (min e.vl 2048)
    prepare regs regs [k.toNat] (!act.isEmpty)
    let t ← me
    let rs := regs.map fun r => (⟨BitVec.ofNat 4 (t.vtagOf r), t.vreg r⟩ : RecReg)
    let x ← postCall p ⟨ea, true, 0, rs, e.vl, act.foldl (fun m i => setBit m i true) 0, false⟩
    putSd d x
    return .retire none

/-- What an entry does when it executes. -/
def runEntry (e : VEntry) : M VOut :=
  match e.op with
  | .bin op d a b k => runBin e op d a b k
  | .un op d a k => runUn e op d a k
  | .wmul d a b k => runWmul e d a b k
  | .dot4 d a b k => runDot4 e d a b k
  | .cmp op d a b k => runCmp e op d a b k
  | .sel d a b k => runSel e d a b k
  | .mif c => runStack true (some c) fun cm _ kc => [cm &&& kc]
  | .melse => runStack false none fun cm parent _ => [parent &&& ~~~cm]
  | .mend => runStack false none fun _ _ _ => []
  | .mbrk c => runStack false (some c) fun cm _ kc => [cm &&& ~~~kc]
  | .mlog op d a b => runMlog e op d a b
  | .slide up d a n k => runSlide e up d a n k
  | .perm d a b k => runPerm e d a b k
  | .red o d a s k => runRed e o d a s k
  | .redm m d a s => runRedm e m d a s
  | .scan d a s k => runScan e d a s k
  | .recur m d a s k => runRecur e m d a s k
  | .ext d a i => runExt e d a i
  | .setl _ => return .retire none
  | .vtag d t => runVtag d t
  | .fma op d a b c k rm => runFma e op d a b c k rm
  | .tile o d a b k g => runTile e o d a b k g
  | .tileZero d => runTileZero e d
  | .tileRead d => runTileRead e d
  | .cvt d a t rm sat => runCvt e d a t rm sat
  | .ins d x i => runIns e d x i
  | .bcast d x => runFill e d fun _ => x.toNat
  | .iota d => runIota e d
  | .compress d a k => runCompress e d a k
  | .mpopc d k => runMask e d k fun l => wd l.length
  | .mfirst d k => runMask e d k fun l => (l.head?.map wd).getD (BitVec.allOnes 64)
  | .ld d b m f k => runLd e d b m f k
  | .st v b m o k => runSt e v b m o k
  | .amo op d base b ish c k scope ar ret => runAmo e op d base b ish c k scope ar ret
  | .plane v b k p => runPlane e v b k p
  | .pop d p k => runPop e d p k none
  | .push v p k => runPush e v p k none
  | .popNw d p k s l => runPop e d p k (some (s, l))
  | .pushNw v p k s l => runPush e v p k (some (s, l))
  | .postv d ea va n k => runPostv e d ea va n k

/-- An entry whose checks fail commits nothing: a queued trap at element VSTART (R153, R254, R289); what was swapped in for it may
stay. -/
def attempt (m : M VOut) : M VOut := fun s =>
  match m.run s with
  | .ok v s' => .ok v s'
  | .error (.trap t true) s' => .ok (.trap s.me.vstart.toNat t) s'
  | .error (.trap t false) _ => .ok (.trap s.me.vstart.toNat t) s
  | .error (.stall k) s' => .error (.stall k) s'

/-- Does an entry name a register that an engine call will return (R31)? -/
def Strand.pends (t : Strand) (e : VEntry) : Bool :=
  (e.names t).any t.vpend.getLsbD || e.op.masks.any t.kpend.getLsbD

/-- Does an operation write every element of its register, where it is full and nothing masks it? -/
def VOp.fills : VOp → Bool
  | .bin _ _ _ _ _ => true
  | .un _ _ _ _ => true
  | .sel _ _ _ _ => true
  | .fma _ _ _ _ _ _ _ => true
  | .bcast _ _ => true
  | .iota _ => true
  | .ld _ _ _ _ _ => true
  | _ => false

/-- Does an operation bring a value from memory (R292)? -/
def VOp.loads : VOp → Bool
  | .ld _ _ _ _ _ => true
  | .amo _ _ _ _ _ _ _ _ _ _ => true
  | _ => false

/-- What the registers of a strand hold of the loads of its strip, after an entry (R292; DEDUCED, log 85): its destinations hold what
its sources did, or what it has loaded; one that is not written whole keeps what it held. -/
def Strand.depsAfter (t : Strand) (e : VEntry) : List Dep :=
  let (r, w) := e.op.uses fun x => t.vtagOf x.toNat
  let from' := if e.op.loads then [e.id]
    else (t.deps.filter fun q => (if q.mask then e.op.maskSrc else r).contains q.reg).map (·.load)
  let whole := e.op.fills && t.mstack.isEmpty && e.op.maskSrc.isEmpty && 8192 ≤ e.vl * widthOf e.tag.toNat
  let kept := t.deps.filter fun q => !(whole && !q.mask && w.contains q.reg)
  let dep := fun (mask : Bool) (x : Nat) => from'.map fun i => (⟨mask, x, i⟩ : Dep)
  (w.flatMap (dep false) ++ e.op.maskDest.flatMap (dep true)).foldl withMember kept

/-- An entry leaves the queue: VCOMMIT counts it and VSTART is 0 (R239); a `vldff` leaves a new VL (R296). -/
def Strand.retire (t : Strand) (vl : Option Nat) : Strand :=
  { t with
    vq := t.vq.drop 1
    vcommit := t.vcommit + 1
    vstart := 0
    vl := (vl.map (BitVec.ofNat 12)).getD t.vl
    deps := match t.vq.head? with
      | some e => t.depsAfter e
      | none => t.deps }

/-- Run an entry in the address space and at the level that it was issued in (R145). -/
def inSpace (e : VEntry) (m : M VOut) : M VOut := do
  let t ← me
  modMe fun t => { t with asid := e.asid, ptbase := e.ptbase, pl := e.level }
  let r ← m
  modMe fun u => { u with asid := t.asid, ptbase := t.ptbase, pl := t.pl }
  return r

/-- May the vector queue of a strand move (R153, R154, R164)? -/
def Strand.vready (t : Strand) : Bool := t.live && !t.vheld && t.vtrap.isNone && !t.vq.isEmpty

/-- Does an operation change the mask stack (R268)? -/
def VOp.isStack : VOp → Bool
  | .mif _ => true
  | .melse => true
  | .mend => true
  | .mbrk _ => true
  | _ => false

/-- Is an operation an access that the others of its strip do not wait for (R130)? A `vamo` with ar = 1 orders (R301). -/
def VOp.isFree : VOp → Bool
  | .ld _ _ _ _ _ => true
  | .st _ _ _ _ _ => true
  | .amo _ _ _ _ _ _ _ _ ar _ => !ar
  | .plane _ _ _ _ => true
  | _ => false

/-- Is an operation a `vamo` that orders the vector path (R301)? -/
def VOp.orders : VOp → Bool
  | .amo _ _ _ _ _ _ _ _ ar _ => ar
  | _ => false

/-- The registers and masks that the engine of a `postv` will return (R31, R306). -/
def VOp.returned : VOp → List Nat × List Nat
  | .postv _ ea _ _ _ => match callReturns ea with
    | some (l, k) => (l, k.toList)
    | none => ([], [])
  | _ => ([], [])

/-- The registers that a queued entry may read and write whatever the entries ahead of it leave as tags. -/
def VEntry.reach (e : VEntry) (t : Strand) : List Nat × List Nat :=
  match e.op with
  | .cvt d a _ _ _ => (group a 16, group d 16)
  | o => o.uses fun x => t.vtagOf x.toNat

/-- Can an entry perform before another of its strip that is ahead of it (R130)? Neither gives the other a register, a mask or an
activity. -/
def VEntry.clearOf (e b : VEntry) (t : Strand) : Bool :=
  let (r, w) := b.reach t
  b.strip = e.strip && !b.op.isStack && !b.op.orders &&
  !(w ++ b.op.returned.1).any (e.names t).contains && !(e.reach t).2.any (r ++ w).contains &&
  !(b.op.maskDest ++ b.op.returned.2).any e.op.masks.contains

/-- May the access at place `j` of the queue perform before the entries ahead of it (R130)? Its registers are resident, so that it
takes no slot (R247). -/
def Strand.mayPass (t : Strand) (j : Nat) : Bool :=
  match t.vq[j]? with
  | none => false
  | some e => 0 < j && e.op.isFree && !t.pends e && (e.names t).all (fun r => (t.vres r).inSlot) &&
      (t.vq.take j).all fun b => e.clearOf b t

/-- Entries retire, one after the other; one that does not, waits. -/
def runAll : List VEntry → M Unit
  | [] => pure ()
  | e :: l => do
    if (← me).pends e then stall
    match ← inSpace e (attempt (runEntry e)) with
    | .retire vl => modMe (·.retire vl)
    | _ => stall
    runAll l

/-- The access at place `j` performs first, then the entries ahead of it (R130); false, and nothing has happened, if one of them
does not retire, since then no later entry commits an element (R153). -/
def runEarly (j : Nat) : M Bool := fun s =>
  let l := s.me.vq
  let first : Strand := { s.me with vq := (l.drop j).take 1, vcommit := s.me.vcommit + wd j, vstart := 0 }
  match (runAll first.vq).run { s with me := first } with
  | .error _ _ => .ok false s
  | .ok _ s' =>
    let back : Strand := { s'.me with vq := l.eraseIdx j, vcommit := s.me.vcommit, vstart := s.me.vstart }
    match (runAll (l.take j)).run { s' with me := back } with
    | .error _ _ => .ok false s
    | .ok _ s' => .ok true { s' with me := { s'.me with vcommit := s'.me.vcommit + 1 } }

/-- The load at place `j` takes its values now, and its register has them when it comes to the head of the queue (R130): nothing else of
it happens, and nothing at all where it does not retire. -/
def runAhead (j : Nat) : M Unit := fun s =>
  match s.me.vq[j]? with
  | some ({ op := .ld d _ _ false _, .. }) =>
    match (runAll ((s.me.vq.drop j).take 1)).run { s with me := { s.me with vq := (s.me.vq.drop j).take 1, vstart := 0 } } with
    | .error _ _ => .ok () s
    | .ok _ s' =>
      let pre := some (s'.me.vreg d.toNat, s'.me.vpoison.getLsbD d.toNat, s.me.strip)
      .ok () { s' with me := { s.me with vq := s.me.vq.modify j fun e => { e with pre := pre } } }
  | _ => .ok () s

/-- An entry of a new strip begins: the strip before it ends (R130). -/
def openStrip (e : VEntry) : M Unit := do
  if e.strip != (← me).running then
    modify State.closeStrip
    modMe fun t => { t with running := e.strip, deps := [] }

/-- The head of the executing strand's queue executes (R238), or a later access of its strip before it, or a later load of its strip
takes its values (R130): the strand first takes over the vector state of its slot (R165). A fault is taken at once, or, of a switched-out strand, when it is resumed (R166, R167);
the save record of such a strand follows (R170). -/
def runHead : M Unit := do
  let t ← me
  if !t.vready then return
  takeVector
  if !(← get).vown (← me) then return
  let t ← me
  match t.vq.head? with
  | none => pure ()
  | some e =>
    if t.pends e then stall
    openStrip e
    let js := if t.eager then [] else (below t.vq.length).filter t.mayPass
    let k ← freeBelow (2 * js.length + 1)
    let early ← if k = 0 then pure false
      else if k ≤ js.length then runEarly (nth js (k - 1) 0)
      else do
        runAhead (nth js (k - 1 - js.length) 0)
        pure true
    if !early then
      match ← inSpace e (attempt (runEntry e)) with
      | .retire vl => modMe (·.retire vl)
      | .stop vs => modMe fun t => { t with vstart := BitVec.ofNat 12 vs }
      | .trap vs tr =>
        modMe fun t => { t with vstart := BitVec.ofNat 12 vs }
        if t.place.isSome then modify fun s => s.takeTrap tr false true
        else modMe fun t => { t with vtrap := some ⟨tr.cause, tr.val, match tr.route with
          | .s2 i => some i
          | _ => none⟩ }
    if t.place.isNone then modify fun s => s.resave t.uid

/-- The head executes if it can; one that waits, waits on. -/
def tryHead : M Unit := fun s =>
  match runHead.run s with
  | .ok u s' => .ok u s'
  | .error (.stall true) s' => .ok () (s.keepMe s')
  | .error _ _ => .ok () s

/-- Entries execute as long as the head retires. -/
def drain : (fuel : Nat) → M Unit
  | 0 => pure ()
  | fuel + 1 => do
    let n := (← me).vq.length
    tryHead
    if (← me).vq.length < n then drain fuel

/-- The vector unit that executes entries as they are issued does so now (log 10). -/
def keepUp : M Unit := do
  let t ← me
  if t.eager then drain t.vq.length

/-- The vector queue of a strand moves. -/
def runQueue (uid : Nat) (s : State) : StepOut :=
  let s := s.switchTo uid
  if s.me.uid = uid then runInstr runHead s else .next s

/-- The checks of a vector instruction before it is issued: VHELD (R154), a port as scalar destination (R314), an engine
call on a service strand (R467), the feature group (R98). -/
def vcheck (i : Instr) (g : Nat) (sd : Option SReg) : M Unit := do
  let t ← me
  if t.vheld then illegal i
  match sd with
  | some d => if t.isPort d then illegal i
  | none => pure ()
  if g = 2 then
    let _ ← needPart i
  needGroup g i

/-- Does the queue hold a `vldff`, which may set VLEN when it retires (R297)? -/
def Strand.ldffQueued (t : Strand) : Bool :=
  t.vq.any fun e => match e.op with
    | .ld _ _ _ true _ => true
    | _ => false

/-- What a vector instruction waits for: room in the queue, a `vldff` that may set VLEN (R237, R297), and its pending
scalar destination (R238). -/
def vwaits (sd : Option SReg) : M Unit := do
  let t ← me
  waitFor (t.vq.length < 64 && !t.ldffQueued)
  match sd with
  | some d => waitFor !(t.spend.getLsbD d.toNat)
  | none => pure ()

/-- The operand words that a saved entry holds (R169, R237). The spec does not say which of two comes first, nor what stands for a
missing one: base before stride, value before index, and 0 (DESIGN CHOICE, log 80). -/
def VOp.scalars : VOp → Word × Word
  | .bin _ _ _ (.val x) _ => (x, 0)
  | .slide _ _ _ x _ => (x, 0)
  | .red _ _ _ x _ => (x, 0)
  | .redm _ _ _ x => (x, 0)
  | .scan _ _ x _ => (x, 0)
  | .recur _ _ _ x _ => (x, 0)
  | .ext _ _ x => (x, 0)
  | .setl x => (x, 0)
  | .ins _ x i => (x, i)
  | .bcast _ x => (x, 0)
  | .ld _ b (.stride x) _ _ => (b, x)
  | .ld _ b _ _ _ => (b, 0)
  | .st _ b (.stride x) _ _ => (b, x)
  | .st _ b _ _ _ => (b, 0)
  | .amo _ _ b _ _ _ _ _ _ _ => (b, 0)
  | .plane _ b _ _ => (b, 0)
  | .postv _ ea _ _ _ => (ea, 0)
  | _ => (0, 0)

/-- The entry of an instruction, with what it captures (R237, R253). -/
def Strand.entry (t : Strand) (i : Instr) (op : VOp) : VEntry where
  op := op
  w1 := (encode i).headD 0
  w2 := ((encode i).drop 1).headD 0
  pc := t.pc
  x1 := op.scalars.1
  x2 := op.scalars.2
  vl := t.vl.toNat
  tag := t.vtag
  frm := t.frm
  asid := t.asid
  ptbase := t.ptbase
  level := t.pl
  strip := t.strip
  id := t.vseq
  pre := none

/-- A strand with an entry appended: its scalar destination is pending and the registers that it names take a new stamp
(R238, R247). -/
def Strand.enqueue (t : Strand) (e : VEntry) : Strand :=
  { t with
    vq := t.vq ++ [e]
    vseq := t.vseq + 1
    spend := match e.op.sd with
      | some d => if d = 0 then t.spend else setBit t.spend d.toNat true
      | none => t.spend
    stamp := (e.names t).foldl (fun v r => v.setIfInBounds r (t.vcommit + wd t.vq.length)) t.stamp }

/-- A vector instruction of `n` bytes enters the queue (R237): `op` reads its scalar operands. -/
def vissue (i : Instr) (g n : Nat) (sd : Option SReg) (op : M VOp) (s : State) : StepOut :=
  runInstr (do
    vcheck i g sd
    vwaits sd
    takeVector
    let o ← op
    modMe fun t => t.enqueue (t.entry i o)
    advance n
    keepUp) s

/-- The captured value of a scalar operand for a one-operand entry. -/
def with1 (r : SReg) (f : Word → VOp) : M VOp := do return f (← readS r)

end Sys2Proof.Machine
end

