-- ==== Sys2Proof/Machine/TransferEngine.lean ====
section
/-! DEFINITION. Phlox, the transfer engine (R343-R356), and what its remote puts send (R461, R462). -/

namespace Sys2Proof.Machine

/-- A transfer record (R343). -/
structure TJob where
  type : Nat
  scope : Nat
  fb : Bool
  esz : Nat
  aop : Nat
  scl : Nat
  ssp : Bool
  dcl : Nat
  dsp : Bool
  src : Nat
  dst : Nat
  n0 : Nat
  n1 : Nat
  n2 : Nat
  ss1 : Int
  ss2 : Int
  ds1 : Int
  ds2 : Int
  x : Nat
  deriving DecidableEq, Repr

/-- The fields of a record (R343). -/
def tjob (r : Nat) : TJob where
  type := bits r 0 4
  scope := bits r 4 2
  fb := bit r 6
  esz := bits r 8 2
  aop := bits r 10 3
  scl := bits r 16 12
  ssp := bit r 28
  dcl := bits r 32 12
  dsp := bit r 44
  src := bits r 64 64
  dst := bits r 128 64
  n0 := bits r 192 20
  n1 := bits r 212 20
  n2 := bits r 232 20
  ss1 := toS 32 (bits r 256 32)
  ss2 := toS 32 (bits r 288 32)
  ds1 := toS 32 (bits r 320 32)
  ds2 := toS 32 (bits r 352 32)
  x := bits r 384 64

/-- The reserved fields of a record (R343). -/
def tjobReserved : List (Nat × Nat) := [(7, 1), (13, 3), (29, 3), (45, 19), (252, 4), (448, 64)]

/-- Bytes of an element. -/
def TJob.b (j : TJob) : Nat := 2 ^ j.esz

/-- Does a record keep the field rules of R344 for its queue? -/
def TJob.fieldsOk (j : TJob) (queue : Nat) : Bool :=
  j.scope != 0 &&
  (match j.type with
    | 1 => queue = 0 && j.x = 0 && (!j.fb || j.dsp) && j.aop = 0
    | 2 => queue = 0 && (!j.fb || j.dsp) && j.aop = 0
    | 3 => queue = 0 && bits j.x 0 8 != 0 && bits j.x 20 44 = 0 && j.dsp && j.aop = 0
    | 4 => queue = 1 && bits j.x 12 52 = 0 && !j.dsp && !j.fb && j.aop = 0
    | 5 => queue = 1 && bits j.x 12 52 = 0 && !j.dsp && !j.fb &&
        (match j.aop with
          | 0 => j.esz = 2
          | 1 => j.esz = 1
          | 2 => j.esz = 1
          | 3 => j.esz = 3
          | 4 => true
          | _ => false)
    | 6 => queue = 2 && !bit j.x 3 && bits j.x 8 56 = 0 && !j.dsp && j.dst = 0 && !j.fb && j.aop = 0
    | 7 => queue = 2 && bits j.x 3 61 = 0 && (!j.fb || j.dsp) && j.aop = 0 && j.esz = 0 && !j.ssp
    | _ => false)

/-- Does a record keep the shape rules of R344 and R349? -/
def TJob.shapeOk (j : TJob) : Bool :=
  1 ≤ j.n1 && j.n0 * j.n1 * j.n2 * j.b ≤ 2 ^ 32 &&
  (match j.type with
    | 2 => 1 ≤ j.n0 && j.n2 = 1
    | 6 => 1 ≤ j.n0 && j.n2 = 1 && j.n0 * j.b ≤ 1024
    | 7 => j.n0 = 0 && j.n2 = 1 && j.src = 0
    | _ => 1 ≤ j.n0 && 1 ≤ j.n2)

/-- Are the addresses and strides aligned (R349)? -/
def TJob.alignedOk (j : TJob) : Bool :=
  let b := j.b
  j.src % b = 0 && j.dst % b = 0 && j.ss1 % b = 0 && j.ss2 % b = 0 && j.ds1 % b = 0 && j.ds2 % b = 0 &&
  (j.type != 2 || j.x % 4 = 0)

/-- Where an operand lies: virtual memory, the scratch of the launch in a cluster (R345), or scratch that answers NACK: that of a cluster
whose bulkhead is under reset (R356). -/
inductive Space where
  | virt
  | scr (x : Split)
  | nack
  deriving DecidableEq, Repr

/-- The scratch of the caller's launch in a logical cluster, 0xFFF its own; none out of range or without scratch (R349).
-/
def State.scratchOf (s : State) (p : Part) (c : Call) (n : Nat) : Option Space :=
  let lc := if n = 0xFFF then c.pos / 8 else n
  let e := s.engOf p c.ctx 1 lc
  if 8 * p.nb ≤ lc then none
  else (s.callSplit c e).bind fun x =>
    if x.scr = 0 then none else if (s.bh (engBh 1 e)).state != .owned then some .nack else some (.scr x)

/-- The destination clusters of a multicast (R345). -/
def TJob.clusters (j : TJob) (p : Part) (own : Nat) : List Nat :=
  if j.type = 3 then
    (those 8 (bit j.x)).map fun i => ((if j.dcl = 0xFFF then own else j.dcl) + i * bits j.x 8 12) % (8 * p.nb)
  else [j.dcl]

/-- Source and destination spaces of a call that has started: scratch that is gone with its bulkhead answers NACK (R349, R356). -/
def State.spacesNow (s : State) (p : Part) (c : Call) (j : TJob) : Space × List Space :=
  let at' := fun (n : Nat) => (s.scratchOf p c n).getD .nack
  (if j.ssp then at' j.scl else .virt, if j.dsp then (j.clusters p (c.pos / 8)).map at' else [.virt])

/-- Source and destination spaces of a call; none where a named cluster has no scratch of the launch (R349 check 5). -/
def State.spaces (s : State) (p : Part) (c : Call) (j : TJob) : Option (Space × List Space) :=
  let src := if j.ssp then s.scratchOf p c j.scl else some .virt
  let dsts := if j.dsp then (j.clusters p (c.pos / 8)).mapM fun n => s.scratchOf p c n else some [.virt]
  let named := !j.dsp || j.dcl = 0xFFF || j.dcl < 8 * p.nb
  match src, dsts, named with
  | some a, some l, true => some (a, l)
  | _, _, _ => none

/-- The least and the greatest byte offset of a block's rows (R349 check 6). -/
def TJob.reach (j : TJob) (base : Nat) (t1 t2 : Int) : Int × Int :=
  let a := ((j.n1 : Int) - 1) * t1
  let b := ((j.n2 : Int) - 1) * t2
  ((base : Int) + min 0 a + min 0 b, (base : Int) + max 0 a + max 0 b + (j.n0 * j.b : Nat))

/-- Does a range of offsets stay in a launch's scratch? -/
def Space.holds (x : Space) (r : Int × Int) : Bool :=
  match x with
  | .scr x => 0 ≤ r.1 && r.2 ≤ (x.scr * 65536 : Nat)
  | _ => true

/-- Do the regions that the shape determines stay below S (R349 check 6)? -/
def TJob.regionsOk (j : TJob) (src : Space) (dsts : List Space) : Bool :=
  (if j.type = 2 then src.holds (j.x, (j.x : Int) + (4 * j.n1 : Nat))
    else j.type = 7 || src.holds (j.reach j.src j.ss1 j.ss2)) &&
  (j.type = 6 || j.type = 7 || dsts.all fun d => d.holds (j.reach j.dst j.ds1 j.ds2))

/-- A peer entry: DEV, RPID, and whether it lets a put out, in, and a put-add in, with its tables for inbound puts (R461). -/
structure Peer where
  dev : BitVec 16
  rpid : Nat
  out : Bool
  inb : Bool
  add : Bool
  ptbase : Word
  asid : BitVec 16
  deriving DecidableEq, Repr

/-- Entry `i` of a partition's peer table, none if invalid or unreadable (R461). -/
def State.peer (s : State) (p : Part) (i : Nat) : Option Peer :=
  let t := p.peertab.toNat
  if !bit t 0 then none
  else match s.ipaBytes p (bits t 11 37 <<< 11 + 32 * i) 32 with
    | none => none
    | some l =>
      let a := dwordAt l 0
      let b := dwordAt l 1
      let c := dwordAt l 2
      if !bit a 0 || !fieldsZero a [(4, 4), (29, 3), (50, 14)] || !fieldsZero b [(0, 13), (48, 16)] ||
          !fieldsZero c [(16, 48)] || dwordAt l 3 ≠ 0 || bits a 32 18 = 0 then none
      else some ⟨BitVec.ofNat 16 (bits a 8 16), bits a 24 5, bit a 1, bit a 2, bit a 3, wd b, BitVec.ofNat 16 c⟩

/-- The peer that a put names: none for the partition itself; an error for an invalid one (R344, R349 check 7). -/
def State.peerOf (s : State) (p : Part) (j : TJob) : Except Nat (Option Peer) :=
  let n := bits j.x 0 12
  if (j.type != 4 && j.type != 5) || n = 0xFFF then .ok none
  else if 64 ≤ n then .error 0x15
  else match s.peer p n with
    | some e => if e.out then .ok (some e) else .error 0x15
    | none => .error 0x15

/-- What a call works on: its spaces, and the device and partition of a peer. -/
structure TPlan where
  src : Space
  dsts : List Space
  peer : Option (Nat × Nat)
  deriving DecidableEq, Repr

/-- The checks of a call when it starts, in order (R349). -/
def State.teCheck (s : State) (p : Part) (c : Call) (j : TJob) : Except Nat TPlan :=
  if !fieldsZero c.record.toNat tjobReserved then .error 0x03
  else if !j.fieldsOk c.queue then .error 0x10
  else if !j.shapeOk then .error 0x11
  else if !j.alignedOk then .error 0x06
  else match s.spaces p c j with
    | none => .error 0x12
    | some (src, dsts) =>
      if !j.regionsOk src dsts then .error 0x13
      else match s.peerOf p j with
        | .error e => .error e
        | .ok peer =>
          if c.queue = 2 && c.index != c.pos / 8 then .error 0x18
          else if s.engqPast c then .error 0x08
          else .ok ⟨src, dsts, peer.map fun e => (e.dev.toNat, e.rpid)⟩

/-- The places of a range of an operand. -/
def Space.places (x : Space) (c : Call) (a n : Nat) (acc : Acc) : E (List (Place × Nat)) := do
  match x with
  | .virt => placesOf c a n acc
  | .nack => faultAt 0x17 a
  | .scr x =>
    require (a + n ≤ x.scr * 65536) 0x13
    return (x.spots a n).map fun (m, k) => (⟨m, .scratch, false⟩, k)

/-- Where a range of an operand lies in memory, as far as it translates. -/
def Space.spots (x : Space) (s : State) (c : Call) (a n : Nat) (acc : Acc) : List (Nat × Nat) :=
  match x with
  | .virt => s.spots c a n acc
  | .nack => []
  | .scr x => x.spots a n

/-- Bytes of an operand, and the ranges of memory that they come from: a poisoned byte is code 0x07. -/
def Space.read (x : Space) (c : Call) (a n : Nat) : E (List Byte × List (Nat × Nat)) := do
  let l ← x.places c a n .r
  let s ← get
  match ((rangeOf a n).zip l).find? fun (_, pl, k) => s.badAt pl.addr k with
  | some ((va, _), _) => faultAt 7 (match x with
    | .virt => va
    | _ => 0)
  | none => pure ()
  let mut data : List Byte := []
  for (pl, k) in l do
    data := data ++ (← viewBytes c pl.addr k)
  return (data, l.map fun (pl, k) => (pl.addr, k))

/-- A 64-bit address from an integer. -/
def addr64 (x : Int) : Nat := ofI 64 x

/-- The elements of a call, numbered in the loop's order (R346). -/
def TJob.total (j : TJob) : Nat := j.n0 * j.n1 * j.n2
/-- The row of an element. -/
def TJob.rowOf (j : TJob) (e : Nat) : Nat := e / j.n0 % j.n1
/-- The plane of an element. -/
def TJob.planeOf (j : TJob) (e : Nat) : Nat := e / j.n0 / j.n1
/-- Where an element goes (R346). -/
def TJob.dstOf (j : TJob) (e : Nat) : Nat :=
  addr64 (j.dst + j.planeOf e * j.ds2 + j.rowOf e * j.ds1 + (e % j.n0 * j.b : Nat))
/-- Where an element comes from, `q` being its source row (R346). -/
def TJob.srcOf (j : TJob) (e q : Nat) : Nat :=
  addr64 (j.src + j.planeOf e * j.ss2 + q * j.ss1 + (e % j.n0 * j.b : Nat))
/-- Where the index word of a row is (R346). -/
def TJob.idxOf (j : TJob) (r : Nat) : Nat := addr64 (j.x + (4 * r : Nat))
/-- What a destination access does. -/
def TJob.dstAcc (j : TJob) : Acc := if j.type = 5 then .rw else .w

/-- Does an address lie in one of the ranges? -/
def inRanges (l : List (Nat × Nat)) (a : Nat) : Bool := l.any fun (b, n) => b ≤ a && a < b + n

/-- The address of byte `i` of a list of ranges. -/
def rangeAt : List (Nat × Nat) → Nat → Nat
  | [], _ => 0
  | (a, n) :: t, i => if i < n then a + i else rangeAt t (i - n)

/-- Bytes at addresses that a set of ranges holds are unspecified (R346). -/
def blur (dirty : List (Nat × Nat)) (at' : List (Nat × Nat)) (data : List Byte) : E (List Byte) := do
  if dirty.isEmpty then return data
  let mut out : List Byte := []
  for (x, i) in data.zipIdx do
    if inRanges dirty (rangeAt at' i) then out := out ++ [BitVec.ofNat 8 (← ofM (freeBelow 256))]
    else out := out ++ [x]
  return out

/-- The memory that a call writes and that it reads as source or index (R346): none for a remote destination. -/
def TJob.dstSpots (j : TJob) (c : Call) (x : TPlan) (s : State) : List (Nat × Nat) :=
  if x.peer.isSome then []
  else (below (j.n1 * j.n2)).flatMap fun r => x.dsts.flatMap fun d => d.spots s c (j.dstOf (r * j.n0)) (j.n0 * j.b) j.dstAcc

/-- The memory that a call reads as source or index (R346). -/
def TJob.srcSpots (j : TJob) (c : Call) (x : TPlan) (s : State) : List (Nat × Nat) :=
  let index := fun (r : Nat) => x.src.spots s c (j.idxOf r) 4 .r
  let q := fun (e : Nat) => if j.type = 2 then
      ((c.rows.find? (·.1 == j.rowOf e)).map (·.2)).getD (leNat ((index (j.rowOf e)).flatMap fun (a, n) => s.bytesAt a n))
    else j.rowOf e
  (if j.type = 2 then (below j.n1).flatMap index else []) ++
  (below (j.n1 * j.n2)).flatMap fun r => x.src.spots s c (j.srcOf (r * j.n0) (q (r * j.n0))) (j.n0 * j.b) .r

/-- Where two sets of ranges meet. -/
def overlap (l k : List (Nat × Nat)) : List (Nat × Nat) :=
  l.flatMap fun (a, n) => k.filterMap fun (b, m) =>
    if meets a n b m then some (max a b, min (a + n) (b + m) - max a b) else none

/-- What a call both reads and writes (R346). -/
def TJob.clash (j : TJob) (c : Call) (x : TPlan) (s : State) : List (Nat × Nat) := overlap (j.dstSpots c x s) (j.srcSpots c x s)

/-- The bytes that an element of a call writes: of memory, or of a peer's address space beside it. -/
def State.elemSpots (s : State) (p : Part) (c : Call) (e : Nat) : List (Nat × Nat) :=
  let j := tjob c.record.toNat
  match c.peer with
  | some (dev, rpid) => [(2 ^ 64 * (1 + 32 * dev + rpid) + j.dstOf e, j.b)]
  | none => (s.spacesNow p c j).2.flatMap fun d => d.spots s c (j.dstOf e) j.b j.dstAcc

/-- The bytes that a feed out of a port may still write (R347): of every vector that it has not taken, as many as a vector has. -/
def State.feedSpots (s : State) (p : Part) (c : Call) : List (Nat × Nat) :=
  let j := tjob c.record.toNat
  if j.type != 7 || !c.started then []
  else ((below j.n1).drop c.moved).flatMap fun k =>
    (s.spacesNow p c j).2.flatMap fun d => d.spots s c (addr64 (j.dst + (k : Nat) * j.ds1)) 1024 .w

/-- What the earlier calls of a call's queue and context have still to write (R353). -/
def State.unwritten (s : State) (p : Part) (c : Call) : List (Nat × Nat) :=
  ((s.queued 1 c.eng c.queue).filter fun d => d.id < c.id && d.pid = c.pid && d.ctx = c.ctx).flatMap fun d =>
    (d.todo ++ d.held.map Prod.fst).flatMap (s.elemSpots p d) ++ s.feedSpots p d

/-- Do two sets of ranges have a byte in common? -/
def common (l ahead : List (Nat × Nat)) : Bool := l.any fun (a, n) => ahead.any fun (b, m) => meets a n b m

/-- Must an element wait for an earlier call's write to a common byte (R353)? -/
def State.mustWait (s : State) (p : Part) (c : Call) (ahead : List (Nat × Nat)) (e : Nat) : Bool :=
  !ahead.isEmpty && common (s.elemSpots p c e) ahead

/-- The source row of a row of a gather: its index word, which is read once (R346). -/
def TJob.sourceRow (j : TJob) (c : Call) (x : TPlan) (clash : List (Nat × Nat)) (r : Nat) : E Nat := do
  match ((← get).call? c.id).bind fun d => d.rows.find? (·.1 == r) with
  | some (_, q) => return q
  | none =>
    let (l, from') ← x.src.read c (j.idxOf r) 4
    let q := leNat (← blur clash from' l)
    modify fun s => s.modCall c.id fun d => { d with rows := (r, q) :: d.rows }
    return q

/-- Read an element of a call (R346): one access. -/
def TJob.readElem (j : TJob) (c : Call) (x : TPlan) (clash : List (Nat × Nat)) (e : Nat) : E (List Byte) := do
  let q ← if j.type = 2 then j.sourceRow c x clash (j.rowOf e) else pure (j.rowOf e)
  let (l, from') ← x.src.read c (j.srcOf e q) j.b
  blur clash from' l

/-- One element of a put-add (R348): refused with code 0x1A. -/
def addElement (w aop b va : Nat) (pl : Place) (x : Nat) : E Unit := do
  modify fun s => s.touch pl.addr b
  let s ← get
  if pl.kind = .host then faultAt 0x1A va
  let old := s.natAt pl.addr b
  if aop = 4 then set (s.putBy w pl.addr (leBytes b ((old + x) % 2 ^ (8 * b))))
  else if pl.det then
    if aop = 3 then faultAt 0x1A va
    match ← ofM (detAdd pl.addr aop x w) with
    | some _ => pure ()
    | none => faultAt 0x1A va
  else set (s.putBy w pl.addr (leBytes b (fAdd (nth [f32, bf16, f16] aop f64) 0 old x).1))

/-- An element of a put to another device leaves, and the peer's side takes it or ends the call (R349, R462): 0x16, 0x17, or 0x1A
for a refused addition. -/
def TJob.remote (j : TJob) (c : Call) (dev rpid va : Nat) (data : List Byte) : E Unit := do
  modify fun s => { s with outs := s.outs ++
    [.put s.slid c.pid (BitVec.ofNat 16 dev) rpid (j.type = 5) (BitVec.ofNat 3 j.aop) (BitVec.ofNat 2 j.esz) (wd va) data] }
  match ← ofM (freeBelow (if j.type = 5 then 4 else 3)) with
  | 0 => pure ()
  | 1 => faultAt 0x16 va
  | 2 => faultAt 0x17 va
  | _ => faultAt 0x1A va

/-- Write, or add, an element of a call at its destinations (R346, R348). -/
def TJob.writeElem (j : TJob) (c : Call) (x : TPlan) (clash : List (Nat × Nat)) (e : Nat) (data : List Byte) : E Unit := do
  let va := j.dstOf e
  match x.peer with
  | some (dev, rpid) => j.remote c dev rpid va data
  | none =>
    for d in x.dsts do
      for (pl, _) in ← d.places c va j.b j.dstAcc do
        if j.type = 5 then
          addElement c.id j.aop j.b va pl (leNat data)
          for (a, n) in overlap [(pl.addr, j.b)] clash do
            let l ← freeBytes n
            modify fun s => s.putBy c.id a l
        else
          let l ← blur clash [(pl.addr, j.b)] data
          modify fun s => s.putBy c.id pl.addr l

/-- The granules of scratch that a range of a call's destinations lies in, by number (R114). -/
def granules (dsts : List Space) (a n : Nat) : List Nat :=
  (dsts.flatMap fun d => match d with
    | .scr y => (y.spots a n).flatMap fun (m, k) => (below ((m + k + 63) / 64 - m / 64)).map (m / 64 + ·)
    | _ => []).eraseDups

/-- An element of a call is read. -/
def takeElem (c : Call) (j : TJob) (x : TPlan) (clash : List (Nat × Nat)) (e : Nat) : E Unit := do
  let l ← j.readElem c x clash e
  modify fun s => s.modCall c.id fun d => { d with todo := d.todo.filter (· != e), held := d.held ++ [(e, l)] }

/-- An element that was read is written; the granules that it lies in are to be set full (R352). -/
def giveElem (c : Call) (j : TJob) (x : TPlan) (clash : List (Nat × Nat)) (e : Nat) (l : List Byte) : E Unit := do
  j.writeElem c x clash e l
  modify fun s => s.modCall c.id fun d => { d with
    held := d.held.filter (·.1 != e)
    grans := if j.fb then d.grans ++ (granules x.dsts (j.dstOf e) j.b).filter (!d.grans.contains ·) else d.grans }

/-- The full bits of a list of granules are set. -/
def State.fillGrans (s : State) (c : Call) (l : List Nat) : State :=
  (l.foldl State.setFull s).modCall c.id fun d => { d with grans := d.grans.filter (!l.contains ·) }

/-- The granules of a call whose every byte that it writes has performed (R352). -/
def State.ripe (s : State) (c : Call) (j : TJob) (x : TPlan) : List Nat :=
  match s.call? c.id with
  | none => []
  | some d =>
    if d.grans.isEmpty then []
    else
      let left := (d.todo ++ d.held.map Prod.fst).flatMap fun e => granules x.dsts (j.dstOf e) j.b
      d.grans.filter (!left.contains ·)

/-- The bytes of a vector that belong to an active element (R347). -/
def SVec.writes (v : SVec) : List Nat :=
  let w := widthOf v.tag.toNat
  (below v.count).filter fun t =>
    if w = 4 then v.act.getLsbD (2 * t) || v.act.getLsbD (2 * t + 1) else v.act.getLsbD (8 * t / w)

/-- Must the vector that a feed out of a port takes next wait for an earlier feed's write to a common byte (R353)? -/
def State.feedWaits (s : State) (p : Part) (c : Call) (v : SVec) : Bool :=
  let j := tjob c.record.toNat
  let ahead := s.unwritten p c
  !ahead.isEmpty && common (v.writes.flatMap fun t =>
    (s.spacesNow p c j).2.flatMap fun d => d.spots s c (addr64 (j.dst + c.moved * j.ds1 + (t : Nat))) 1 .w) ahead

/-- Has a call in progress something that the engine can serve: elements to read, or a vector that can move (R347, R353, R355)? -/
def State.teServes (s : State) (c : Call) : Bool :=
  c.started &&
  if c.queue = 2 then
    match (s.strand? c.uid).filter (·.live), s.part? c.pid with
    | some t, some p =>
      let f := (t.sport (bits c.record.toNat 384 3)).fifo
      if bits c.record.toNat 0 4 = 6 then f.length < 4 else match f.find? (·.pushed) with
        | some v => !s.feedWaits p c v
        | none => false
    | _, _ => true
  else !c.todo.isEmpty

/-- The calls in progress that an engine serves in turn: those of the highest effective priority among those it can serve (R355). -/
def State.teRing (s : State) (eng : Nat) : List Call :=
  let l := s.calls.filter fun d => d.kind = 1 && d.eng = eng && s.teServes d
  l.filter fun c => l.all fun d => s.callPrio d ≤ s.callPrio c

/-- The element that names the line of a call in service. -/
def State.teLine (s : State) (c : Call) : Option Nat :=
  match s.served.find? (·.1 == c.eng) with
  | some (_, i, e) => if i = c.id then e else none
  | none => none

/-- Is it a call's turn (R355)? A line in service is served to its end; then equals take turns in acceptance order. -/
def State.teTurn (s : State) (c : Call) : Bool :=
  let busy := s.calls.any fun d => d.kind = 1 && d.eng = c.eng && s.teServes d && (s.teLine d).isSome
  let last := ((s.served.find? (·.1 == c.eng)).map (·.2.1)).getD 0
  let l := s.teRing c.eng
  if busy then (s.teLine c).isSome
  else ((l.find? (last < ·.id)).or l.head?).any (·.id == c.id)

/-- The engine has served a call; `e`: in a line that goes on. -/
def State.serve (s : State) (c : Call) (e : Option Nat) : State :=
  { s with served := (c.eng, c.id, e) :: s.served.filter (·.1 != c.eng) }

/-- The elements of a call that are left in the line of an element: of its row, in one line of 64 bytes of the destination. -/
def TJob.line (j : TJob) (c : Call) (e : Nat) : List Nat :=
  c.todo.filter fun d => d / j.n0 = e / j.n0 && j.dstOf d / 64 = j.dstOf e / 64

/-- The engine serves a line of a call, or goes on with it (R355): it reads some of the line's elements; which line is next is free. -/
def serveLine (c : Call) (j : TJob) (x : TPlan) (clash : List (Nat × Nat)) : E Unit := do
  let e ← match (← get).teLine c with
    | some e => pure e
    | none => do
      let i ← ofM (freeBelow c.todo.length)
      pure (nth c.todo i 0)
  let (now, later) ← freePart (j.line c e)
  for d in now do
    takeElem c j x clash d
  modify fun s => s.serve c (if later.isEmpty then none else some e)

/-- A call goes on (R346, R350, R353, R355): where no other call waits for the engine it does all that is left, where it is its turn it is
served, or it writes some of what it has read, except what has to wait; some of the granules that it has written become full, before it
is complete all of them. -/
def goOn (c : Call) (j : TJob) (p : Part) (x : TPlan) : E Bool := do
  let s ← get
  let clash := j.clash c x s
  let ahead := s.unwritten p c
  let turn := s.teTurn c
  let alone := turn && (s.teRing c.eng).length ≤ 1
  let (now, _) ← freePart (s.ripe c j x)
  modify fun s => s.fillGrans c now
  match ← ofM (freeBelow 3) with
  | 0 =>
    for (e, l) in c.held do
      if !s.mustWait p c ahead e then giveElem c j x clash e l
    for e in if alone then c.todo else [] do
      if !s.mustWait p c ahead e then
        takeElem c j x clash e
        match ((← get).call? c.id).bind fun d => d.held.find? (·.1 == e) with
        | some (_, l) => giveElem c j x clash e l
        | none => pure ()
  | 1 => if turn then serveLine c j x clash
  | _ =>
    for (e, l) in (← freePart c.held).1 do
      if !s.mustWait p c ahead e then giveElem c j x clash e l
  match (← get).call? c.id with
  | some d =>
    if d.todo.isEmpty && d.held.isEmpty then
      modify fun s => s.fillGrans c d.grans
      return true
    return false
  | none => return false

/-- A step of a copy, gather, multicast, put or put-add (R346-R353): the call starts with its checks, then it goes on. -/
def stepTransfer (c : Call) : E Bool := do
  let s ← get
  let j := tjob c.record.toNat
  match s.part? c.pid with
  | none => faultAt 0x17
  | some p =>
    if c.started then
      let (src, dsts) := s.spacesNow p c j
      goOn c j p ⟨src, dsts, c.peer⟩
    else
      match s.teCheck p c j with
      | .error code => faultAt code
      | .ok x =>
        modify fun s => s.modCall c.id fun d => { d with started := true, peer := x.peer, todo := below j.total }
        return false

/-- Is a call in progress, or about to start: among the first four of its queue that are not final, those before it having started
(R353)? -/
def State.teActive (s : State) (c : Call) : Bool :=
  let l := s.queued 1 c.eng c.queue
  c.started || (l.all fun d => d.id ≥ c.id || d.started) && (l.filter (·.started)).length < 4

/-- May a call move now (R353, R355): it may start, it is its turn, it has elements read that need not wait, or it is complete? -/
def State.teMay (s : State) (c : Call) : Bool :=
  s.teActive c && (!c.started || s.teTurn c || (c.queue != 2 && (match s.part? c.pid with
    | none => true
    | some p => !(c.held.map Prod.fst).all (s.mustWait p c (s.unwritten p c)) || (c.todo.isEmpty && c.held.isEmpty))))

/-- A step of a transfer of one type, by call. A call whose TYPE its queue does not have is taken by the first type of the queue, and
ends in check 2. -/
def transfer (queue : Nat) (types : Nat → Bool) (s : State) : StepOut :=
  callStep 1 queue (fun s c => types (bits c.record.toNat 0 4) && s.teMay c) (fun c s => stepCall c (stepTransfer c) s) s

/-- COPY (R346). -/
def execTeCopy (s : State) : StepOut := transfer 0 (fun t => t != 2 && t != 3) s
/-- GATHER (R346). -/
def execTeGather (s : State) : StepOut := transfer 0 (· == 2) s
/-- MCAST (R346). -/
def execTeMcast (s : State) : StepOut := transfer 0 (· == 3) s
/-- PUT (R346, R462). -/
def execTePut (s : State) : StepOut := transfer 1 (· != 5) s
/-- PUTADD (R346, R348). -/
def execTePutadd (s : State) : StepOut := transfer 1 (· == 5) s

/-- The port that a feed names. -/
def Call.feedPort (c : Call) : Nat := bits c.record.toNat 384 3

/-- May a feed start (R347, R353): all earlier ones of its queue have, fewer than four are in progress, and its port is not
bound? -/
def State.feedMay (s : State) (c : Call) : Bool :=
  !c.started && s.teActive c &&
  (match s.strand? c.uid with
    | some t => !t.live || (t.sport c.feedPort).bind = .unbound
    | none => true)

/-- Has the launch a free 8 KiB of port storage in a cluster (R303)? -/
def State.portRoom (s : State) (lid cluster : Nat) : Bool :=
  let used := (s.strands.filter fun t => t.live && t.owner.lid = lid && t.clu = cluster).map fun t =>
    (t.sports.filter (·.held)).length
  match s.split? lid cluster with
  | some x => used.foldl (· + ·) 0 < 8 * x.prt
  | none => false

/-- Bind a port of a strand (R303): false if its launch has no storage for it. -/
def State.bindPort (s : State) (t : Strand) (port : Nat) (b : Bind) : Option State :=
  if (t.sport port).held || s.portRoom t.owner.lid t.clu then
    some (s.modStrand t.uid fun t => t.modSport port fun x => { x with bind := b, held := true })
  else none

/-- A feed is final: its port is unbound (R347). -/
def State.unbindPort (s : State) (uid port : Nat) : State :=
  s.modStrand uid fun t => t.modSport port fun x => SPort.settle { x with bind := .unbound }

/-- A feed starts: its checks, and the binding of its port (R303, R347, R349). -/
def startFeed (c : Call) (s : State) : State :=
  let j := tjob c.record.toNat
  match s.part? c.pid, (s.strand? c.uid).filter (·.live) with
  | some p, some t =>
    match s.teCheck p c j with
    | .error code => s.callFault c code 0
    | .ok _ =>
      match s.bindPort t c.feedPort (if j.type = 6 then .arrival else .departure) with
      | none => s.callFault c 0x19 0
      | some s => s.modCall c.id fun c => { c with started := true }
  | _, _ => s.callReset c

/-- FEEDIN (R347): the start of the feed. -/
def execTeFeedin (s : State) : StepOut :=
  callStep 1 2 (fun s c => bits c.record.toNat 0 4 != 7 && s.feedMay c) startFeed s

/-- FEEDOUT (R347): the start of the feed. -/
def execTeFeedout (s : State) : StepOut :=
  callStep 1 2 (fun s c => bits c.record.toNat 0 4 == 7 && s.feedMay c) startFeed s

/-- Vector `k` of a feed into a port (R347). -/
def feedIn (c : Call) (j : TJob) (x : TPlan) (k : Nat) : E Unit := do
  let n := j.n0 * j.b
  let (l, _) ← x.src.read c (addr64 (j.src + k * j.ss1)) n
  let v : SVec := ⟨BitVec.ofNat 8192 (leNat l), n, BitVec.ofNat 4 (bits j.x 4 4), 0, false, false⟩
  modify fun s => s.modStrand c.uid fun t => t.modSport c.feedPort fun p => { p with fifo := p.fifo ++ [v] }

/-- The oldest pushed vector leaves a FIFO; vectors of an arrival stay (R347). -/
def dropPushed : List SVec → List SVec
  | [] => []
  | v :: t => if v.pushed then t else v :: dropPushed t

/-- May a vector of a feed from number `k` on still write to a granule of a destination (R352)? -/
def TJob.mayFill (j : TJob) (dsts : List Space) (k g : Nat) : Bool :=
  ((below j.n1).drop k).any fun i => (granules dsts (addr64 (j.dst + (i : Nat) * j.ds1)) 1024).contains g

/-- Vector `k` of a feed out of a port (R347, R352): a granule that no later vector can write is set full, before the feed is complete
every one. -/
def feedOut (c : Call) (j : TJob) (x : TPlan) (k : Nat) (v : SVec) : E Unit := do
  require (!v.bad) 7
  modify fun s => s.modStrand c.uid fun t => t.modSport c.feedPort fun p => { p with fifo := dropPushed p.fifo }
  let base := addr64 (j.dst + k * j.ds1)
  let mut done := c.grans
  for d in x.dsts do
    for t in v.writes do
      let a := addr64 (base + t)
      for (pl, _) in ← d.places c a 1 .w do
        modify fun s => s.putBy c.id pl.addr [BitVec.ofNat 8 (v.data.toNat >>> (8 * t))]
      if j.fb then done := done ++ (granules [d] a 1).filter (!done.contains ·)
  let (now, later) := done.partition fun g => !j.mayFill x.dsts (k + 1) g
  modify fun s => (now.foldl State.setFull s).modCall c.id fun d => { d with grans := later }

/-- A feed moves its next vector, if the port lets it (R347, R356); after the last it is final. -/
def moveVector (c : Call) (s : State) : State :=
  let j := tjob c.record.toNat
  match (s.strand? c.uid).filter (·.live), s.part? c.pid with
  | some t, some p =>
    let port := t.sport c.feedPort
    let (src, dsts) := s.spacesNow p c j
    let x : TPlan := ⟨src, dsts, none⟩
    let work : Option (E Unit) :=
      if j.type = 6 then (if port.fifo.length < 4 then some (feedIn c j x c.moved) else none)
      else ((port.fifo.find? (·.pushed)).filter fun v => !s.feedWaits p c v).map (feedOut c j x c.moved)
    match work with
    | none => s
    | some m =>
      match m.run (s.serve c none) with
      | .error f s' => (s'.unbindPort c.uid c.feedPort).callFault c f.code f.va
      | .ok _ s' =>
        if c.moved + 1 = j.n1 then (s'.unbindPort c.uid c.feedPort).callDone c
        else s'.modCall c.id fun c => { c with moved := c.moved + 1 }
  | _, _ => s.callReset c

/-- One vector of a feed (R347), of the highest effective priority that can move (R355). -/
def execFeedVectorMove (s : State) : StepOut := callStep 1 2 (fun s c => c.started && s.teMay c) moveVector s

end Sys2Proof.Machine
end

