-- ==== Sys2Proof/Machine/Reorder.lean ====
section
/-! DEFINITION. Zinnia, the reorder unit (R408-R415), and `xflush` (R230). -/

namespace Sys2Proof.Machine

/-- The open collection of a strand on an engine (R408). -/
def State.coll? (s : State) (eng uid : Nat) : Option Coll := s.colls.find? fun x => x.eng = eng && x.uid = uid

/-- Change a collection. -/
def State.modColl (s : State) (eng uid : Nat) (f : Coll → Coll) : State :=
  { s with colls := s.colls.map fun x => if x.eng = eng && x.uid = uid then f x else x }

/-- The vectors of a batch (R410): the counts, then word j of every record. -/
def Coll.vectors (x : Coll) : List SVec :=
  let n := x.recs.length
  let vec := fun (ws : List Nat) (c : Nat) (tag : BitVec 4) =>
    (⟨BitVec.ofNat 8192 (ws.zipIdx.foldl (fun m (w, e) => setElem 32 e w m) 0), c, tag, 0, false, false⟩ : SVec)
  vec [n, x.batch] 8 4 :: (below x.w).map fun j => vec (x.recs.map fun r => (nth r j 0).toNat) (4 * n) (nth x.tags j 15)

/-- A batch is released (R410). -/
def Coll.release (x : Coll) : Coll :=
  if x.recs.isEmpty then x else { x with out := x.out ++ [x.vectors], recs := [], batch := x.batch + 1 }

/-- Vectors leave for the FIFO while it has room (R410): the collection and the FIFO. -/
def pushVecs : (fuel : Nat) → List (List SVec) → List SVec → List (List SVec) × List SVec
  | 0, out, fifo => (out, fifo)
  | fuel + 1, out, fifo =>
    if 4 ≤ fifo.length then (out, fifo)
    else match out with
      | [] => ([], fifo)
      | [] :: rest => pushVecs fuel rest fifo
      | [v] :: rest => pushVecs fuel rest (fifo ++ [v])
      | (v :: w :: t) :: rest => pushVecs fuel ((w :: t) :: rest) (fifo ++ [v])

/-- The unit pushes what the port of a collection has room for (R410). -/
def State.pushColl (s : State) (eng uid : Nat) : State :=
  match s.coll? eng uid, s.strand? uid with
  | some x, some t =>
    let (out, fifo) := pushVecs 16 x.out (t.sport x.port).fifo
    (s.modColl eng uid fun x => { x with out := out }).modStrand uid fun t =>
      t.modSport x.port fun p => { p with fifo := fifo }
  | _, _ => s

/-- ROU_BATCH_RELEASE (R410), by engine and strand: a batch whose oldest record came 2,048 clk ago is released; released
vectors are pushed while the FIFO has room. -/
def execRouBatchRelease (s : State) : StepOut :=
  match s.coll? s.ev.x s.ev.y with
  | none => .next s
  | some x =>
    let s := if !x.recs.isEmpty && 2048 ≤ s.time.toNat - x.since then s.modColl x.eng x.uid Coll.release else s
    .next (s.pushColl x.eng x.uid)

/-- The header word H of a call (R408). -/
def Call.rouHeader (c : Call) : Nat := bits (((c.regs.head?).map (·.bits.toNat)).getD 0) 0 32

/-- Does a call open or close a collection, or deposit (R408, R409)? -/
def Call.rouControl (c : Call) : Bool := ((c.regs.head?).map (·.tag)).getD 0 = 15

/-- Checks 1 and 2 of an OPEN or CLOSE (R408, R411). -/
def checkColl (c : Call) : E Unit := do
  let h := c.rouHeader
  require (fieldsZero h [(7, 1), (13, 3), (28, 4)]) 0x03
  require (c.regs.length = 1) 0x10
  match bits h 0 4 with
  | 1 => require (bits h 8 5 < 16 && 1 ≤ bits h 16 12 && bits h 16 12 ≤ 256) 0x10
  | 2 => require (bits h 4 28 = 0) 0x10
  | _ => faultAt 0x10

/-- OPEN (R408). -/
def runCollOpen (c : Call) : E Unit := do
  checkColl c
  let s ← get
  let h := c.rouHeader
  let port := bits h 4 3
  match s.strand? c.uid with
  | none => faultAt 0x19
  | some t =>
    require ((t.sport port).bind = .unbound) 0x13
    require (s.coll? c.eng c.uid).isNone 0x14
    withinQuota c
    match s.bindPort t port .arrival with
    | none => faultAt 0x19
    | some s =>
      let x : Coll := ⟨c.eng, c.uid, c.pid, c.ctx, port, bits h 8 5 + 1, bits h 16 12, [], [], 0, 0, [], none⟩
      set { s with colls := s.colls ++ [x] }

/-- COLLECTION_OPEN (R408), by call; it also takes a call whose TYPE the queue does not have, which ends in check 2. -/
def execCollectionOpen (s : State) : StepOut :=
  callStep 6 0 (fun s c => s.isNext c && c.rouControl && bits c.rouHeader 0 4 != 2) (fun c s => endCall c (runCollOpen c) s) s

/-- A CLOSE whose vectors are all in the FIFO ends (R408). -/
def State.finishColl (s : State) (c : Call) : State :=
  match s.coll? c.eng c.uid with
  | none => s.callFault c 0x12 0
  | some x =>
    let s := s.pushColl c.eng c.uid
    if ((s.coll? c.eng c.uid).map (·.out.flatten.isEmpty)).getD true then
      ({ s with colls := s.colls.filter fun y => !(y.eng = c.eng && y.uid = c.uid) }.unbindPort c.uid x.port).callDone c
    else s

/-- CLOSE starts (R408): the partial batch is released. -/
def startClose (c : Call) (s : State) : State :=
  let work : E Unit := do
    checkColl c
    match (← get).coll? c.eng c.uid with
    | some x =>
      require x.closing.isNone 0x12
      withinQuota c
    | none => faultAt 0x12
  match work.run s with
  | .error f s' => s'.callFault c f.code f.va
  | .ok _ s =>
    ((s.modColl c.eng c.uid fun x => { x.release with closing := some c.id }).modCall c.id
      fun c => { c with started := true }).finishColl c

/-- COLLECTION_CLOSE (R408), by call: it starts, or, once it waits, ends when every vector is in the FIFO. -/
def execCollectionClose (s : State) : StepOut :=
  callStep 6 0 (fun s c => (c.started || s.isNext c) && c.rouControl && bits c.rouHeader 0 4 = 2)
    (fun c s => if c.started then s.finishColl c else startClose c s) s

/-- The records of a collection that the unit holds: those of the batch that fills, and of released batches (R413). -/
def Coll.held (x : Coll) : Nat :=
  x.out.foldl (fun n b => n + ((b.getLast?).map fun v => v.count / 4).getD 0) x.recs.length

/-- The records on a unit of the collections that satisfy `p`. -/
def State.recLoad (s : State) (eng : Nat) (p : Coll → Bool) : Nat :=
  (s.colls.filter fun x => x.eng = eng && p x).foldl (fun n x => n + x.held) 0

/-- The lanes of a deposit (R409). -/
def Call.records (c : Call) : List (List (BitVec 32)) :=
  c.lanes.map fun q => (below c.regs.length).map fun j => BitVec.ofNat 32 (c.word j q)

/-- The checks of a deposit (R409, R411): its collection. -/
def checkDeposit (c : Call) : E Coll := do
  require (c.regs.all fun r => r.tag = 4 || r.tag = 5 || r.tag = 10) 0x10
  let s ← get
  match s.coll? c.eng c.uid with
  | none => faultAt 0x12
  | some x =>
    require (x.w = c.regs.length) 0x10
    require x.closing.isNone 0x12
    require (s.recLoad c.eng (fun y => y.pid = c.pid && y.ctx = c.ctx) + c.lanes.length ≤ 2048) 0x08
    withinQuota c
    return x

/-- One record joins a collection; a batch of LMAX records is released (R409, R410). -/
def Coll.join (x : Coll) (c : Call) (now : Nat) (r : List (BitVec 32)) : Coll :=
  let x := if x.recs.isEmpty then { x with tags := c.regs.map (·.tag), since := now } else x
  let x := { x with recs := x.recs ++ [r] }
  if x.lmax ≤ x.recs.length then x.release else x

/-- A deposit (R409): it waits while the unit has no room. -/
def runDeposit (c : Call) (s : State) : State :=
  match (checkDeposit c).run s with
  | .error f s' => s'.callFault c f.code f.va
  | .ok _ s =>
    if 4096 < s.recLoad c.eng (fun _ => true) + c.lanes.length then s
    else ((s.modColl c.eng c.uid fun x => c.records.foldl (fun x r => x.join c s.time.toNat r) x).pushColl c.eng
      c.uid).callDone c

/-- DEPOSIT (R409), by call. -/
def execRouDeposit (s : State) : StepOut :=
  callStep 6 0 (fun s c => s.isNext c && !c.rouControl) runDeposit s

/-- The effect of `xflush` (R230): the partial batches of the caller's context on an engine are released. -/
def State.flush (s : State) (kind eng pid ctx : Nat) : State :=
  if kind = 5 then s.release (s.buffered eng ctx fun x _ => x.pid = pid)
  else
    let l := s.colls.filter fun x => x.eng = eng && x.pid = pid && x.ctx = ctx
    l.foldl (fun s x => (s.modColl x.eng x.uid Coll.release).pushColl x.eng x.uid) s

/-- `xflush` (R230): it acts when the strand's earlier calls to the engine have been accepted by it; an address that names
no ray engine or reorder unit has no effect. -/
def execXflush (a : SReg) (s : State) : StepOut :=
  scalar (do
    let p ← needCall (.xflush a)
    let x ← readS a
    let t ← me
    let kind := eaKind x
    if bits x.toNat 32 32 = 0 && (kind = 5 || kind = 6) && ownIndex t x < p.engines kind then
      let s ← get
      let eng := s.engOf p t.owner.ctx kind (ownIndex t x)
      waitFor (t.vheld || !(t.vq.any fun e => e.op.isPost))
      waitFor (!s.calls.any fun c => c.uid = t.uid && c.kind = kind && c.eng = eng && c.queue != 2 && !c.started)
      modify fun s => s.flush kind eng p.pid t.owner.ctx) s

end Sys2Proof.Machine
end

