-- ==== Sys2Proof/Machine/SortEngine.lean ====
section
/-! DEFINITION. Aster, the sort engine (R357-R366). -/

namespace Sys2Proof.Machine

/-- A sort record (R357). -/
structure SJob where
  type : Nat
  scope : Nat
  kw : Nat
  vw : Nat
  kt : Nat
  desc : Bool
  seg : Bool
  kbits : Nat
  n : Nat
  nseg : Nat
  kin : Nat
  vin : Nat
  kout : Nat
  vout : Nat
  work : Nat
  sega : Nat
  deriving DecidableEq, Repr

/-- The fields of a record (R357). -/
def sjob (r : Nat) : SJob where
  type := bits r 0 4
  scope := bits r 4 2
  kw := bits r 6 2
  vw := bits r 8 2
  kt := bits r 10 2
  desc := bit r 12
  seg := bit r 13
  kbits := bits r 16 6 + 1
  n := bits r 64 32
  nseg := bits r 96 32
  kin := bits r 128 64
  vin := bits r 192 64
  kout := bits r 256 64
  vout := bits r 320 64
  work := bits r 384 64
  sega := bits r 448 64

/-- Key width w (R357). -/
def SJob.w (j : SJob) : Nat := 16 * (j.kw + 1)
/-- Bytes of a key slot (R358). -/
def SJob.ks (j : SJob) : Nat := nth [2, 4, 8, 8] j.kw 8
/-- Bytes of a value (R358). -/
def SJob.vs (j : SJob) : Nat := 4 * j.vw
/-- Bytes of the work area (R358). -/
def SJob.workLen (j : SJob) : Nat := (j.n * (j.ks + j.vs) + 63) / 64 * 64

/-- The compare key of a slot (R359). -/
def SJob.key (j : SJob) (slot : Nat) : Nat :=
  let w := j.w
  let top := 2 ^ (w - 1)
  let t := slot % 2 ^ w
  let flip := if t < top then t + top else t - top
  let t :=
    if j.kt = 1 then flip
    else if j.kt = 2 then (if top ≤ t then 2 ^ w - 1 - t else flip)
    else t
  let c := t % 2 ^ j.kbits
  if j.desc then 2 ^ j.kbits - 1 - c else c

/-- Do the regions keep the overlap rules (R361)? -/
def SJob.disjoint (j : SJob) : Bool :=
  let k := j.n * j.ks
  let v := j.n * j.vs
  let ins := [(j.kin, k), (j.vin, v)]
  let hit := fun (a b : Nat × Nat) => meets a.1 a.2 b.1 b.2
  let ko := (j.kout, k)
  let vo := (j.vout, v)
  let wk := (j.work, j.workLen)
  let sg := (j.sega, if j.seg then 4 * j.nseg else 0)
  !(j.kout != j.kin && hit ko (j.kin, k)) && !hit ko (j.vin, v) && !hit ko vo &&
  !(j.vout != j.vin && hit vo (j.vin, v)) && !hit vo (j.kin, k) &&
  !((ko :: vo :: sg :: ins).any fun x => hit wk x) && !((ko :: vo :: ins).any fun x => hit sg x)

/-- The page of host memory, if any, that a virtual address leads to, whatever its permissions (R108, R118). -/
def State.inHostVa (s : State) (c : Call) (va : Nat) : Bool :=
  match s.part? c.pid with
  | none => false
  | some p => s.inHost p c.ptbase (wd va)

/-- Does the work area lie in the scratch or the host aperture (R361)? -/
def State.workAperture (s : State) (c : Call) (j : SJob) : Bool :=
  meets j.work j.workLen apertureBase (2 ^ 64 - apertureBase) || (rangeOf j.work j.workLen).any fun (a, _) => s.inHostVa c a

/-- The checks of a sort when it is selected, in order (R362): the fault code. -/
def State.seCheck (s : State) (c : Call) (j : SJob) : Option Nat :=
  if !fieldsZero c.record.toNat [(14, 2), (22, 42)] then some 0x03
  else if j.type ≠ 1 || j.scope < 2 || j.vw = 3 || j.kt = 3 || (j.kt = 2 && j.kw = 2) || (j.kt ≠ 0 && j.kbits ≠ j.w) ||
      j.w < j.kbits then some 0x10
  else if 2 ^ 30 < j.n || (if j.seg then j.nseg = 0 || j.n + 1 < j.nseg else j.nseg ≠ 0 || j.sega ≠ 0) ||
      (j.vw = 0 && (j.vin ≠ 0 || j.vout ≠ 0)) then some 0x11
  else if j.kin % j.ks ≠ 0 || j.kout % j.ks ≠ 0 || (j.vw ≠ 0 && (j.vin % j.vs ≠ 0 || j.vout % j.vs ≠ 0)) ||
      j.work % 64 ≠ 0 || j.sega % 4 ≠ 0 then some 0x06
  else if !j.disjoint || s.workAperture c j then some 0x12
  else if s.engqPast c then some 0x08
  else none

/-- The slots of an array. -/
def slotsOf (n size : Nat) (l : List Byte) : List Nat := (below n).map fun i => leNat (slice l (size * i) size)

/-- The segment bounds (R360), none if they breach it. -/
def SJob.bounds (j : SJob) (l : List Byte) : Option (List (Nat × Nat)) :=
  if !j.seg then some [(0, j.n)]
  else
    let st := slotsOf j.nseg 4 l
    let ends := st.drop 1 ++ [j.n]
    let bs := st.zip ends
    if st.headD 1 = 0 && bs.all fun (a, b) => a ≤ b && b ≤ j.n then some bs else none

/-- The sorted order of a segment: input positions by compare key, stable (R360). -/
def SJob.order (j : SJob) (keys : List Nat) (a b : Nat) : List Nat :=
  sortBy (fun x y => decide (j.key (nth keys x 0) ≤ j.key (nth keys y 0))) ((below b).drop a)

/-- Has another written a byte to stay while a sort is under way (R366)? -/
def State.rivalAt (s : State) (c : Call) (a : Nat) : Bool := s.raced.any fun y => y.cid = c.id && !y.soft && meets a 1 y.addr y.n

/-- Bytes of a sort that are unspecified (R358, R362, R366), where they translate; `soft`: the sort writes them again, and what
another has written to stay does so. -/
def scramble (c : Call) (a n : Nat) (soft : Bool) : E Unit := do
  for (va, k) in rangeOf a n do
    match ← tryE (operand c (wd va) .w) with
    | .error _ => pure ()
    | .ok pl =>
      let l ← freeBytes k
      modify fun s => s.putBy c.id pl.addr (l.zipIdx.map fun (x, i) =>
        if soft && s.rivalAt c (pl.addr + i) then s.byteAt (pl.addr + i) else x) soft

/-- The number of digit passes (R361). -/
def SJob.passes (j : SJob) : Nat := (j.kbits + 7) / 8

/-- The memory of the keys and values of positions `a` to `b` of the input (R358). -/
def SJob.inputs (j : SJob) (c : Call) (s : State) (a b : Nat) : List (Nat × Nat) :=
  s.spots c (j.kin + a * j.ks) ((b - a) * j.ks) .r ++ s.spots c (j.vin + a * j.vs) ((b - a) * j.vs) .r

/-- The bytes that a started sort holds under a number: 0 the segment starts, 1 the keys and 2 the values that it read, 3 which
segments hold input written without order, 4 the bytes of its outputs. -/
def Call.kept (c : Call) (k : Nat) : List Byte := ((c.held.find? (·.1 == k)).map (·.2)).getD []

/-- A sort keeps bytes under a number. -/
def keep (c : Call) (k : Nat) (l : List Byte) : E Unit :=
  modify fun s => s.modCall c.id fun d => { d with held := d.held.filter (·.1 != k) ++ [(k, l)] }

/-- The count phase (R362): every operand is read, and the segment starts are checked. Starts written without order make every
segment unspecified (R366). -/
def countPhase (c : Call) (j : SJob) : E Unit := do
  let starts ← if j.seg then readOp c j.sega (4 * j.nseg) else pure []
  let _ ← readOp c j.kin (j.n * j.ks)
  let _ ← readOp c j.vin (j.n * j.vs)
  match j.bounds starts with
  | none => faultAt 0x13
  | some bs =>
    keep c 0 starts
    let s ← get
    let loose := j.seg && (s.spots c j.sega (4 * j.nseg) .r).any fun (a, k) => s.unsure c a k
    keep c 3 (bs.map fun _ => if loose then 1 else 0)

/-- Mark the segments whose input is written without order, by the test given (R366). -/
def markSegments (c : Call) (j : SJob) (bad : State → Nat → Nat → Bool) : E Unit := do
  let s ← get
  match s.call? c.id, j.bounds (c.kept 0) with
  | some d, some bs => keep c 3 ((bs.zip (d.kept 3)).map fun ((a, b), x) =>
      if x != 0 || (j.inputs c s a b).any fun (y, k) => bad s y k then 1 else 0)
  | _, _ => pure ()

/-- What a sort writes to its outputs (R360): the slots in order, a marked segment free (R366). -/
def SJob.outputs (j : SJob) (c : Call) : E (List Byte) := do
  let keys := slotsOf j.n j.ks (c.kept 1)
  let vals := slotsOf j.n j.vs (c.kept 2)
  let mut ks : List Byte := []
  let mut vs : List Byte := []
  for ((a, b), x) in ((j.bounds (c.kept 0)).getD []).zip (c.kept 3) do
    if x = 0 then
      let order := j.order keys a b
      ks := ks ++ order.flatMap fun i => leBytes j.ks (nth keys i 0)
      vs := vs ++ order.flatMap fun i => leBytes j.vs (nth vals i 0)
    else
      ks := ks ++ (← freeBytes ((b - a) * j.ks))
      vs := vs ++ (← freeBytes ((b - a) * j.vs))
  return ks ++ vs

/-- Write bytes of an output; a byte that another has written meanwhile may keep what it holds (R366). -/
def putOut (c : Call) (va : Nat) (l : List Byte) : E Unit := do
  for (a, k) in rangeOf va l.length do
    let pl ← operand c (wd a) .w
    let s ← get
    let mut out : List Byte := []
    for (x, i) in (slice l (a - va) k).zipIdx do
      let stays ← if s.rivalAt c (pl.addr + i) then ofM freeBool else pure false
      out := out ++ [if stays then s.byteAt (pl.addr + i) else x]
    modify fun s => s.putBy c.id pl.addr out

/-- Where byte `i` of the outputs of a sort goes. -/
def SJob.outAt (j : SJob) (i : Nat) : Nat := if i < j.n * j.ks then j.kout + i else j.vout + (i - j.n * j.ks)

/-- The last pass writes the outputs (R360): all of them, or a free part of the bytes that are left (R366). -/
def writeOuts (c : Call) (j : SJob) : E Bool := do
  let data := c.kept 4
  if c.todo.length = data.length then
    if ← ofM freeBool then
      putOut c j.kout (data.take (j.n * j.ks))
      putOut c j.vout (data.drop (j.n * j.ks))
      return true
  let (now, left) ← freePart c.todo
  for i in now do
    putOut c (j.outAt i) (slice data i 1)
  modify fun s => s.modCall c.id fun d => { d with todo := left }
  return left.isEmpty

/-- A digit pass (R361, R362). The first reads the inputs again; each uses the work area and, until the last has written them, may
leave anything in the outputs; the last writes them. -/
def digitPass (c : Call) (j : SJob) : E Bool := do
  if c.moved = j.passes then writeOuts c j
  else
    if c.moved = 0 then
      let keys ← readOp c j.kin (j.n * j.ks)
      let vals ← readOp c j.vin (j.n * j.vs)
      keep c 1 keys
      keep c 2 vals
      markSegments c j fun s a n => s.unsure c a n
    let _ ← placesOf c j.work j.workLen .rw
    let _ ← placesOf c j.kout (j.n * j.ks) .w
    let _ ← placesOf c j.vout (j.n * j.vs) .w
    scramble c j.work j.workLen false
    if c.moved + 1 < j.passes then
      scramble c j.kout (j.n * j.ks) true
      scramble c j.vout (j.n * j.vs) true
    else
      markSegments c j fun s a n => s.raced.any fun y => y.cid = c.id && meets a n y.addr y.n
      let l ← j.outputs (((← get).call? c.id).getD c)
      keep c 4 l
      modify fun s => s.modCall c.id fun d => { d with todo := below l.length }
    modify fun s => s.modCall c.id fun d => { d with moved := c.moved + 1 }
    return false

/-- A step of a sort (R359-R362): its checks and the count phase, or the next of its digit passes; a fault in a digit pass leaves the
outputs and the work area unspecified. -/
def stepSort (c : Call) : E Bool := do
  let j := sjob c.record.toNat
  if !c.started then
    match (← get).seCheck c j with
    | some code => faultAt code
    | none =>
      if j.n != 0 then countPhase c j
      return j.n = 0
  else
    match ← tryE (digitPass c j) with
    | .ok fin => return fin
    | .error f =>
      scramble c j.work j.workLen false
      scramble c j.kout (j.n * j.ks) false
      scramble c j.vout (j.n * j.vs) false
      throw f

/-- Is a sort inside its last pass, its outputs not all written? -/
def Call.inLastPass (c : Call) : Bool := c.kind = 3 && c.started && !c.todo.isEmpty

/-- Does the engine of a sort work on it: the one whose last pass is under way, else the one that it selects at this pass boundary
(R364)? -/
def State.sortsOn (s : State) (c : Call) : Bool :=
  if (s.queued 3 c.eng 0).any Call.inLastPass then c.inLastPass else s.selects s.callPrio c

/-- A sort (R357-R366), by call: one pass, or a part of the last; between two passes a sort of higher effective priority may be
selected (R364). -/
def execSeSort (s : State) : StepOut :=
  callStep 3 0 State.sortsOn (fun c s => stepCall c (stepSort c) (s.takeUp c)) s

end Sys2Proof.Machine
end

