-- ==== Sys2Proof/Machine/Errors.lean ====
section
/-! DEFINITION. What can go wrong by itself: uncorrectable errors of memory, queues and engines (R142, R304, R313, R437, R464), and
what a breach of software may do to its own context (R12). -/

namespace Sys2Proof.Machine

/-- An uncorrectable error inside an engine ends a call FAULT 0x09 (R26, R437): a feed's port is unbound, a started sort leaves its
outputs unspecified, a waiting batch leaves its window, the rays of a call are discarded, a CLOSE no longer waits. -/
def State.breakCall (s : State) (c : Call) : State :=
  match c.kind, c.queue, c.started with
  | 1, 2, true => (s.unbindPort c.uid c.feedPort).callFault c 9 0
  | 3, _, true => (s.spoilSort c).callFault c 9 0
  | 4, 1, true => ({ s with rbe := s.rbe.map fun x => { x with waiting := x.waiting.filter (·.call.id != c.id) } } : State).callFault
      c 9 0
  | 5, 0, true => s.faultRays c ⟨9, 0⟩
  | 5, 1, true => s.faultRays c ⟨9, 0⟩
  | 4, 2, _ => if c.ctlType = 2 then match (breakClose c).run s with
        | .ok _ t => t.callFault c 9 0
        | .error _ t => t.callFault c 9 0
      else s.callFault c 9 0
  | 6, _, true => (s.modColl c.eng c.uid fun x => { x with closing := none }).callFault c 9 0
  | _, _, _ => s.callFault c 9 0

/-- Has its engine a call in hand: one that has started, or that its queue is about to start (R29, R339, R364)? Raster and sample calls
run one at a time (R381, R391). -/
def State.inHand (s : State) (c : Call) : Bool :=
  match c.kind, c.queue with
  | 0, _ => c.started || s.jobsOn c
  | 2, _ => s.isFirst c
  | 3, _ => c.started || s.sortsOn c
  | 4, 0 => s.isFirst c
  | _, _ => c.started || s.isNext c

/-- Data of a strand's queues gets an error mark: a word of a port (R313) or a vector of a stream port (R304). -/
def State.queueErrors (s : State) : List State :=
  s.strands.flatMap fun t =>
    (((below 4).flatMap fun p => (below (t.ports.toList.getD p []).length).map fun i => s.modStrand t.uid fun t =>
      { t with ports := t.ports.setIfInBounds p ((t.ports.toList.getD p []).modify i fun x => (x.1, true)) })) ++
    ((below 8).flatMap fun p => (below (t.sport p).fifo.length).map fun i => s.modStrand t.uid fun t =>
      t.modSport p fun x => { x with fifo := x.fifo.modify i fun v => { v with bad := true } })

/-- A parked word gets an error mark (R313). -/
def State.parkedErrors (s : State) : List State :=
  s.parts.flatMap fun p => (below p.parked.length).map fun i => s.modPart p.pid fun p =>
    { p with parked := p.parked.modify i fun w => { w with bad := true } }

/-- The general registers of a strand and their flags take any values (R12, log 7). -/
def Strand.disturbScalar (f : Nat → Nat) (t : Strand) : Strand :=
  { t with
    pc := wd (f 20 / 4 * 4)
    s := (below 31).foldl (fun v i => v.setIfInBounds (i + 1) (wd (f (21 + i)))) t.s
    fflags := BitVec.ofNat 5 (f 60)
    frm := BitVec.ofNat 3 (f 61 % 5)
    spoison := BitVec.ofNat 32 (f 62) &&& ~~~1 }

/-- The vector state takes any values: a vector and its tag, a mask, the lengths, the flags of the lanes, the mask stack, and the queue
may lose an entry. -/
def Strand.disturbVector (f : Nat → Nat) (t : Strand) : Strand :=
  { t with
    v := t.v.setIfInBounds (f 20 % 64) (BitVec.ofNat 8192 (f 21))
    tags := t.tags.setIfInBounds (f 20 % 64) (BitVec.ofNat 4 (f 22))
    k := t.k.setIfInBounds (1 + f 23 % 7) (BitVec.ofNat 2048 (f 24))
    vl := BitVec.ofNat 12 (f 25)
    gvl := BitVec.ofNat 12 (f 26)
    vtag := BitVec.ofNat 4 (f 27)
    vstart := BitVec.ofNat 12 (f 28)
    vcommit := wd (f 29)
    lanes := t.lanes.setIfInBounds (f 30 % 32) (BitVec.ofNat 5 (f 31))
    mstack := t.mstack.drop (f 32 % 2)
    vpoison := BitVec.ofNat 64 (f 33)
    kpoison := BitVec.ofNat 8 (f 34)
    vq := t.vq.eraseIdx (f 35) }

/-- Port words and bound streams of a strand take any values, their routes and permissions too, and a queue may lose what it holds. -/
def Strand.disturbPorts (f : Nat → Nat) (t : Strand) : Strand :=
  let t := t.modSport (f 20 % 8) fun x => { x with fifo := (x.fifo.map fun v => { v with bad := bit (f 21) 0 }).drop (f 22 % 3) }
  { t with
    ports := t.ports.setIfInBounds (f 23 % 4) ((t.ports.toList.getD (f 23 % 4) []).map fun _ => (wd (f 24), bit (f 25) 0))
    porten := BitVec.ofNat 4 (f 26)
    routes := t.routes.setIfInBounds (f 23 % 4) (wd (f 27) &&& routeMask) }

/-- The registers of SUP take any values, where it is SUP that has broken an obligation. -/
def Strand.disturbSup (f : Nat → Nat) (t : Strand) : Strand :=
  { t with
    sup := ⟨wd (f 20 / 4 * 4), wd (f 21) &&& causeMask, wd (f 22), wd (f 23) &&& vecMask, wd (f 24 / 4 * 4), t.sup.ipa⟩
    bartimeout := BitVec.ofNat 6 (f 25)
    wdog := BitVec.ofNat 32 (f 26) }

/-- Registers of a strand that its level can see take any values (R12, log 7). -/
def Strand.disturbed (f : Nat → Nat) (t : Strand) : Strand :=
  match f 12 % 4 with
  | 0 => t.disturbScalar f
  | 1 => t.disturbVector f
  | 2 => t.disturbPorts f
  | _ => if t.pl = .app then t else t.disturbSup f

/-- A byte that a strand of a context can see, in memory or in its scratch, takes any value (R12). -/
def State.disturbMem (s : State) (f : Nat → Nat) (t : Strand) : State :=
  let b := [BitVec.ofNat 8 (f 21)]
  if bit (f 12) 0 then
    match (s.split? t.owner.lid t.clu).bind fun x => x.at (f 20 % (x.scr * 65536)) with
    | some a => s.putDev a b
    | none => s
  else match t.owner.pid?.bind s.part? with
    | none => s
    | some p => match s.freshPlace p t.ptbase t.pl (wd (f 20)) .r false with
      | .ok pl => if pl.kind = .pma then s.putDev pl.addr b else s
      | .error _ => s

/-- Engine state that the calls of a context can see takes any values (R12): a call ends in any fault, a pixel block or a ray set is lost
or changed, a binding goes, records that a shader gathers go, a barrier's generation moves. -/
def State.disturbEngines (s : State) (f : Nat → Nat) (pid : Nat) (of : Nat → Bool) (lv : Level) : State :=
  let calls := s.calls.filter fun c => c.pid = pid && of c.ctx && c.level = lv
  let n := f 20
  match f 12 % 6 with
  | 0 => match calls[n % calls.length]? with
    | some c => s.callFault c (f 13 % 256) (f 14)
    | none => s
  | 1 => { s with rbe := s.rbe.map fun x => if x.pid = pid && of x.ctx then { x with
      planes := x.planes.map fun _ => BitVec.ofNat 8192 (f 13)
      flags := BitVec.ofNat 5 (f 14), consts := x.consts.map fun _ => BitVec.ofNat 32 (f 15) } else x }
  | 2 => { s with raysets := s.raysets.map fun x => if x.pid = pid && of x.ctx then { x with
      rays := x.rays.map fun r => { r with comp := r.comp.map fun _ => BitVec.ofNat 32 (f 13) } } else x }
  | 3 => { s with binds := s.binds.map fun x => if x.pid = pid && of x.ctx then { x with root := wd (f 13) } else x }
  | 4 => { s with colls := s.colls.map fun x => if x.pid = pid && of x.ctx then { x with
      recs := x.recs.map fun r => r.map fun _ => BitVec.ofNat 32 (f 13) } else x }
  | _ => s.modPart pid fun p => { p with bars := p.bars.map fun b => if of b.ctx then { b with gen := b.gen + f 13 } else b }

/-- What a breach may do next to the registers, memory and engine state that the offender can see (R12); other contexts, partitions and
levels see nothing of it. -/
def State.disturb (s : State) (f : Nat → Nat) (d : Nat × Nat × Level) : State :=
  let (pid, ctx, lv) := d
  let of := fun c => ctx = 0 || c = ctx
  let mine := s.strands.filter fun t => t.resident && t.owner.pid? = some pid && of t.owner.ctx && t.pl = lv
  match f 10 % 3, mine[f 11 % mine.length]? with
  | 0, some t => s.modStrand t.uid (Strand.disturbed f)
  | 1, some t => s.disturbMem f t
  | 2, _ => s.disturbEngines f pid of lv
  | _, _ => s

/-- What may go wrong now: a line of memory, what strands and the overflow store hold, an engine under a call, a breach. -/
def State.mishaps (s : State) : List State :=
  let f := Config.free s.tick
  ({ s with bad := f 1 :: s.bad } : State) :: s.queueErrors ++ s.parkedErrors ++ (s.calls.filter s.inHand).map s.breakCall ++ s.breached.map (s.disturb f)

end Sys2Proof.Machine
end

