-- ==== Sys2Proof/Machine/Dispatcher.lean ====
section
/-! DEFINITION. The steps of the dispatchers (R164-R167, R177, R184-R193, R196) and the moving in of parked words (R315). -/

namespace Sys2Proof.Machine

/-- A round of the dispatchers of a partition (R190); the first of a run drops the surplus of idle queues (R191). -/
def execDispatchSelection (s : State) : StepOut :=
  let s1 := if s.ev.y = 0 then s.trimDc s.ev.x else s
  .next (s1.select s.ev.x 8 s.ev.y (s.ev.data.map BitVec.toNat))

/-- The record at HEAD of a queue is taken if it is ready (R184). -/
def execLaunchRecordTake (s : State) : StepOut := event (takeRecord s.ev.x s.ev.y) s

/-- A ready fence record at HEAD of a queue is taken (R196). -/
def execFenceRecord (s : State) : StepOut := event (fenceTake s.ev.x s.ev.y) s

/-- A waiting launch starts whole (R186, R187). -/
def execLaunchStart (s : State) : StepOut := event (startLaunch s.ev.x) s

/-- A strand is switched out (R164). -/
def execStrandSwitchOut (s : State) : StepOut := .next (s.switchOut s.ev.x)

/-- A switched-out strand is resumed (R164, R167, R186). -/
def execStrandResume (s : State) : StepOut := event (resume s.ev.x) s

/-- The vector state of a switched-out strand is saved (R165, R166). -/
def execForcedSave (s : State) : StepOut :=
  event (do
    let s ← get
    match s.strand? s.ev.x with
    | some t => if t.live && t.place.isNone && s.vown t then forceSave t.uid
    | none => pure ()) s

/-- The resident strands of a partition that charge an own pool (R177). -/
def State.poolStrands (s : State) (p : Part) (rcb : Nat) : List Nat :=
  (s.strands.filter fun t => t.resident && t.owner.pid? = some p.pid &&
    (p.ownPools t.owner.ctx t.owner.rcb).contains rcb).map (·.uid)

/-- An own pool has reached its BUDGET: its resident strands are switched out (R177). -/
def execPoolExhausted (s : State) : StepOut :=
  .next (match s.part? s.ev.x with
    | none => s
    | some p => if p.exhausted s.time s.ev.y then (s.poolStrands p s.ev.y).foldl State.switchOut s else s)

/-- A period of an own pool has ended: its charge starts anew (R177). -/
def execPeriodBoundary (s : State) : StepOut :=
  .next (s.modPart s.ev.x fun p => { p with
    pools := p.pools.filter fun x => x.rcb != s.ev.y || x.period = p.period s.time x.rcb })

/-- The oldest parked word of a port of a resident strand moves into its arrival queue as there is room (R315). -/
def State.moveIn (s : State) (uid port : Nat) : State :=
  match s.strand? uid with
  | none => s
  | some t =>
    let q := nth t.ports.toList port []
    match t.owner.pid?.bind s.part? with
    | none => s
    | some p =>
      match p.parked.find? fun w => w.uid = uid && w.port = port with
      | none => s
      | some w =>
        if !t.resident || 16 ≤ q.length then s
        else (s.modStrand uid fun t => { t with ports := t.ports.setIfInBounds port (q ++ [(w.word, w.bad)]) }).modPart p.pid
          fun p => { p with parked := p.parked.erase w }

/-- A parked word moves in (R315). -/
def execParkedWordMoveIn (s : State) : StepOut := .next (s.moveIn s.ev.x s.ev.y)

end Sys2Proof.Machine
end

