-- ==== Sys2Proof/Machine/Messaging.lean ====
section
/-! DEFINITION. Routes (R317), barriers (R319-R327) and semaphores (R328, R329). -/

namespace Sys2Proof.Machine

/-- The partition of a messaging instruction: none on a service strand (R311, R467), feature group 3 (R98). -/
def needMsg (i : Instr) : M Part := do
  let p ← needPart i
  needGroup 3 i
  return p

/-- Set ROUTEn (R317); its reserved bits are not stored (R7). -/
def setRoute (n : Nat) (x : Word) : M Unit :=
  modMe fun t => { t with routes := t.routes.setIfInBounds n (x &&& routeMask) }

/-- `route` (R317). -/
def execRoute (p : BitVec 2) (a : SReg) (s : State) : StepOut :=
  scalar (do
    let _ ← needMsg (.route p a)
    setRoute p.toNat (← readS a)) s

/-- The barrier of an id; one that has no entry is unbound and empty (R319). -/
def Part.bar (p : Part) (id : Nat) : Barrier := (p.bars.find? (·.id == id)).getD ⟨id, 0, 0, 0, [], [], [], 0⟩

/-- Set a barrier. -/
def Part.setBar (p : Part) (b : Barrier) : Part := { p with bars := b :: p.bars.filter (·.id != b.id) }

/-- Change a barrier of the executing strand's partition. -/
def modBar (id : Nat) (f : Barrier → Barrier) : M Unit := modMyPart fun p => p.setBar (f (p.bar id))

/-- The participant that a strand is (R319). -/
def Strand.participant (t : Strand) : Nat × Nat := (t.pos, t.num.toNat)

/-- The current generation is over (R321): what arrived is marked. -/
def Barrier.cancel (b : Barrier) : Barrier :=
  { b with marked := b.marked ++ b.arrived.filter (fun q => !b.marked.contains q), arrived := [], gen := b.gen + 1 }

/-- The id of a barrier instruction (R319): illegal above 1023, privileged at or above BARQ. -/
def barId (p : Part) (i : Instr) (a : Word) : M Nat := do
  let t ← me
  if a.toNat / 1024 ≠ 0 then illegal i
  if (p.eff t.owner.ctx t.owner.rcb).barq ≤ a.toNat then trapAt 4 (Instr.words i)
  return a.toNat

/-- A marked participant takes barrier timeout and loses its mark (R321). -/
def checkMark (p : Part) (id : Nat) : M Unit := do
  let q := (← me).participant
  if (p.bar id).marked.contains q then
    modBar id fun b => b.forget q
    throw (.trap ⟨0x0C, wd id, .sup⟩ true)

/-- A strand of a name that waits takes a trap at its pc; the one that moves stays the same. One that the trap of an earlier waiter has
removed takes none. -/
def State.trapOther (s : State) (uid : Nat) (t : Trap) : State :=
  if (s.strand? uid).any Strand.resident then ((s.switchTo uid).takeTrap t false false).switchTo s.me.uid else s

/-- Cancel the current generation of a barrier (R321): every marked participant that is resident and waits on it takes barrier
timeout at once. -/
def State.cancelBar (s : State) (pid id : Nat) : State :=
  match s.part? pid with
  | none => s
  | some p =>
    let b := (p.bar id).cancel
    let s := s.modPart pid fun p => p.setBar b
    let hit := s.strands.filter fun t =>
      t.resident && t.owner.pid? = some pid && t.waitBar = some id && b.marked.contains t.participant
    hit.foldl (fun s t =>
      (s.modPart pid fun p => p.setBar ((p.bar id).forget t.participant)).trapOther t.uid ⟨0x0C, wd id, .sup⟩) s

/-- `bar.def` (R322). -/
def execBarDef (a b : SReg) (s : State) : StepOut :=
  scalar (do
    let i := Instr.barDef a b
    let p ← needMsg i
    let x ← readS a
    let y ← readS b
    let id ← barId p i x
    checkMark p id
    let n := y.toNat
    if bit n 63 && (bits n 11 5 != 0 || bits n 27 5 != 0 || bits n 43 5 != 0 || p.w ≤ bits n 32 11 || p.h ≤ bits n 48 11 ||
        bits n 59 4 = 0) then illegal i
    let ctx := (← me).owner.ctx
    let b := p.bar id
    if b.binding != y then
      if !b.arrived.isEmpty then modify fun s => s.cancelBar p.pid id
      modify fun s => s.modPart p.pid fun p => p.setBar { p.bar id with binding := y, ctx := ctx }) s

/-- EXP of BARTIMEOUT in force (R144). -/
def Strand.barExp (t : Strand) : Nat := min 40 (max 12 t.bartimeout.toNat)

/-- An arrival (R323): earlier accesses perform, the deadline starts with the first, and a full set releases. -/
def arrive (id : Nat) (aw : Bool) : M Unit := do
  let s ← get
  match s.myPart? with
  | none => pure ()
  | some p =>
    let q := s.me.participant
    let b := p.bar id
    if !b.v || !(p.population b).contains q || b.arrived.contains q then trapAt 0x0D (wd id)
    fenceAll
    let time := (← get).time.toNat
    let exp := s.me.barExp
    modMyPart fun p => p.setBar (p.settleBar
      { b with
        deadline := if b.arrived.isEmpty then time + 2 ^ exp else b.deadline
        arrived := q :: b.arrived
        awp := if aw then q :: b.awp else b.awp })

/-- The barrier of the executing strand's partition as it stands. -/
def myBar (id : Nat) : M Barrier := do
  match (← get).myPart? with
  | some p => return p.bar id
  | none => return ⟨id, 0, 0, 0, [], [], [], 0⟩

/-- `bar.arr` (R323). -/
def execBarArr (a : SReg) (s : State) : StepOut :=
  scalar (do
    let p ← needMsg (.barArr a)
    let id ← barId p (.barArr a) (← readS a)
    checkMark p id
    arrive id false) s

/-- The executing strand waits on a barrier (R156, R323): of its instruction nothing is done but what the barrier holds. -/
def waitOnBar (old : Strand) (id : Nat) : M Unit := modMe fun _ => { old with waitBar := some id }

/-- A barrier instruction of the executing strand retires: an acquire for both paths (R325). -/
def barRetire : M Unit := do
  modify State.acquire
  modMe fun t => { t with waitBar := none }
  advance 4

/-- `bar.wait` (R323): it retires while its participant has not arrived. -/
def execBarWait (a : SReg) (s : State) : StepOut :=
  runInstr (do
    let old ← me
    let p ← needMsg (.barWait a)
    let id ← barId p (.barWait a) (← readS a)
    checkMark p id
    if (p.bar id).arrived.contains old.participant then waitOnBar old id else barRetire) s

/-- `bar.aw` (R323): it arrives once, however often it reissues, and waits for the release. -/
def execBarAw (a : SReg) (s : State) : StepOut :=
  runInstr (do
    let old ← me
    let p ← needMsg (.barAw a)
    let id ← barId p (.barAw a) (← readS a)
    checkMark p id
    let q := old.participant
    if !(p.bar id).awp.contains q then arrive id true
    if (← myBar id).arrived.contains q then waitOnBar old id
    else
      modBar id fun b => { b with awp := b.awp.filter (· != q) }
      barRetire) s

/-- TIME has reached the deadline of a barrier with arrivals (R324). -/
def execBarrierTimeout (s : State) : StepOut :=
  .next (match s.part? s.ev.x with
    | none => s
    | some p =>
      let b := p.bar s.ev.y
      if !b.arrived.isEmpty && b.deadline ≤ s.time.toNat then s.cancelBar p.pid b.id else s)

/-- The number of a semaphore (R328). -/
def semNum (p : Part) (i : Instr) (a : Word) : M Nat := do
  let t ← me
  if a.toNat / 4096 ≠ 0 then illegal i
  let e := p.eff t.owner.ctx t.owner.rcb
  if !(e.semlo ≤ a.toNat && a.toNat ≤ e.semhi) then trapAt 4 (Instr.words i)
  return a.toNat

/-- `sem.sig` (R329): a release, then the signal. -/
def execSemSig (a b : SReg) (s : State) : StepOut :=
  scalar (do
    let p ← needMsg (.semSig a b)
    let x ← readS a
    let y ← readS b
    let n ← semNum p (.semSig a b) x
    fenceAll
    modMyPart fun p => p.signal n y.toInt) s

/-- `sem.wait` (R329). -/
def execSemWait (a b : SReg) (s : State) : StepOut :=
  scalar (do
    let p ← needMsg (.semWait a b)
    let x ← readS a
    let y ← readS b
    let n ← semNum p (.semWait a b) x
    waitFor (y.toNat ≤ p.sem n)
    modify State.acquire) s

/-- `sem.poll` (R329). -/
def execSemPoll (d a : SReg) (s : State) : StepOut :=
  scalar (do
    let p ← needMsg (.semPoll d a)
    let n ← semNum p (.semPoll d a) (← readS a)
    writeS d (wd (p.sem n))
    modify State.acquire) s

end Sys2Proof.Machine
end

