-- ==== Sys2Proof/Machine/Bulkhead.lean ====
section
/-! DEFINITION. Bulkhead states (R417-R421), the reset of a bulkhead and of a partition (R197, R419), and what each clears. -/

namespace Sys2Proof.Machine

/-- Does a core sit in a bulkhead? -/
def State.coreIn (s : State) (b : Nat) (c : CoreId) : Bool := s.coreBh c = some b

/-- Clear the stash, tile stores, engine state, register files, TLBs and accumulators of a bulkhead (R419 step 4, R429); its
cores are no longer withdrawn, and a scan of one ends ABORTED (R452). -/
def State.clearBh (s : State) (b : Nat) : State :=
  let s := (below 8).foldl (fun s r => s.wipe (stashAt (8 * b + r) 0) (2 ^ 22)) s
  let s : State := { s with
    splits := s.splits.filter fun x => x.cluster / 8 != b
    rbe := s.rbe.filter (·.eng != b)
    binds := s.binds.filter (·.eng != b)
    rsids := s.rsids.filter fun x => x.1 != b
    raysets := s.raysets.filter (·.eng != b)
    colls := s.colls.filter (·.eng != b)
    slots := s.slots.filter fun x => !s.coreIn b x.core
    tlb := s.tlb.filter fun t => match t.place with
      | .core c => !s.coreIn b c
      | .cluster n => n / 8 != b
      | .die _ => true
    accums := s.accums.filter fun c => c.addr / 2 ^ 34 != b
    cores := s.cores.map fun k => if s.coreIn b k.core then { k with wd := false } else k }
  s.reveal fun x => x.hid.filter fun v => match v with
    | .sibS c => !s.coreIn b c
    | .sibV c => !s.coreIn b c
    | _ => true

/-- Mark every entry of a partition's DET backing area V = 0 (R419). -/
def State.clearBacking (s : State) (p : Part) : State :=
  loop (bits p.detcnt.toNat 0 24) (fun i s =>
    match s.backingAt p i 40 with
    | some a => if bit (s.byteAt a).toNat 5 then { s with mem := Mem.write s.mem a (BitVec.ofNat 8 ((s.byteAt a).toNat - 32)) } else s
    | none => s) s

/-- A RUNNING launch ends RESET; a failed write raises no request (R197 step 2). -/
def State.resetLaunch (s : State) (l : Launch) : State :=
  (s.writeCw l fun w => cwWord 5 (bits w 8 5) 0 l.left).1.modLaunch l.id fun l => { l with stat := .final }

/-- What a partition keeps over its reset (R197 step 3). -/
def Part.afterReset (p : Part) : Part :=
  { p with
    sems := [], otoks := [], bars := [], parked := [], pools := [], killed := false
    rcbs := p.rcbs.map fun r => { r with killed := false }
    queues := p.queues.map fun q => { q with dc := 0 } }

/-- A queue with EN = 1 and RPL = 1 is replayed: its restore copy, then HEAD := REPLAY (R197 step 4). -/
def State.replayQueue (s : State) (pid q : Nat) : State :=
  match s.part? pid with
  | none => s
  | some p =>
    let x := p.queue q
    if x.isOpen && x.rpl then
      let s := s.modPart pid fun p => x.restore.foldl (fun p e => p.setSem (bits e.toNat 0 12) (bits e.toNat 12 52)) p
      let s := { s with launches := s.launches.filter fun (l : Launch) => !(l.pid = pid && l.queue = some q && l.stat = LStat.waiting) }
      (s.modQueue pid q fun x => { x with head := x.replay }).putDesc p q 24 (leBytes 8 x.replay.toNat)
    else s

/-- A partition reset (R197); `accums`: with the additions of R419. -/
def State.partReset (s : State) (pid : Nat) (accums : Bool) : State :=
  match s.part? pid with
  | none => s
  | some p =>
    let s := s.resetCalls (·.pid == pid)
    let s := ((s.strands.filter fun t => t.live && t.owner.pid? = some pid).map (·.uid)).foldl State.removeStrand s
    let s := s.dropContext pid 0
    let s := (s.launches.filter fun l => l.pid = pid && l.stat = .started).foldl State.resetLaunch s
    let s := if accums then (s.dropAccums p).clearBacking p else s
    let s := s.modPart pid Part.afterReset
    (below 64).foldl (fun s q => s.replayQueue pid q) s

/-- A store never happened: what it replaced stands again. -/
def State.undo (s : State) (x : Recent) : State :=
  let above := s.recent.takeWhile (· != x)
  let top := above.foldl (fun m y => if y.addr = x.addr then m ||| y.mask else m) (0 : BitVec 8)
  { s with
    mem := loop 8 (fun i q => if x.mask.getLsbD i && !top.getLsbD i
      then Mem.write q (x.addr + i) (BitVec.ofNat 8 (elem 8 i x.old.toNat)) else q) s.mem
    recent := lift x.addr x.mask x.old.toNat above ++ (s.recent.drop (above.length + 1)) }

/-- Scalar stores of a core whose line was still dirty in its L1D when the cache was zeroed are lost (R110, R419 step 4):
which ones is free. -/
def loseDirty (b : Nat) : M Unit := do
  let s ← get
  for x in s.recent do
    let core := (s.strand? x.uid).bind s.coreOf
    if !x.vector && x.hid.contains .vec && core.any (s.coreIn b) then
      if ← freeBool then modify fun s => s.undo x

/-- A bulkhead reset begins (R419 steps 1-4); `dying`: it cannot recover (R421). A bulkhead without an owner is reset and then
scrubbed anew (R441, R448; DEDUCED, log 34); one that is in RESET may learn that it cannot recover. -/
def startReset (b : Nat) (dying : Bool) : M Unit := do
  let s ← get
  match (s.bh b).state with
  | .off => pure ()
  | .reset => if dying then modify fun s => s.modBh b fun x => { x with dying := true }
  | _ =>
    modify State.landAll
    loseDirty b
    modify fun s =>
      let s := s.modBh b fun x => { x with state := .reset, dying := dying }
      let s := s.resetCalls fun c => engBh c.kind c.eng = b
      let s := ((s.strands.filter fun t => t.live && (match s.coreOf t with
        | some c => s.coreIn b c
        | none => false)).map (·.uid)).foldl State.removeStrand s
      s.clearBh b

/-- Every context's map of a partition as it is now (R42, R421), and its barriers over it (R327). -/
def State.remap (s : State) (pid : Nat) : State :=
  match s.part? pid with
  | none => s
  | some p => s.modPart pid fun q =>
      Part.dropAbsent { q with rcbs := q.rcbs.map fun r => { r with cmap := s.liveMap p r.cmap } }

/-- The hypervisor strand learns of an event that ends `idle` (R220, R421, R457). -/
def State.wakeHyp (s : State) : State := s.mapStrands fun t => if t.owner = .hyp && t.live then { t with mark := true } else t

/-- A bulkhead that cannot recover goes OFF and is lost to its partition (R421). -/
def State.loseBh (s : State) (b : Nat) : State :=
  let s := s.modBh b fun x => { x with state := .off, lost := x.owner.isSome, dying := false }
  match (s.bh b).owner with
  | none => s
  | some pid =>
    let s := (s.partReset pid true).remap pid
    (match s.part? pid with
      | some p => s.request pid (5 + p.lb b <<< 8)
      | none => s).wakeHyp

/-- BULKHEAD_RESET_COMPLETE (R419 step 5, R421), by bulkhead: back to OWNED, or OFF and lost; then the partition reset. One
without an owner is scrubbed. -/
def execBulkheadResetComplete (s : State) : StepOut :=
  let b := s.ev.x
  .next (if (s.bh b).state != .reset then s
    else if (s.bh b).dying then s.loseBh b
    else
      match (s.bh b).owner with
      | some pid => (s.modBh b fun x => { x with state := .owned }).partReset pid true
      | none => (s.modBh b fun x => { x with state := .scrub }).clearBh b)

/-- RAIL_PLL_FAULT (R419, R466), by bulkhead; with the flag the rail or PLL is lost without recovery (R421). -/
def execRailPllFault (s : State) : StepOut := event (startReset s.ev.x s.ev.flag) s

/-- BULKHEAD_UNCORRECTABLE_ERROR (R419), by bulkhead; with the flag the reset cannot complete in time (R421). -/
def execBulkheadUncorrectableError (s : State) : StepOut := event (startReset s.ev.x s.ev.flag) s

/-- DISPATCHER_WATCHDOG (R419), by bulkhead; with the flag the reset cannot complete in time (R421). -/
def execDispatcherWatchdog (s : State) : StepOut := event (startReset s.ev.x s.ev.flag) s

/-- POWER_ON_COMPLETE (R420), by bulkhead. -/
def execPowerOnComplete (s : State) : StepOut :=
  let b := s.ev.x
  .next (if (s.bh b).rising then (s.modBh b fun x => { x with rising := false, state := .scrub }).clearBh b else s)

/-- SCRUB_COMPLETE (R417), by bulkhead. -/
def execScrubComplete (s : State) : StepOut :=
  let b := s.ev.x
  .next (if (s.bh b).state = .scrub then s.modBh b fun x => { x with state := .free } else s)

end Sys2Proof.Machine
end

