-- ==== Sys2Proof/Machine/Control.lean ====
section
/-! DEFINITION. Branches, jumps and hints (R94, R95, R97, R211, R212). -/

namespace Sys2Proof.Machine

/-- A branch (R211): words from its own address if the condition holds, else the next instruction. -/
def branch (a b : SReg) (o : BitVec 14) (cond : Word → Word → Bool) (s : State) : StepOut :=
  runInstr (do
    let x ← readS a
    let y ← readS b
    modMe fun t => { t with pc := if cond x y then t.pc + (o.signExtend 64 <<< 2) else t.pc + 4 }) s

/-- A jump relative to its own address with the link in sd (R212); `n` is its length. -/
def jumpLink (d : SReg) (n : Nat) (off : Word) (s : State) : StepOut :=
  runInstr (do
    let pc := (← me).pc
    writeS d (pc + wd n)
    modMe fun t => { t with pc := pc + (off <<< 2) }) s

/-- `beq`: if equal (R211). -/
def execBeq (a b : SReg) (o : BitVec 14) (s : State) : StepOut := branch a b o (fun x y => x == y) s

/-- `bne`: if different (R211). -/
def execBne (a b : SReg) (o : BitVec 14) (s : State) : StepOut := branch a b o (fun x y => x != y) s

/-- `blt`: if less, signed (R211). -/
def execBlt (a b : SReg) (o : BitVec 14) (s : State) : StepOut := branch a b o (fun x y => x.slt y) s

/-- `bge`: if at least, signed (R211). -/
def execBge (a b : SReg) (o : BitVec 14) (s : State) : StepOut := branch a b o (fun x y => y.sle x) s

/-- `bltu`: if less, unsigned (R211). -/
def execBltu (a b : SReg) (o : BitVec 14) (s : State) : StepOut := branch a b o (fun x y => x.ult y) s

/-- `bgeu`: if at least, unsigned (R211). -/
def execBgeu (a b : SReg) (o : BitVec 14) (s : State) : StepOut := branch a b o (fun x y => y.ule x) s

/-- `jal` (R212). -/
def execJal (d : SReg) (i : BitVec 19) (s : State) : StepOut := jumpLink d 4 (i.signExtend 64) s

/-- `jal.l` (R212). -/
def execJalL (d : SReg) (imm : BitVec 49) (s : State) : StepOut := jumpLink d 8 (imm.signExtend 64) s

/-- `jalr` (R76, R212): the target is read before the link is written; a target that is no multiple of 4 traps and
writes no link. -/
def execJalr (d a : SReg) (i : BitVec 14) (s : State) : StepOut :=
  runInstr (do
    let t := (← readS a) + i.signExtend 64
    if t.toNat % 4 ≠ 0 then trapAt 8 t
    writeS d ((← me).pc + 4)
    modMe fun x => { x with pc := t }) s

/-- A hint: it does nothing that a program sees (R94). -/
def execNop (_ : SReg) (s : State) : StepOut := scalar (pure ()) s

/-- `pf.l1`: the model has no cache contents that a prefetch could change (R94). -/
def execPfL1 (_ : SReg) (s : State) : StepOut := scalar (pure ()) s

/-- `pf.l2` (R94). -/
def execPfL2 (_ : SReg) (s : State) : StepOut := scalar (pure ()) s

/-- `pf.st` (R94). -/
def execPfSt (_ : SReg) (s : State) : StepOut := scalar (pure ()) s

/-- A hint of another code: a no-op (R94). -/
def execHint (_ : SReg) (_ : BitVec 19) (s : State) : StepOut := scalar (pure ()) s

/-- A two-word hint: ignored (R95). -/
def execTwoWordHint (_ : BitVec 24) (_ : BitVec 30) (s : State) : StepOut := scalar2 (pure ()) s

/-- Illegal instruction (R97, R99): TRAPVAL holds the words. -/
def execIllegalInstruction (w1 w2 : BitVec 32) (s : State) : StepOut :=
  runInstr (trapAt 1 (w1.setWidth 64 ||| (w2.setWidth 64 <<< 32))) s

/-- Illegal entry: the fetch landed on a second word (R73, R148). TRAPVAL is the pc. -/
def execIllegalEntry (s : State) : StepOut := runInstr (do trapAt 2 (← me).pc) s

/-- Fetch fault at the address and by the route that the step found (R99, R158). -/
def execFetchFault (s : State) : StepOut :=
  let route := match s.ev.x with
    | 0 => Route.sup
    | 1 => .hyp
    | 2 => .s2 (BitVec.ofNat 48 s.ev.y)
    | _ => .mon
  runInstr (trapAt 5 s.ev.v route) s

end Sys2Proof.Machine
end

