-- ==== Sys2Proof/Machine/Hash.lean ====
section
/-! DEFINITION. SHA-512, by which the device measures images and tables (R440, R443, R444, R449, R454). The spec names the
function and gives no definition of it: this is the standard's (PRESUMED, log 9). -/

namespace Sys2Proof.Machine

/-- The first 80 primes. -/
def shaPrimes : List Nat := (those 410 fun p => 1 < p && (below 19).all fun q => q + 2 ≥ p || p % (q + 2) != 0).take 80

/-- The greatest number below 2^72 whose `e`-th power is at most `x`: its bits are found from the top. -/
def rootFloor (e x : Nat) : Nat := loop 72 (fun i r => if (r + 2 ^ (71 - i)) ^ e ≤ x then r + 2 ^ (71 - i) else r) 0

/-- The first 64 bits after the point of the `e`-th root of a number. -/
def rootBits (e p : Nat) : Word := wd (rootFloor e (p <<< (64 * e)))

/-- The round constants: of the cube roots of the first 80 primes. -/
def shaConsts : List Word := shaPrimes.map (rootBits 3)

/-- The eight words of the hash. -/
structure Sha where
  a : Word
  b : Word
  c : Word
  d : Word
  e : Word
  f : Word
  g : Word
  h : Word
  deriving DecidableEq, Repr

/-- Eight words out of a list. -/
def Sha.of (l : List Word) : Sha :=
  ⟨nth l 0 0, nth l 1 0, nth l 2 0, nth l 3 0, nth l 4 0, nth l 5 0, nth l 6 0, nth l 7 0⟩

/-- The eight words as a list. -/
def Sha.list (x : Sha) : List Word := [x.a, x.b, x.c, x.d, x.e, x.f, x.g, x.h]

/-- The hash before the first block: of the square roots of the first eight primes. -/
def shaStart : Sha := Sha.of ((shaPrimes.take 8).map (rootBits 2))

/-- Exclusive or of a word's rotations. -/
def rotated (x : Word) (l : List Nat) : Word := l.foldl (fun y n => y ^^^ x.rotateRight n) 0

/-- A round: `w` is its message word, `k` its constant. -/
def Sha.round (x : Sha) (w k : Word) : Sha :=
  let choice := x.g ^^^ (x.e &&& (x.f ^^^ x.g))
  let most := (x.a &&& (x.b ||| x.c)) ||| (x.b &&& x.c)
  let carry := x.h + rotated x.e [14, 18, 41] + choice + k + w
  ⟨carry + rotated x.a [28, 34, 39] + most, x.a, x.b, x.c, x.d + carry, x.e, x.f, x.g⟩

/-- The message word that follows a window of sixteen, oldest first. -/
def nextWord (win : List Word) : Word :=
  let near := nth win 14 0
  let far := nth win 1 0
  nth win 0 0 + nth win 9 0 + (rotated far [1, 8] ^^^ (far >>> 7)) + (rotated near [19, 61] ^^^ (near >>> 6))

/-- The rounds of a block over its window of message words. -/
def Sha.rounds : List Word → List Word → Sha → Sha
  | [], _, x => x
  | k :: ks, win, x => Sha.rounds ks (win.drop 1 ++ [nextWord win]) (x.round (nth win 0 0) k)

/-- A block of 128 bytes is taken in. -/
def Sha.absorb (consts : List Word) (x : Sha) (block : List Byte) : Sha :=
  let y := Sha.rounds consts ((below 16).map fun i => wd (beNat (slice block (8 * i) 8))) x
  ⟨x.a + y.a, x.b + y.b, x.c + y.c, x.d + y.d, x.e + y.e, x.f + y.f, x.g + y.g, x.h + y.h⟩

/-- A message with its padding: a one bit, zeros, and its length in bits as 16 bytes. -/
def shaPadded (l : List Byte) : List Byte :=
  let size := (l.length + 17 + 127) / 128 * 128
  l ++ 0x80 :: List.replicate (size - l.length - 17) 0 ++ beBytes 16 (l.length * 8)

/-- The SHA-512 digest of a byte list. -/
def sha512 (l : List Byte) : List Byte :=
  let m := shaPadded l
  let x := loop (m.length / 128) (fun i x => x.absorb shaConsts (slice m (128 * i) 128)) shaStart
  x.list.flatMap fun w => beBytes 8 w.toNat

end Sys2Proof.Machine
end

