-- ==== Sys2Proof/Machine/Ecdsa.lean ====
section
/-! DEFINITION. ECDSA P-521 over SHA-512 digests (R440, R443, R449, R454): the spec names the scheme and the layout of a
signature, r then s; the curve is the standard's (PRESUMED, log 9). -/

namespace Sys2Proof.Machine

/-- The prime of the field. -/
def fieldPrime : Nat := 2 ^ 521 - 1

/-- The order of the base point. -/
def curveOrder : Nat :=
  2 ^ 521 - 0x5AE79787C40D069948033FEB708F65A2FC44A36477663B851449048E16EC79BF7

/-- The constant term of the curve y² = x³ − 3x + b. -/
def curveB : Nat :=
  0x051953EB9618E1C9A1F929A21A0B68540EEA2DA725B99B315F3B8B489918EF109E156193951EC7E937B1652C0BD3BB1BF073573DF883D2C34F1EF451FD46B503F00

/-- A point of the curve; none is the one at infinity. -/
abbrev CurvePoint := Option (Nat × Nat)

/-- The base point. -/
def basePoint : CurvePoint := some (
  0xC6858E06B70404E9CD9E3ECB662395B4429C648139053FB521F828AF606B4D3DBAA14B5E77EFE75928FE1DC127A2FFA8DE3348B3C1856A429BF97E7E31C2E5BD66,
  0x11839296A789A3BC0045C8A5FB42C7D1BD998F54449579B446817AFBD17273E662C97EE72995EF42640C550B9013FAD0761353C7086A272C24088BE94769FD16650)

/-- x^e modulo m, for e below 2^521. -/
def powMod (m x e : Nat) : Nat :=
  (loop 521 (fun i (acc : Nat × Nat) => (if bit e i then acc.1 * acc.2 % m else acc.1, acc.2 * acc.2 % m)) (1, x % m)).1

/-- The inverse modulo a prime. -/
def invMod (m x : Nat) : Nat := powMod m x (m - 2)

/-- a − b in the field, both below 2 · `fieldPrime`. -/
def fieldSub (a b : Nat) : Nat := (a + 2 * fieldPrime - b) % fieldPrime

/-- The third point on the line of slope `m` through two, mirrored. -/
def chord (m : Nat) (p q : Nat × Nat) : CurvePoint :=
  let x := fieldSub (fieldSub (m * m % fieldPrime) p.1) q.1
  some (x, fieldSub (m * fieldSub p.1 x % fieldPrime) p.2)

/-- The sum of two points. -/
def addPoints : CurvePoint → CurvePoint → CurvePoint
  | none, q => q
  | p, none => p
  | some p, some q =>
    if p.1 != q.1 then chord (fieldSub q.2 p.2 * invMod fieldPrime (fieldSub q.1 p.1) % fieldPrime) p q
    else if p.2 != q.2 || p.2 = 0 then none
    else chord (fieldSub (3 * p.1 * p.1 % fieldPrime) 3 * invMod fieldPrime (2 * p.2 % fieldPrime) % fieldPrime) p q

/-- k times a point, for k below 2^521. -/
def scalePoint (k : Nat) (p : CurvePoint) : CurvePoint :=
  (loop 521 (fun i (acc : CurvePoint × CurvePoint) =>
    (if bit k i then addPoints acc.1 acc.2 else acc.1, addPoints acc.2 acc.2)) (none, p)).1

/-- The x coordinate of a point modulo the order; 0 at infinity. -/
def pointX (p : CurvePoint) : Nat := ((p.map Prod.fst).getD 0) % curveOrder

/-- Is it a point of the curve, its coordinates in range? -/
def onCurve (p : Nat × Nat) : Bool :=
  p.1 < fieldPrime && p.2 < fieldPrime &&
  p.2 * p.2 % fieldPrime = (p.1 * p.1 % fieldPrime * p.1 + (fieldPrime - 3) * p.1 + curveB) % fieldPrime

/-- A point, or a signature, as 66 and 66 big-endian bytes (R440, R444). -/
def pairBytes (p : Nat × Nat) : List Byte := beBytes 66 p.1 ++ beBytes 66 p.2

/-- Two numbers out of 66 and 66 big-endian bytes. -/
def bytePair (l : List Byte) : Nat × Nat := (beNat (slice l 0 66), beNat (slice l 66 66))

/-- Does a signature verify over a digest under a public key? -/
def sigValid (key : Nat × Nat) (digest sig : List Byte) : Bool :=
  let (r, s) := bytePair sig
  let w := invMod curveOrder s
  let at' := addPoints (scalePoint (beNat digest * w % curveOrder) basePoint) (scalePoint (r * w % curveOrder) (some key))
  onCurve key && 0 < r && r < curveOrder && 0 < s && s < curveOrder && at'.isSome && pointX at' = r

/-- A signature over a digest by a private key, from the first nonce from `k` on that gives one. -/
def signFrom (key : Nat) (digest : List Byte) : (fuel k : Nat) → Nat × Nat
  | 0, _ => (0, 0)
  | fuel + 1, k =>
    let r := pointX (scalePoint k basePoint)
    let s := invMod curveOrder k * ((beNat digest + r * key) % curveOrder) % curveOrder
    if k % curveOrder = 0 || r = 0 || s = 0 then signFrom key digest fuel (k + 1) else (r, s)

/-- A number from 1 to the order less 1. -/
def asScalar (x : Nat) : Nat := x % (curveOrder - 1) + 1

/-- The device's private identity key, which its PUF gives (R443). -/
def idPrivate : Nat := asScalar Config.idSeed

/-- The device's public identity key. -/
def idPoint : Nat × Nat := (scalePoint idPrivate basePoint).getD (0, 0)

/-- The public identity key, x then y (R444). -/
def idPublic : List Byte := pairBytes idPoint

/-- The device's signature over a digest, with a free nonce (R440, R454). -/
def idSign (digest : List Byte) (nonce : Nat) : List Byte := pairBytes (signFrom idPrivate digest 8 (asScalar nonce))

end Sys2Proof.Machine
end

