-- ==== Sys2Proof/Machine/Monitor.lean ====
section
/-! DEFINITION. The monitor's requests (R425-R436, R449, R450), grants and windows, interrupts to the host (R460), and
attestation (R440). -/

namespace Sys2Proof.Machine

/-- The service cores: die, row, core (R444). -/
def serviceCores : List (Nat × Nat × Nat) :=
  (below 4).flatMap fun d => (below 8).flatMap fun r => (below 9).map fun k => (d, r, k)

/-- The bulkheads that the accepted configuration table enables (R444). -/
def State.bhen (s : State) : Nat := leNat (slice s.flash.table 72 4)

/-- Bytes of HYP memory, none where they lie outside it (R425, R447). -/
def State.hypBytes (s : State) (off n : Nat) : Option (List Byte) :=
  if off + n ≤ s.hypSize then some (s.bytesAt (s.hypAt off) n) else none

/-- Bytes of an image in HYP memory, none where they cannot be read (R425). -/
def State.hypImage (s : State) (off n : Nat) : Option (List Byte) :=
  if s.badAt (s.hypAt off) n then none else s.hypBytes off n

/-- An answer of the monitor: ST and DETAIL (R423, R425). -/
abbrev HmAns := Nat × Nat

/-- OK. -/
def hmOk : HmAns := (0, 0)

/-- Is it a partition RCB (R173, R176, R427)? -/
def partRcbOk (n : Nat) : Bool :=
  let e := Eff.device.narrow n
  rcbShape 1 n && bit n 3 && rcbParent n = 0 && e.semlo ≤ e.semhi

/-- The reserved bits of a CREATE block above its header (R426, R427). -/
def createReserved : List (Nat × Nat) :=
  [(96, 32), (140, 4), (149, 43), (192, 13), (240, 16), (288, 32), (320, 6), (368, 16), (384, 6), (405, 43)]

/-- The bulkheads of a mask. -/
def maskBhs (m : Nat) : List Nat := those 32 (bit m)

/-- A partition as CREATE makes it (R422, R427). -/
def newPart (pid mask w : Nat) (x : List Byte) (image : List Byte) (room : Nat) : Part where
  pid := pid
  bhmask := BitVec.ofNat 32 mask
  w := w
  fmask := BitVec.ofNat 5 (bits (dwordAt x 2) 16 5)
  s2root := wd (dwordAt x 3)
  pver := BitVec.ofNat 32 (dwordAt x 4)
  image := image
  imageAt := room
  htvec := wd (dwordAt x 7)
  rcb := BitVec.ofNat 1024 (leNat (slice x 64 128))
  create := slice x 8 184
  suphome := 0
  pta := false
  ptaWord := 0
  ptaCtx := 0
  ptactx := 0
  reqs := []
  reqLost := false
  detbase := 0
  detcnt := 0
  lqbase := 0
  xgrant := 0
  peertab := 0
  otoks := []
  sems := []
  bars := []
  parked := []
  rcbs := []
  pools := []
  queues := List.replicate 64 LQueue.closed
  last := List.replicate 8 63
  windows := []
  vfstat := 0
  vfreason := 0
  killed := false

/-- May a CREATE take a bulkhead, or wait for it (R427)? One that is reset while the request waits for it is scrubbed anew
(R441). -/
def State.takeable (s : State) (b : Nat) : Bool :=
  let x := s.bh b
  x.state = .free || x.state = .scrub || (x.state = .reset && x.owner.isNone && (s.hmReq.map Prod.fst) = some 1)

/-- CREATE (R427): none while it waits for named bulkheads that are in SCRUB. -/
def hmCreate (pid : Nat) (x : List Byte) : M (Option HmAns) := do
  let s ← get
  let n := leNat x
  if !allZero n createReserved then return some (1, 0)
  if (s.part? pid).isSome then return some (2, 0)
  let mask := bits (dwordAt x 1) 0 32
  let bhs := maskBhs mask
  match bhs.find? fun b => !s.takeable b with
  | some b => return some (3, b)
  | none => pure ()
  let w := bits (dwordAt x 2) 0 12
  let len := bits (dwordAt x 6) 6 15
  if mask = 0 || w = 0 || w % 8 ≠ 0 || 2048 < w || 64 * bhs.length % w ≠ 0 || len = 0 || 16384 < len ||
      !partRcbOk (leNat (slice x 64 128)) || !(s.policies.any fun p => p.version.toNat = bits (dwordAt x 4) 0 32) then
    return some (4, 0)
  match s.hypImage (dwordAt x 5) (64 * len), s.svcRoom (64 * len) with
  | some image, some room =>
    if !bhs.all fun b => (s.bh b).state = .free then return none
    modify fun s =>
      let s := bhs.foldl (fun s b => (s.wipe (hbmAt b 0) (2 ^ 34)).modBh b fun x => { x with
        state := .owned, owner := some pid }) s
      { s.putDev (svcAt room) image with parts := s.parts ++ [newPart pid mask w x image room] }
    return some hmOk
  | _, _ => return some (7, 0)

/-- Change every partition. -/
def State.mapParts (s : State) (f : Part → Part) : State := { s with parts := s.parts.map f }

/-- DESTROY (R429, R421). -/
def State.destroy (s : State) (p : Part) : State :=
  let s := s.landAll.mapParts fun q => { q with windows := q.windows.filter (·.exp != p.pid) }
  let s := s.kill p.pid 0 0
  let s := (maskBhs p.bhmask.toNat).foldl (fun s b =>
    if (s.bh b).lost then s.modBh b fun x => { x with lost := false, owner := none }
    else (s.clearBh b).modBh b fun x => { x with state := .scrub, owner := none, dying := false }) s
  { s with
    tlb := s.tlb.filter (·.pid != p.pid)
    parts := s.parts.filter (·.pid != p.pid)
    breached := s.breached.filter (·.1 != p.pid)
    launches := s.launches.filter (·.pid != p.pid) }

/-- BHRESET (R419, R426): the first answer is none, and the request waits until the reset that it began or joined is
complete. -/
def hmBhreset (b : Nat) : M (Option HmAns) := do
  let s ← get
  if s.hmReq = some (4, b) then
    if (s.bh b).state = .reset then stall
    return some hmOk
  match (s.bh b).state with
  | .reset => return none
  | .owned =>
    startReset b false
    return none
  | _ => return some (3, b)

/-- BHPOWER (R420, R426): the first answer of a power-on is none, and the request waits until the bulkhead has power. -/
def hmBhpower (b : Nat) (on : Bool) : M (Option HmAns) := do
  let s ← get
  if !bit s.bhen b then return some (1, 0)
  let x := s.bh b
  if s.hmReq = some (5, b) then
    if x.rising then stall
    return some hmOk
  if on then
    if x.state != .off || x.lost then return some (3, b)
    modify fun s => s.modBh b fun x => { x with rising := true }
    return none
  else if x.state != .free then return some (3, b)
  else
    modify fun s => s.modBh b fun _ => Bulkhead.dark
    return some hmOk

/-- Entry `i` of a partition's grant table (R432): `some none` where there is no valid grant, none where it cannot be read. -/
def State.grant (s : State) (p : Part) (i : Nat) : Option (Option (List Byte)) :=
  let x := p.xgrant.toNat
  if !bit x 0 then some none
  else match s.ipaBytes p (bits x 6 42 <<< 6 + 32 * i) 32 with
    | none => none
    | some l =>
      let n := leNat l
      let len := bits n 144 27
      if bit n 0 && allZero n [(2, 6), (13, 51), (64, 16), (112, 16), (128, 16), (171, 21), (192, 64)] && 1 ≤ len &&
          len ≤ 2 ^ 26 then some (some l)
      else some none

/-- Does stage 2 map `n` units of 64 KiB from an IPA onto one PMA range of region 00 from `pma`, with the permissions
(R433)? -/
def State.contiguous (s : State) (q : Part) (wr : Bool) : (n ipa pma : Nat) → Bool
  | 0, _, _ => true
  | n + 1, ipa, pma =>
    match s.stage2 q ipa with
    | .error _ => false
    | .ok l =>
      !l.refuses (if wr then .rw else .r) false && l.oa + ipa % l.size = pma && pma + 65536 ≤ 2 ^ 34 * q.nb &&
      s.contiguous q wr n (ipa + 65536) (pma + 65536)

/-- The PMA that stage 2 gives an IPA. -/
def State.pmaOf (s : State) (q : Part) (ipa : Nat) : Nat :=
  match s.stage2 q ipa with
  | .ok l => l.oa + ipa % l.size
  | .error _ => 0

/-- Are the fields of a WINOPEN's block sound (R426, R433)? -/
def winopenOk (x : List Byte) : Bool :=
  let rate := dwordAt x 2
  allZero (dwordAt x 1) [(9, 3), (17, 47)] && 64 ≤ rate && rate ≤ 1048576

/-- WINOPEN (R433). -/
def State.winopen (s : State) (p : Part) (x : List Byte) : State × HmAns :=
  let a := dwordAt x 1
  let rate := dwordAt x 2
  let win := bits a 0 4
  let exp := bits a 4 5
  let g := bits a 12 4
  let wr := bit a 16
  match s.part? exp with
  | none => (s, (5, 0))
  | some q =>
    match s.grant q g with
    | none => (s, (7, 0))
    | some none => (s, (5, 0))
    | some (some l) =>
      let n := leNat l
      let base := bits n 80 32 <<< 16
      let len := bits n 144 27
      let other := s.parts.any fun r => r.windows.any fun (w : Window) =>
        w.exp = exp && w.grant = g && !(r.pid = p.pid && w.win = win)
      if bits n 8 5 ≠ p.pid || (wr && !bit n 1) || other then (s, (5, 0))
      else
        let pma := s.pmaOf q base
        if !s.contiguous q wr len base pma then (s, (6, 0))
        else
          let w : Window := ⟨win, exp, g, wr, pma, len * 65536, rate, l⟩
          (s.landAll.modPart p.pid fun p => { p with windows := w :: p.windows.filter (·.win != win) }, hmOk)

/-- WINCLOSE (R434). -/
def State.winclose (s : State) (p : Part) (x : List Byte) : State × HmAns :=
  (s.landAll.modPart p.pid fun p => { p with windows := p.windows.filter (·.win != bits (dwordAt x 1) 0 4) }, hmOk)

/-- Does a TLB entry rest on the stage-2 page of an IPA (R431)? -/
def Tlb.restsOn (ipa : Nat) (t : Tlb) : Bool :=
  match t.what with
  | .page x => x.ipa / x.l2.size = ipa / x.l2.size
  | .table _ a => a / 65536 = ipa / 65536

/-- S2INV (R431): the entries go, and what used them has performed. -/
def State.s2inv (s : State) (p : Part) (x : List Byte) : State × HmAns :=
  (s.dropEntries p fun t => bit (dwordAt x 2) 0 || t.restsOn (dwordAt x 1), hmOk)

/-- RELOAD of a whole partition (R175, R426): every cached RCB is read anew, and no mark is left. -/
def State.reloadAll (s : State) (pid : Nat) : State :=
  match s.part? pid with
  | none => s
  | some p =>
    (p.rcbs.foldl (fun s r => s.reload pid r.ipa) s).modPart pid fun p => { p with killed := false }

/-- SETRCB (R426, R440). -/
def State.setrcb (s : State) (p : Part) (x : List Byte) : State × HmAns :=
  if !partRcbOk (leNat (slice x 64 128)) then (s, (4, 0))
  else
    ((s.modPart p.pid fun p => { p with
      rcb := BitVec.ofNat 1024 (leNat (slice x 64 128))
      create := p.create.take 56 ++ slice x 64 128 }).reloadAll p.pid, hmOk)

/-- Version of an image: the first dword of its trailer of 256 bytes (R449). -/
def imageVersion (l : List Byte) : Nat := leNat (slice l (l.length - 256) 4)

/-- Is an image signed by the firmware key (R449; log 9)? -/
def imageSigned (l : List Byte) : Bool :=
  256 ≤ l.length && sigValid Config.firmwareKey (sha512 (l.take (l.length - 132))) (l.drop (l.length - 132))

/-- The image that a MONUPD or POLADD names (R449): an answer if there is none that passes. -/
def State.newImage (s : State) (x : List Byte) : Except HmAns (List Byte) :=
  let a := dwordAt x 1
  let n := dwordAt x 2
  if !allZero a [(0, 6), (48, 16)] || !allZero n [(0, 6), (21, 43)] then .error (1, 0)
  else match s.hypImage a (bits n 6 15 * 64) with
    | none => .error (7, 0)
    | some l => if imageSigned l then .ok l else .error (4, 0)

/-- The first service core that holds a role. -/
def State.roleCore (s : State) (v : Nat) : Option CoreId :=
  (serviceCores.find? fun (d, r, k) => nth s.roles (72 * d + 9 * r + k) 0 = BitVec.ofNat 8 v).map
    fun (d, r, k) => ⟨d, nth s.scol d 9, r, k⟩

/-- A service core's strand as it starts: every register 0 (log 3). -/
def serviceStrand (uid : Nat) (owner : Owner) (pl : Level) (c : CoreId) : Strand :=
  { Strand.fresh uid owner with live := true, pl := pl, place := some (c, 0), gvl := 2048 }

/-- A new monitor image takes the old one's place in service memory, and the monitor's strand starts on it (R450; DEDUCED, log
81). -/
def State.newMonitor (s : State) (l : List Byte) : State :=
  let s := (s.putDev (svcAt 0) (List.replicate s.monImage.length 0)).putDev (svcAt 0) l
  let s := { s with
    flash := { s.flash with monitor := l, monCounter := imageVersion l }
    monImage := l }
  match s.roleCore 1 with
  | none => s
  | some c => s.mapStrands fun t =>
      if t.live && t.owner = .mon && t.place = some (c, 0) then serviceStrand t.uid .mon .mon c else t

/-- MONUPD (R449, R450): it waits for scans in progress; then the new image goes to flash and takes over. -/
def hmMonupd (x : List Byte) : M (Option HmAns) := do
  let s ← get
  match s.newImage x with
  | .error e => return some e
  | .ok l =>
    if imageVersion l ≤ imageVersion s.monImage then return some (4, 0)
    if s.svcRanges.any fun (b, m) => 0 < b && 0 < m && b < l.length then return some (7, 0)
    waitFor (!s.cores.any fun k => k.scanBy.isSome)
    set (s.newMonitor l)
    return some hmOk

/-- POLADD (R449). -/
def State.poladd (s : State) (x : List Byte) : State × HmAns :=
  match s.newImage x with
  | .error e => (s, e)
  | .ok l =>
    if (s.policies.any fun p => p.version.toNat = imageVersion l) || 16 ≤ s.policies.length then (s, (4, 0))
    else match s.svcRoom l.length with
      | none => (s, (7, 0))
      | some a => ({ s.putDev (svcAt a) l with policies := s.policies ++ [⟨BitVec.ofNat 32 (imageVersion l), l, a⟩] }, hmOk)

/-- POLDEL (R449). -/
def State.poldel (s : State) (x : List Byte) : State × HmAns :=
  let v := dwordAt x 1
  if v / 2 ^ 32 ≠ 0 then (s, (1, 0))
  else if (s.parts.any fun p => p.pver.toNat = v) || !(s.policies.any fun p => p.version.toNat = v) then (s, (4, 0))
  else ({ s with policies := s.policies.filter fun p => p.version.toNat != v }, hmOk)

/-- An answer computed from the state. -/
def answer (f : State → State × HmAns) : M (Option HmAns) := do
  let (s, a) := f (← get)
  set s
  return some a

/-- A request for a partition in use (R425). -/
def forPart (pid : Nat) (f : Part → M (Option HmAns)) : M (Option HmAns) := do
  match (← get).part? pid with
  | some p => f p
  | none => return some (2, 0)

/-- Are the bytes of a 64-byte block from `i` 0 (R426)? -/
def restZero (x : List Byte) (i : Nat) : Bool := (slice x i (64 - i)).all (· == 0)

/-- A block's OP, its bytes, and its PID: none if it is not in HYP memory (R425, R426). -/
def State.reqBlock (s : State) (a : Nat) : Option (Nat × List Byte × Nat) :=
  match s.hypBytes a 64 with
  | none => none
  | some x =>
    let op := bits (dwordAt x 0) 0 8
    (s.hypBytes a (if op = 1 || op = 9 then 192 else 64)).map fun x => (op, x, bits (dwordAt x 0) 8 5)

/-- Perform a request (R426, R449); none: it goes on. The statuses are tried in the order of their codes (R427). -/
def hmPerform (op : Nat) (x : List Byte) (pid : Nat) : M (Option HmAns) := do
  let b := bits (dwordAt x 1) 0 5
  if bits (dwordAt x 0) 13 51 ≠ 0 then return some (1, 0)
  match op with
  | 1 => hmCreate pid x
  | 2 => if restZero x 8 then forPart pid fun p => answer fun s => (s.destroy p, hmOk) else return some (1, 0)
  | 3 => if restZero x 8 then forPart pid fun p => answer fun s => (s.partReset p.pid true, hmOk) else return some (1, 0)
  | 4 => if pid = 0 && restZero x 16 && dwordAt x 1 < 32 then hmBhreset b else return some (1, 0)
  | 5 =>
    if pid = 0 && restZero x 16 && allZero (dwordAt x 1) [(5, 3), (9, 55)] then hmBhpower b (bit (dwordAt x 1) 8)
    else return some (1, 0)
  | 6 => if restZero x 24 && winopenOk x then forPart pid fun p => answer fun s => s.winopen p x else return some (1, 0)
  | 7 => if restZero x 16 && dwordAt x 1 < 16 then forPart pid fun p => answer fun s => s.winclose p x else return some (1, 0)
  | 8 => if restZero x 24 && dwordAt x 2 < 2 then forPart pid fun p => answer fun s => s.s2inv p x else return some (1, 0)
  | 9 => if (slice x 8 56).all (· == 0) then forPart pid fun p => answer fun s => s.setrcb p x else return some (1, 0)
  | 10 => if pid = 0 && restZero x 24 then hmMonupd x else return some (1, 0)
  | 11 => if pid = 0 && restZero x 24 then answer fun s => s.poladd x else return some (1, 0)
  | 12 => if pid = 0 && restZero x 16 then answer fun s => s.poldel x else return some (1, 0)
  | _ => return some (1, 0)

/-- A request block in HYP memory (R425): the status goes to HMSTAT; a request that is not complete waits. `only`: a block
with another OP does nothing. -/
def hmRequest (only : Option Nat) (a : Nat) : M Unit := do
  fenceAll
  let done := fun (r : HmAns) => do
    modMe fun t => { t with hmStat := BitVec.ofNat 8 r.1, hmDetail := BitVec.ofNat 8 r.2 }
    modify fun s => { s with hmReq := none }
  match (← get).reqBlock a with
  | none => waitFor only.isNone; done (1, 0)
  | some (op, x, pid) =>
    waitFor (only.isNone || only = some op)
    match ← hmPerform op x pid with
    | some r => done r
    | none =>
      modify fun s => { s with hmReq := some (op, bits (dwordAt x 1) 0 5) }
      stallKeep

/-- `putc` of XGRANT (R432): windows onto grants that are now invalid or changed are closed. -/
def putXgrant (p : Part) (v : Word) : M Unit := do
  fenceAll
  modify fun s =>
    let s := s.landAll.modPart p.pid fun p => { p with xgrant := wd (bits v.toNat 0 1 + bits v.toNat 6 42 <<< 6) }
    match s.part? p.pid with
    | none => s
    | some p =>
      let keep := fun (w : Window) => w.exp != p.pid || s.grant p w.grant = some (some w.grantData)
      s.mapParts fun q => { q with windows := q.windows.filter keep }

/-- `putc` of VFIRQ (R460): a vector that the host has not enabled is dropped. -/
def putVfirq (p : Part) (v : Word) : M Unit := do
  fenceAll
  let vec := bits v.toNat 0 5
  if Config.irqEnabled p.pid vec then modify fun s => { s with outs := s.outs ++ [.irq p.pid vec] }

/-- A window entry of an attestation report (R440). -/
def winEntry (exported : Bool) (other : Nat) (w : Window) : List Byte :=
  leBytes 8 (1 + (if exported then 2 else 0) + (if w.wr then 4 else 0) + other <<< 3 + w.win <<< 8 +
    (if exported then w.grant <<< 12 else 0) + (w.len / 65536) <<< 16)

/-- The window entries of a report, in order (R440). -/
def State.winEntries (s : State) (p : Part) : List (List Byte) :=
  let imported := (sortBy (fun (a b : Window) => decide (a.win ≤ b.win)) p.windows).map fun w => winEntry false w.exp w
  let exported := s.parts.flatMap fun q => (q.windows.filter (·.exp == p.pid)).map fun w => (q.pid, w)
  imported ++ (sortBy (fun (a b : Nat × Window) => decide (a.2.grant ≤ b.2.grant)) exported).map
    fun (pid, w) => winEntry true pid w

/-- Bytes 0-663 of a report (R440). -/
def State.report (s : State) (p : Part) (nonce : List Byte) : List Byte :=
  let wins := s.winEntries p
  let policy := ((s.policies.find? fun x => x.version = p.pver).map (·.image)).getD []
  leBytes 8 (1 + p.pid <<< 8 + p.nb <<< 16 + p.pver.toNat <<< 32) ++
  leBytes 8 p.bhmask.toNat ++
  leBytes 8 (p.w + p.fmask.toNat <<< 16 + wins.length <<< 24) ++
  nonce ++ sha512 s.monImage ++ sha512 policy ++ sha512 p.image ++ sha512 p.create ++ sha512 idPublic ++
  slice wins.flatten 0 256

/-- `putc` of ATTEST (R440): the signature is the device's (log 9). -/
def putAttest (p : Part) (v : Word) : M Unit := do
  fenceAll
  let buf := bits v.toNat 6 42 <<< 6
  let s ← get
  match s.unmapped p buf 1024 with
  | some a => trapAt 7 (wd a)
  | none =>
    match s.ipaBytes p (buf + 24) 64 with
    | none => trapAt 7 (wd (buf + 24))
    | some nonce =>
      let body := s.report p nonce
      let sig := idSign (sha512 body) (← free)
      modify fun s => (s.putIpa p buf (body ++ sig ++ List.replicate 228 0)).1

end Sys2Proof.Machine
end

