-- ==== Sys2Proof/Machine/Service.lean ====
section
/-! DEFINITION. The service column: boot (R443-R445), role faults (R448), firewall registers (R447), withdrawal and removal
of cores (R451-R454). -/

namespace Sys2Proof.Machine

/-- A CLUS entry of a table (R444). -/
def tabClus (t : List Byte) (i : Nat) : Nat := leNat (slice t (80 + 2 * i) 2)
/-- A ROLE byte of a table (R444). -/
def tabRole (t : List Byte) (i : Nat) : Nat := leNat (slice t (656 + i) 1)
/-- The service column of a die (R444). -/
def tabScol (t : List Byte) (d : Nat) : Nat := bits (leNat (slice t 76 4)) (4 * d) 4
/-- VERSION of a table (R444). -/
def tableVersion (t : List Byte) : Nat := bits (dwordAt t 0) 32 32

/-- The cores of a cluster that a CLUS entry enables. -/
def clusEnabled (e : Nat) : List Nat := those 9 fun k => !bit e k

/-- Is the CLUS entry of a cluster of an enabled bulkhead good (R445)? -/
def clusOk (e : Nat) : Bool :=
  let on := clusEnabled e
  if on.length = 9 then bits e 9 4 < 9 else on.length = 8 && bits e 9 4 = 15

/-- How many service cores of a table hold a role byte on a die. -/
def roleCount (t : List Byte) (dies : List Nat) (v : Nat) : Nat :=
  (serviceCores.filter fun (d, r, k) => dies.contains d && tabRole t (72 * d + 9 * r + k) = v).length

/-- Are the roles of a table held in the counts given (R445)? -/
def rolesOk (t : List Byte) : Bool :=
  let bhen := leNat (slice t 72 4)
  let all := [0, 1, 2, 3]
  (serviceCores.all fun (d, r, k) =>
    let v := tabRole t (72 * d + 9 * r + k)
    bits v 0 4 < 6 && (bits v 0 4 = 3 || v / 16 = 0) && v / 16 < 8 &&
    (v = 0 || !bit (tabClus t (72 * d + 8 * tabScol t d + r)) k)) &&
  roleCount t all 1 = 1 && roleCount t all 2 = 1 && roleCount t all 4 = 1 &&
  (all.all fun d => roleCount t [d] 5 = 1) &&
  all.all fun d => (below 8).all fun j => roleCount t [d] (3 + 16 * j) = (if bit bhen (8 * d + j) then 1 else 0)

/-- Does a table pass step 4 of the boot (R445)? -/
def tableOk (t : List Byte) : Bool :=
  let bhen := leNat (slice t 72 4)
  bits (dwordAt t 0) 16 16 = 0 && (slice t 944 80).all (· == 0) && (slice t 1156 124).all (· == 0) &&
  ((below 4).all fun d => tabScol t d ≤ 8) && bits (leNat (slice t 76 4)) 16 16 = 0 &&
  ((below 288).all fun i => tabClus t i / 2 ^ 13 = 0) &&
  ((below 4).all fun d => (below 9).all fun c => (below 8).all fun r =>
    let sc := tabScol t d
    c = sc || !bit bhen (8 * d + (if c < sc then c else c - 1)) || clusOk (tabClus t (72 * d + 8 * c + r))) &&
  rolesOk t

/-- Is the table signed, and made for this device (R443 step 2)? -/
def tableSigned (t : List Byte) : Bool :=
  t.length = 1280 && bits (dwordAt t 0) 0 16 = 1 && sigValid Config.tableKey (sha512 (t.take 1024)) (slice t 1024 132) &&
  slice t 8 64 = sha512 idPublic

/-- The bytes of a field-removal record that its signature covers (R454). -/
def Removal.bytes (r : Removal) : List Byte :=
  leBytes 2 (r.core.die + r.core.col <<< 2 + r.core.row <<< 6 + r.core.core <<< 9) ++ leBytes 1 r.pat ++ leBytes 4 r.sig.toNat ++
  leBytes 8 r.time.toNat ++ leBytes 4 r.version

/-- Index of the CLUS entry of a core (R444). -/
def clusIndex (c : CoreId) : Nat := 72 * c.die + 8 * c.col + c.row

/-- A core leaves the maps, and its cluster has no spare any more (R42, R452, R454). -/
def State.takeCore (s : State) (c : CoreId) : State :=
  let e := s.clusOf c
  { s with
    subs := s.subs ++ [(c, if bits e 9 4 = 15 then none else some (bits e 9 4))]
    clus := s.clus.set (clusIndex c) (BitVec.ofNat 16 (e % 512 + 15 * 512)) }

/-- A record of the log takes effect at boot (R454). -/
def State.applyRemoval (s : State) (r : Removal) : State :=
  if r.version != s.tabVersion then s
  else
    let s := s.takeCore r.core
    let e := s.clusOf r.core
    { s.modCtl r.core (fun k => { k with removed := true, wd := false }) with
      clus := s.clus.set (clusIndex r.core) (BitVec.ofNat 16 (if bit e r.core.core then e else e + 2 ^ r.core.core)) }

/-- What a device reset leaves: the flash, and host memory, which is not the device's. -/
def State.afterReset (s : State) : State :=
  { State.reset with
    agenda := []
    tick := s.tick, draw := s.draw, nextId := s.nextId + 1, outs := s.outs, flash := s.flash
    me := Strand.fresh s.nextId .mon
    mem := s.mem.filter fun c => 2 ^ 47 ≤ c.1 }

/-- A boot that stops at a failure (R443): no service core runs; rails are up and gates closed, of every bulkhead, since no table
says which are enabled (DESIGN CHOICE, log 82). -/
def State.bootFails (s : State) (code : Nat) : State :=
  { s with
    bootst := BitVec.ofNat 4 code
    roles := []
    bhs := s.bhs.map fun x => { x with state := .free } }

/-- The steps of the boot controller (R443). -/
def State.boot (s : State) : State :=
  let t := s.flash.table
  let m := s.flash.monitor
  if !Config.pufWorks then s.bootFails 6
  else if !tableSigned t then s.bootFails 2
  else if tableVersion t < s.flash.counter then s.bootFails 4
  else
    let s := { s with flash := { s.flash with counter := tableVersion t } }
    if !tableOk t then s.bootFails 5
    else if !imageSigned m || imageVersion m < s.flash.monCounter then s.bootFails 3
    else
      let s := { s with
        monImage := m
        mem := Mem.writeL s.mem (svcAt 0) m
        clus := (below 288).map fun i => BitVec.ofNat 16 (tabClus t i)
        roles := (below 288).map fun i => BitVec.ofNat 8 (tabRole t i)
        scol := (below 4).map (tabScol t)
        tabVersion := tableVersion t }
      if !(s.flash.removals.all fun r => sigValid idPoint (sha512 r.bytes) r.mac) then s.bootFails 2
      else
        let s := s.flash.removals.foldl State.applyRemoval s
        let s := (maskBhs s.bhen).foldl (fun s b => s.modBh b fun x => { x with state := .free }) s
        match s.roleCore 1 with
        | none => s.bootFails 5
        | some c => { s with
          me := serviceStrand s.nextId .mon .mon c
          slots := [⟨c, 0, s.nextId⟩]
          nextId := s.nextId + 1 }

/-- A device reset, and the boot that follows (R443). -/
def State.resetDevice (s : State) : State := s.afterReset.boot

/-- DEVICE_RESET (R443). -/
def execDeviceReset (s : State) : StepOut := .next s.resetDevice

/-- Start a strand on a service core: the vector state of its slot is its own. -/
def State.startService (s : State) (owner : Owner) (pl : Level) (c : CoreId) : State :=
  { s with
    others := s.others ++ [serviceStrand s.nextId owner pl c]
    slots := ⟨c, 0, s.nextId⟩ :: s.slots
    nextId := s.nextId + 1 }

/-- The monitor has started: BOOTST reads READY, and the hypervisor strand and the test orchestrators start (R424, R443,
R447, R451; log 3). -/
def State.ready (s : State) : State :=
  let hyp := match s.roleCore 2 with
    | some c => s.startService .hyp .hyp c
    | none => s
  let orch := serviceCores.filter fun (d, r, k) => nth s.roles (72 * d + 9 * r + k) 0 = 5
  let s := orch.foldl (fun s (d, r, k) => s.startService .mon .mon ⟨d, nth s.scol d 9, r, k⟩) hyp
  { s with bootst := 1 }

/-- A spare service core of a die, if there is one: the choice is free. -/
def spareService (die : Nat) : M (Option Nat) := do
  let s ← get
  let l := (below 72).filter fun i => nth s.roles (72 * die + i) 15 = 0 &&
    !bit (s.clusOf ⟨die, nth s.scol die 9, i / 9, i % 9⟩) (i % 9)
  return l[← freeBelow l.length]?

/-- The strands of a service core end with it. -/
def State.dropService (s : State) (c : CoreId) : State :=
  ((s.strands.filter fun t => t.live && t.place.map (·.1) = some c).map (·.uid)).foldl State.removeStrand s

/-- SERVICE_CORE_ERROR (R448), by the index of the service core in ROLE. -/
def execServiceCoreError (s : State) : StepOut :=
  event (do
    let i := s.ev.x
    let die := i / 72
    let v := (nth s.roles i 15).toNat
    let c : CoreId := ⟨die, nth s.scol die 9, i % 72 / 9, i % 9⟩
    match v % 16 with
    | 0 => modify fun s => { s with roles := s.roles.set i 15 }
    | 3 =>
      let spare ← spareService die
      modify fun s =>
        let l := match spare with
          | some k => s.roles.set (72 * die + k) (BitVec.ofNat 8 v)
          | none => s.roles
        { s with roles := l.set i 15 }
      startReset (8 * die + v / 16) spare.isNone
    | 5 =>
      let spare ← spareService die
      modify fun s =>
        let gone := s.strands.filter fun t => t.place.map (·.1) = some c
        let free := fun (k : CoreCtl) =>
          if gone.any fun t => k.scanBy = some t.uid then { k with scanBy := none } else k
        let s := { s with cores := s.cores.map free }
        let s := s.dropService c
        let l := match spare with
          | some k => s.roles.set (72 * die + k) 5
          | none => s.roles
        let s := { s with roles := l.set i 15 }
        match spare with
        | some k => if s.bootst = 1 then s.startService .mon .mon ⟨die, nth s.scol die 9, k / 9, k % 9⟩ else s
        | none => s
    | 15 => pure ()
    | _ => modify State.resetDevice) s

/-- `putc` of FWCTL (R447): ignored once LOCK is 1; the LOCK that the monitor sets makes BOOTST read READY (R443). -/
def putFwctl (v : Word) : M Unit := modify fun s =>
  if s.fwlock then s
  else
    let s := { s with pfen := bit v.toNat 0, fwlock := bit v.toNat 1 }
    if s.fwlock && s.bootst = 0 then s.ready else s

/-- `putc` of FWHYP (R447): ignored once LOCK is 1. -/
def putFwhyp (v : Word) : M Unit := modify fun s =>
  if s.fwlock then s else { s with fwbase := BitVec.ofNat 11 v.toNat, fwsize := BitVec.ofNat 11 (v.toNat >>> 16) }

/-- A core of a bulkhead that a TESTORCH core may name (R451). -/
def State.cwTargetOk (s : State) (c : CoreId) (v : Nat) : Bool :=
  bits v 13 3 = 0 && bits v 19 1 = 0 && bits v 22 42 = 0 && c.col ≤ 8 && c.core ≤ 8 &&
  s.me.place.map (·.1.die) = some c.die && (s.coreBh c).isSome && !bit (s.clusOf c) c.core && !(s.ctl c).removed

/-- The log record of a removal (R454). -/
def State.removal (s : State) (c : CoreId) (nonce : Nat) : Removal :=
  let k := s.ctl c
  let r : Removal := ⟨c, k.pat, k.sig, s.time, s.tabVersion, []⟩
  { r with mac := idSign (sha512 r.bytes) nonce }

/-- REMOVE (R452, R454). -/
def removeCore (c : CoreId) : M Unit := do
  let n ← free
  modify fun s =>
    let r := s.removal c n
    let s := (s.takeCore c).modCtl c fun k => { k with wd := false, removed := true }
    let s := s.parts.foldl (fun s p => p.rcbs.foldl (fun s r => s.rewriteMap p r) s) s
    let s := (s.parts.map (·.pid)).foldl State.remap s
    { s with
      flash := { s.flash with removals := s.flash.removals ++ [r] } }

/-- `putc` of CWDRAW (R451, R452). `only`: another OP does nothing. -/
def putCwdraw (only : Option Nat) (v : Word) : M Unit := do
  let x := v.toNat
  let op := bits x 20 2
  waitFor (only.isNone || only = some op)
  let c := physCore x
  let s ← get
  let k := s.ctl c
  let scan := k.scanBy.isSome
  let res : Nat ← if !s.cwTargetOk c x then pure 1
    else match op with
      | 0 => do
        modify fun s => s.modCtl c fun k => { k with wd := true, aprio := BitVec.ofNat 3 (bits x 16 3) }
        pure 0
      | 1 =>
        if scan then pure 3
        else do
          modify fun s => s.modCtl c fun k => { k with wd := false }
          pure 0
      | 2 =>
        if scan then pure 3
        else if !k.wd || !s.drained c then pure 2
        else do
          removeCore c
          pure 0
      | _ => pure (s.me.cwRes.toNat)
  modMe fun t => { t with cwTarget := some c, cwRes := BitVec.ofNat 3 res }

/-- CWSTAT of the executing strand (R451): all 0 before its first CWDRAW. -/
def State.cwstat (s : State) : Nat :=
  match s.me.cwTarget with
  | none => 0
  | some c =>
    let k := s.ctl c
    (if k.wd then 1 + (if s.drained c then 2 else 0) + k.aprio.toNat <<< 8 else 0) +
    (if k.scanBy.isSome then 4 else 0) + (if k.removed then 8 else 0) + s.me.cwRes.toNat <<< 16

end Sys2Proof.Machine
end

