-- ==== Sys2Proof/Machine/Host.lean ====
section
/-! DEFINITION. What comes from outside (R456-R462): host accesses to the functions, doorbells, supervisor launches, inbound
puts of peers, and the loss of a link. -/

namespace Sys2Proof.Machine

/-- Something leaves the device. -/
def State.emit (s : State) (o : Out) : State := { s with outs := s.outs ++ [o] }

/-- An access of the host to its places: a read gives data, a write takes the bytes (R459). -/
def State.hostMove (s : State) (l : List (Nat × Nat)) (write : Bool) (data : List Byte) : State :=
  if write then
    (l.foldl (fun (x : State × List Byte) (a, k) => (x.1.putDev a (x.2.take k), x.2.drop k)) (s, data)).1
  else
    let s := l.foldl (fun s (a, k) => s.touch a k) s
    s.emit (.data (l.flatMap fun (a, k) => s.bytesAt a k))

/-- The addresses of `n` bytes from an IPA in region 00; none if a piece does not translate or lies elsewhere (R459), or beyond the
48 bits of an IPA (R116, R456). -/
def State.hostPlaces (s : State) (p : Part) (ipa n : Nat) (acc : Acc) : Option (List (Nat × Nat)) :=
  if 2 ^ 48 < ipa + n then none
  else (rangeOf ipa n).mapM fun (a, k) =>
    match s.ipaPlace p a acc with
    | .ok pl => if pl.kind = .pma then some (pl.addr, k) else none
    | .error _ => none

/-- Where the IPA window of a virtual function and the HYP window of the physical function start (R457). -/
def hostWindow : Nat := 2 ^ 32

/-- VFDOOR (R457): a write of LQDOOR for the partition; a disabled function does not answer (R456). -/
def State.vfDoor (s : State) (pid v : Nat) : State :=
  if (s.part? pid).isSome then s.doorbell pid (bits v 0 6) else s.emit .unsupported

/-- VFSTAT and the launch of a supervisor record that is refused (R185, R458). -/
def State.supRefused (s : State) (pid reason : Nat) : State :=
  s.modPart pid fun p => { p with vfstat := 2, vfreason := BitVec.ofNat 8 reason }

/-- The launch that a supervisor record makes (R458, R468). -/
def State.supLaunch (s : State) (p : Part) (r : BitVec 512) (stat : LStat) : State × Option Launch :=
  match s.nameRcb p.pid (recRcb r) with
  | (s, some (q, c)) =>
    let wins := (s.readWindows p c .sup r).getD []
    let l := mkLaunch s.nextId p.pid none 0 r wins c.ipa q.ipa .sup stat
    ({ s with nextId := s.nextId + 1 }, some l)
  | (s, none) => (s, none)

/-- VFSUP with GO = 1 (R458). -/
def State.vfSup (s : State) (p : Part) (ipa : Nat) : State :=
  if s.strands.any fun t => t.live && t.owner.pid? = some p.pid then
    s.modPart p.pid fun p => { p with vfstat := 3, vfreason := 0 }
  else match s.ipaNat p ipa 64 with
    | none => s.supRefused p.pid 0x0B
    | some n =>
      let r := BitVec.ofNat 512 n
      let why := if recFence r then 1 else s.reason p .sup r
      if why != 0 then
        let s := s.supRefused p.pid why
        match s.supLaunch p r .final with
        | (s, some l) => s.cwOrRequest l fun _ => cwWord 3 0 why 0
        | (s, none) => s.request p.pid 1
      else
        match s.supLaunch p r .waiting with
        | (s, some l) =>
          { (s.modPart p.pid fun p => { p with vfstat := 1, vfreason := 0 }) with launches := s.launches ++ [l] }
        | (s, none) => s

/-- A write of VFSUP (R457, R458). -/
def State.vfSupWrite (s : State) (pid v : Nat) : State :=
  match s.part? pid with
  | none => s.emit .unsupported
  | some p => if bit v 0 then s.vfSup p (bits v 6 42 <<< 6) else s

/-- An access to the register space or the IPA window of a virtual function (R456, R457, R459). -/
def State.vfAccess (s : State) (pid off n : Nat) (write : Bool) (data : List Byte) : State :=
  match s.part? pid with
  | none => s.emit .unsupported
  | some p =>
    if hostWindow ≤ off then
      match s.hostPlaces p (off - hostWindow) (if write then data.length else n) (if write then .w else .r) with
      | some l => s.hostMove l write data
      | none => s.emit .unsupported
    else match off, write with
      | 0, true => s.vfDoor pid (leNat data)
      | 8, true => s.vfSupWrite pid (leNat data)
      | 16, true => s
      | 0, false => s.emit (.data (leBytes 8 0))
      | 8, false => s.emit (.data (leBytes 8 0))
      | 16, false => s.emit (.data (leBytes 8 (p.vfstat.toNat + p.vfreason.toNat <<< 8)))
      | _, _ => s.emit .unsupported

/-- HOST_IPA_ACCESS (R459): virtual function `x`, offset `v`; with the flag a write of `data`, else a read of `z` bytes. -/
def execHostIpaAccess (s : State) : StepOut := .next (s.vfAccess s.ev.x s.ev.v.toNat s.ev.z s.ev.flag s.ev.data)

/-- A flit of the physical function that the firewall drops (R447). -/
def State.dropFlit (s : State) : State :=
  { s with fwdrop := if s.fwdrop = BitVec.allOnes 32 then s.fwdrop else s.fwdrop + 1 }.emit .unsupported

/-- The value of PFDOOR goes to offset 0 of HYP memory, and `idle` on the hypervisor strand ends (R457); the firewall drops it where
the physical function may not reach HYP memory (R447). -/
def State.pfDoor (s : State) (v : Nat) : State :=
  if s.pfen && 8 ≤ s.hypSize then (s.putDev (s.hypAt 0) (leBytes 8 v)).wakeHyp else s.dropFlit

/-- An access to the register space of the physical function or to HYP memory (R447, R456, R457). -/
def State.pfAccess (s : State) (off n : Nat) (write : Bool) (data : List Byte) : State :=
  if hostWindow ≤ off then
    let a := off - hostWindow
    let k := if write then data.length else n
    if s.pfen && a + k ≤ s.hypSize then s.hostMove [(s.hypAt a, k)] write data else s.dropFlit
  else match off, write with
    | 0, true => s
    | 8, true => s.pfDoor (leNat data)
    | 16, true => { s with slid := BitVec.ofNat 16 (leNat data) }
    | 0, false => s.emit (.data (leBytes 8 s.bootst.toNat))
    | 8, false => s.emit (.data (leBytes 8 0))
    | 16, false => s.emit (.data (leBytes 8 s.slid.toNat))
    | _, _ => s.emit .unsupported

/-- PF_HYP_ACCESS (R457): offset `v`; with the flag a write of `data`, else a read of `z` bytes. -/
def execPfHypAccess (s : State) : StepOut := .next (s.pfAccess s.ev.v.toNat s.ev.z s.ev.flag s.ev.data)

/-- PFDOOR (R457): a write of `v`. -/
def execPfdoor (s : State) : StepOut := .next (s.pfDoor s.ev.v.toNat)

/-- VFDOOR (R457): a write of `v` through virtual function `x`. -/
def execVfdoor (s : State) : StepOut := .next (s.vfDoor s.ev.x s.ev.v.toNat)

/-- VFSUP (R458): a write of `v` through virtual function `x`. -/
def execVfsup (s : State) : StepOut := .next (s.vfSupWrite s.ev.x s.ev.v.toNat)

/-- The entry that an inbound put matches (R462): IN, DEV and RPID naming the sender, and ADD for a put-add. -/
def State.inbound (s : State) (p : Part) (dev rpid : Nat) (add : Bool) : Option Peer :=
  ((below 64).filterMap (s.peer p)).find? fun e => e.inb && e.dev.toNat = dev && e.rpid = rpid && (!add || e.add)

/-- The call in whose place an inbound put is translated (R462): the matched table, at APP, by the TLBs of the partition's first cluster
(DESIGN CHOICE, log 24). -/
def inboundCall (p : Part) (e : Peer) : Call where
  id := 0
  uid := 0
  slot := 0
  seq := 0
  pid := p.pid
  ctx := 0
  rcb := 0
  lid := 0
  kind := 1
  queue := 1
  index := 0
  eng := 8 * p.bh 0
  record := 0
  regs := []
  vl := 0
  act := 0
  rets := []
  rk := none
  peer := none
  prio := 0
  asid := e.asid
  ptbase := e.ptbase
  level := .app
  started := true
  moved := 0
  todo := []
  held := []
  grans := []
  rows := []
  pos := 0
  flags := 0
  suspensions := 0
  suspended := false

/-- The bytes of an inbound put are written, or added (R348, R462). -/
def inboundBody (c : Call) (add : Bool) (aop b dst : Nat) (data : List Byte) : E Unit := do
  for i in below (data.length / b) do
    let va := addr64 (dst + i * b : Nat)
    let x := slice data (i * b) b
    if add then addElement 0 aop b va (← operand c (wd va) .rw) (leNat x)
    else writeOp c va x

/-- The code that an inbound put answers: 0x17 for a NACK, 0x1A for a refused element, else 0x16 (R349, R462). -/
def inboundCode (code : Nat) : Nat := if code = 0x17 || code = 0x1A then code else 0x16

/-- INBOUND_PUT (R462): for partition `x`, from device `y`; `z` holds the sending partition, the element size and the
operation; `v` is DST, the flag says put-add. -/
def execInboundPut (s : State) : StepOut :=
  let e := s.ev
  .next (match s.part? e.x with
    | none => s.emit (.answer 0x17)
    | some p =>
      match s.inbound p e.y (bits e.z 0 5) e.flag with
      | none => s.emit (.answer 0x17)
      | some peer =>
        match (inboundBody (inboundCall p peer) e.flag (bits e.z 7 3) (2 ^ bits e.z 5 2) e.v.toNat e.data).run s with
        | .ok _ s' => s'.emit (.answer 0)
        | .error f s' => s'.emit (.answer (inboundCode f.code)))

/-- LINK_LOSS (R462): every call in flight to device `x` ends 0x17 at an element that has not been written; what has arrived stays. -/
def execLinkLoss (s : State) : StepOut :=
  let flying := s.calls.filter fun c => c.kind = 1 && c.started && (c.peer.map (·.1)) = some s.ev.x
  .next (flying.foldl (fun s c =>
    let left := c.todo ++ c.held.map Prod.fst
    s.callFault c 0x17 ((tjob c.record.toNat).dstOf (nth left (Config.free s.tick 1 % left.length) 0))) s)

end Sys2Proof.Machine
end

