-- ==== Sys2Proof/Machine/CtlRegs.lean ====
section
/-! DEFINITION. Control registers (R59, R85, R136, R141, R144-R146, R154, R168, R175, R180, R213, R235, R249, R316, R421,
R423, R432, R440, R447, R451, R460, R461, R467): who may access each, what a read gives, what a write does. -/

namespace Sys2Proof.Machine

/-- A field of a trap bank by its place in 0x201-0x206 (R146); `none` reads it. -/
def Bank.get (b : Bank) (k : Nat) : Word :=
  match k with
  | 1 => b.pc
  | 2 => b.cause
  | 3 => b.val
  | 4 => b.vec
  | 5 => b.vpc
  | _ => b.ipa.setWidth 64

/-- Write a field of a trap bank; reserved bits are not stored (R7, R144, R146). -/
def Bank.put (b : Bank) (k : Nat) (v : Word) : Bank :=
  match k with
  | 1 => { b with pc := v }
  | 2 => { b with cause := v &&& causeMask }
  | 3 => { b with val := v }
  | 4 => { b with vec := v &&& vecMask }
  | 5 => { b with vpc := v }
  | _ => { b with ipa := v.setWidth 48 }

/-- The trap bank and field that a number names: 0x001-0x004 the bank of the current level (R144, R146). -/
def bankReg (pl : Level) (c : Nat) : Option (Level × Nat) :=
  if 1 ≤ c && c ≤ 4 then some (pl, c)
  else if 0x101 ≤ c && c ≤ 0x105 then some (.sup, c - 0x100)
  else if 0x201 ≤ c && c ≤ 0x206 then some (.hyp, c - 0x200)
  else if 0x301 ≤ c && c ≤ 0x306 then some (.mon, c - 0x300)
  else none

/-- The lowest levels that may read and write a register (R145, R213): none for a number that nothing defines (R85). A write
of a register whose fields are all RO is ignored at any level that may read it. -/
def regLevels (c : Nat) : Option (Level × Level) :=
  if [0x000, 0x010, 0x012, 0x013].contains c then some (.app, .sup)
  else if [0x011, 0x020, 0x021, 0x030, 0x031, 0x040, 0x041, 0x042, 0x043, 0x044, 0x048, 0x050, 0x051, 0x070].contains c then
    some (.app, .app)
  else if (1 ≤ c && c ≤ 4) || c = 0x060 || c = 0x061 || (0x101 ≤ c && c ≤ 0x10B) || (0x110 ≤ c && c ≤ 0x118) then
    some (.sup, .sup)
  else if (0x201 ≤ c && c ≤ 0x206) || (0x210 ≤ c && c ≤ 0x214) || c = 0x220 then some (.hyp, .hyp)
  else if (0x301 ≤ c && c ≤ 0x306) || c = 0x320 || c = 0x321 || (0x330 ≤ c && c ≤ 0x332) then some (.mon, .mon)
  else none

/-- The registers that hold one value per partition and are illegal without one (R467). -/
def partReg (c : Nat) : Bool := c = 0x10A || c = 0x10B || (0x110 ≤ c && c ≤ 0x118)

/-- The registers that the hypervisor strand alone has (R421, R423). -/
def hypReg (c : Nat) : Bool := c = 0x210 || c = 0x211 || c = 0x214

/-- The checks of an access (R85, R145, R213, R423, R467). -/
def regCheck (i : Instr) (c : Nat) (write : Bool) : M Unit := do
  let t ← me
  match regLevels c with
  | none => illegal i
  | some (r, w) =>
    if partReg c && t.owner.pid?.isNone then illegal i
    if t.pl.num < (if write then w else r).num then trapAt 4 (Instr.words i)
    if hypReg c && t.owner != .hyp then trapAt 4 (Instr.words i)

/-- Wait until the strand's vector queue is empty or held; the strand then takes over the vector state of its slot (R145,
R165). -/
def queueWait : M Unit := do
  let t ← me
  waitFor (t.vheld || t.vq.isEmpty)
  takeVector

/-- The waits of a read (R145, R297). -/
def getWait (c : Nat) : M Unit := do
  if c = 0x012 || c = 0x013 || c = 0x020 || c = 0x070 then queueWait
  else if c = 0x010 || c = 0x011 then
    let t ← me
    waitFor (t.vheld || !t.ldffQueued)

/-- POISON (R144). -/
def Strand.poisonWord (t : Strand) : Nat :=
  t.spoison.toNat + t.kpoison.toNat <<< 32 + (if t.vpoison = 0 then 0 else 2 ^ 40 + ctzN 64 t.vpoison.toNat <<< 48)

/-- LCORE (R144). -/
def Strand.lcoreWord (t : Strand) (p : Option Part) : Nat :=
  match p with
  | some p => t.pos % p.w + (t.pos / p.w) <<< 16 + (p.w - 1) <<< 32 + (p.h - 1) <<< 48
  | none => 0

/-- PHYSID (R146). -/
def Strand.physWord (t : Strand) : Nat :=
  match t.place with
  | some (c, k) => c.die + c.col <<< 2 + c.row <<< 6 + c.core <<< 9 + k <<< 13
  | none => 0

/-- IPEND (R146, R467). -/
def State.ipendWord (s : State) : Nat :=
  (match s.myPart? with
    | some p => (if p.pta then 1 else 0) + (if p.reqs.isEmpty then 0 else 4)
    | none => 0) + (if s.me.wdgPend then 2 else 0)

/-- HPID (R423). -/
def Strand.hpidWord (t : Strand) : Nat := t.owner.pid?.getD 0 + (if t.owner = .hyp then 32 else 0)

/-- BHLOST (R421). -/
def State.bhlostWord (s : State) : Nat := ((those 32 fun b => (s.bh b).lost).map (2 ^ ·)).foldl (· + ·) 0

/-- A register of the partition of the executing strand. -/
def State.partWord (s : State) (f : Part → Word) : Nat := (s.myPart?.map fun p => (f p).toNat).getD 0

/-- What a read gives (R8, R144-R146): reserved fields and WO fields read as 0. -/
def State.getReg (s : State) (c : Nat) : Nat :=
  let t := s.me
  match bankReg t.pl c with
  | some (l, k) => ((t.bank l).get k).toNat
  | none =>
    match c with
    | 0x000 => s.statusWord t
    | 0x010 => t.vlenWord
    | 0x011 => t.vtypeWord
    | 0x012 => t.vstart.toNat
    | 0x013 => t.vcommit.toNat
    | 0x020 => t.allFlags.toNat
    | 0x021 => t.frm.toNat
    | 0x030 => t.num.toNat
    | 0x031 => t.lcoreWord s.myPart?
    | 0x040 => t.porten.toNat
    | 0x041 => t.routes[0].toNat
    | 0x042 => t.routes[1].toNat
    | 0x043 => t.routes[2].toNat
    | 0x044 => t.routes[3].toNat
    | 0x048 => t.bartimeout.toNat
    | 0x050 => t.cycle.toNat
    | 0x051 => s.time.toNat
    | 0x060 => t.asid.toNat
    | 0x061 => t.ptbase.toNat
    | 0x070 => t.poisonWord
    | 0x106 => t.wdog.toNat
    | 0x107 => t.vback.toNat
    | 0x109 => s.ipendWord
    | 0x10A => s.partWord Part.suphome
    | 0x10B => s.partWord Part.ptactx
    | 0x110 => s.partWord Part.detbase
    | 0x111 => s.partWord Part.detcnt
    | 0x112 => s.partWord Part.lqbase
    | 0x116 => s.partWord Part.xgrant
    | 0x117 => s.partWord Part.peertab
    | 0x211 => t.hmStat.toNat + t.hmDetail.toNat <<< 8
    | 0x212 => t.hpidWord
    | 0x213 => (s.myPart?.map (·.fmask.toNat)).getD 0
    | 0x214 => s.bhlostWord
    | 0x220 => t.physWord
    | 0x321 => s.cwstat
    | 0x330 => (if s.pfen then 1 else 0) + (if s.fwlock then 2 else 0)
    | 0x331 => s.fwbase.toNat + s.fwsize.toNat <<< 16
    | 0x332 => s.fwdrop.toNat
    | _ => 0

/-- `getc` (R213). -/
def execGetc (d : SReg) (c : BitVec 14) (s : State) : StepOut :=
  scalar (do
    regCheck (.getc d c) c.toNat false
    getWait c.toNat
    writeS d (wd ((← get).getReg c.toNat))) s

/-- `putc` of VLEN (R235). -/
def putVlen (v : Word) : M Unit := do
  waitFor !((← me).ldffQueued && !(← me).vheld)
  queueWait
  modMe fun t => { t with vl := BitVec.ofNat 12 (min (bits v.toNat 0 12) (min (vlmax t.vtag.toNat) t.gvl.toNat)) }

/-- `putc` of VTYPE (R235). -/
def putVtype (v : Word) : M Unit := do
  queueWait
  modMe fun t => { t with vtag := v.setWidth 4, vl := BitVec.ofNat 12 (min t.vl.toNat (vlmax (bits v.toNat 0 4))) }

/-- `putc` of FFLAGS (R59). -/
def putFflags (v : Word) : M Unit := modMe fun t => { t with fflags := v.setWidth 5, lanes := Vector.replicate 32 0 }

/-- `putc` of PORTEN (R141). -/
def putPorten (v : Word) : M Unit := modMe fun t => { t with porten := v.setWidth 4 }

/-- The fields of VBACK (R146). -/
def vbackMask : Word := wd (1 + (2 ^ 31 - 1) <<< 17)

/-- The dirty resident registers of a strand go to its save area and stay resident, clean (R246, R249). -/
def State.writeBack (s : State) (uid : Nat) : State :=
  (below 64).foldl (fun s r =>
    match s.strand? uid with
    | none => s
    | some t =>
      match t.vres r, t.owner.pid?.bind s.part? with
      | .dirty, some p => (s.putIpa p (t.slotIpa r) (leBytes 1024 (t.vreg r).toNat)).1.modStrand uid
          fun t => { t with res := t.res.setIfInBounds r .clean }
      | _, _ => s) s

/-- The resident registers of a strand are dropped: their data is in the backing slots (R249). -/
def Strand.dropResident (t : Strand) : Strand :=
  { t with res := t.res.map fun x => if x.inSlot then Res.backed else x }

/-- `putc` of VBACK (R168, R249). The fault of an area that stage 2 does not map is the instruction's own, with an IPA in TRAPVAL, and
not one of an access: it goes to SUP and leaves TRAPIPA (DESIGN CHOICE, log 83). The wait is no trigger of a forced save (R165). -/
def putVback (v : Word) : M Unit := do
  let new := v &&& vbackMask
  let s ← get
  if bit new.toNat 0 then
    let area := bits new.toNat 17 31 <<< 17
    match s.myPart? with
    | none => trapAt 7 (wd area)
    | some p =>
      match s.unmapped p area 131072 with
      | some a => trapAt 7 (wd a)
      | none => pure ()
  if new != s.me.vback then
    waitFor (s.me.vheld || s.me.vq.isEmpty)
    for o in (← me).tiles do
      mergeTile s.me.uid o.base
    modify fun s =>
      let s := if bit s.me.vback.toNat 0 then s.writeBack s.me.uid else s
      let moved := bit new.toNat 0 && bits new.toNat 17 31 != bits s.me.vback.toNat 17 31
      let t := if moved then s.me.dropResident else s.me
      { s with me := { t with vback := new } }

/-- `putc` of VQCTL (R154): DROP discards the first held entry. -/
def putVqctl (v : Word) : M Unit := do
  if bit v.toNat 0 then
    modMe fun t =>
      if t.vheld && !t.vq.isEmpty then
        { t with
          vq := t.vq.drop 1, vheld := !(t.vq.drop 1).isEmpty, vcommit := t.vcommit + 1, vstart := 0
          spend := sdMask (t.vq.drop 1) }
      else t

/-- `putc` of IPEND (R146): PTA and WDG are cleared by 1; a held scheduler request stays. -/
def putIpend (v : Word) : M Unit := do
  if bit v.toNat 1 then modMe fun t => { t with wdgPend := false }
  if bit v.toNat 0 then modMyPart fun p => { p with pta := false }

/-- Has a partition a backing entry with V = 1 (R72, R136)? -/
def State.entriesUsed (s : State) (p : Part) : Bool :=
  s.accums.any fun c => c.spill.isSome && (s.homePart c.addr).map (·.pid) = some p.pid

/-- `putc` of DETBASE or DETCNT (R136). -/
def putDet (p : Part) (cnt : Bool) (v : Word) : M Unit := do
  let s ← get
  if s.entriesUsed p then return
  if cnt then
    let n := bits v.toNat 0 24
    match s.unmapped p p.detbase.toNat (48 * n) with
    | some a => trapAt 7 (wd a)
    | none => modMyPart fun p => { p with detcnt := wd n }
  else modMyPart fun p => { p with detbase := wd (bits v.toNat 16 32 <<< 16) }

/-- `putc` of LQBASE (R180, R181): every queue opens anew at its next doorbell. The fault of an unmapped table goes to SUP (DESIGN
CHOICE, log 83). -/
def putLqbase (p : Part) (v : Word) : M Unit := do
  let s ← get
  let base := bits v.toNat 12 36 <<< 12
  match if bit v.toNat 0 then s.unmapped p base 4096 else none with
  | some a => trapAt 7 (wd a)
  | none => modMyPart fun p => { p with
      lqbase := wd (bits v.toNat 0 1 + base), queues := p.queues.map fun q => { q with isOpen := false } }

/-- `putc` of LQDOOR (R180, R181). -/
def putLqdoor (p : Part) (v : Word) : M Unit := modify fun s => s.doorbell p.pid (bits v.toNat 0 6)

/-- `putc` of RCBCTL (R175). `only`: another OP does nothing. -/
def putRcbctl (p : Part) (only : Option Nat) (v : Word) : M Unit := do
  let op := bits v.toNat 0 2
  waitFor (only.isNone || only = some op)
  fenceAll
  let ipa := bits v.toNat 7 41 <<< 7
  let s ← get
  if s.rcbValid p ipa then
    if op = 0 then set (s.reload p.pid ipa)
    else if op = 1 then set ((s.cacheRcb p ipa).kill p.pid ipa 0)

/-- A write of a register of the partition (R467). -/
def onPart (f : Part → M Unit) : M Unit := do
  match (← get).myPart? with
  | some p => f p
  | none => pure ()

/-- What a write does: each field by its access code (R8, R213). -/
def putReg (c : Nat) (v : Word) : M Unit := do
  match bankReg (← me).pl c with
  | some (l, k) => modMe fun t => t.setBank l ((t.bank l).put k v)
  | none =>
    match c with
    | 0x000 => modMe fun t => { t with ie := v.getLsbD 2 }
    | 0x010 => putVlen v
    | 0x011 => putVtype v
    | 0x012 =>
      queueWait
      modMe fun t => { t with vstart := v.setWidth 12 }
    | 0x013 =>
      queueWait
      modMe fun t => { t with vcommit := v }
    | 0x020 => putFflags v
    | 0x021 => modMe fun t => { t with frm := v.setWidth 3 }
    | 0x040 => putPorten v
    | 0x041 => setRoute 0 v
    | 0x042 => setRoute 1 v
    | 0x043 => setRoute 2 v
    | 0x044 => setRoute 3 v
    | 0x048 => modMe fun t => { t with bartimeout := v.setWidth 6 }
    | 0x060 => modMe fun t => { t with asid := v.setWidth 16 }
    | 0x061 => modMe fun t => { t with ptbase := wd (bits v.toNat 13 35 <<< 13) }
    | 0x070 => modMe fun t => { t with
        spoison := t.spoison &&& ~~~(v.setWidth 32), kpoison := t.kpoison &&& ~~~((v >>> 32).setWidth 8) }
    | 0x106 => modMe fun t => { t with wdog := v.setWidth 32 }
    | 0x107 => putVback v
    | 0x108 => putVqctl v
    | 0x109 => putIpend v
    | 0x10A => modMyPart fun p => { p with suphome := wd (bits v.toNat 0 11 + bits v.toNat 16 11 <<< 16 +
        bits v.toNat 28 2 <<< 28 + bits v.toNat 63 1 <<< 63) }
    | 0x110 => onPart fun p => putDet p false v
    | 0x111 => onPart fun p => putDet p true v
    | 0x112 => onPart fun p => putLqbase p v
    | 0x113 => onPart fun p => putLqdoor p v
    | 0x114 => onPart fun p => putRcbctl p none v
    | 0x115 => onPart fun p => putAttest p v
    | 0x116 => onPart fun p => putXgrant p v
    | 0x117 => modMyPart fun p => { p with peertab := wd (bits v.toNat 0 1 + bits v.toNat 11 37 <<< 11) }
    | 0x118 => onPart fun p => putVfirq p v
    | 0x210 => hmRequest none (bits v.toNat 6 42 <<< 6)
    | 0x320 => putCwdraw none v
    | 0x330 => putFwctl v
    | 0x331 => putFwhyp v
    | 0x332 => modify fun s => { s with fwdrop := v.setWidth 32 }
    | _ => pure ()

/-- `putc` (R213). -/
def execPutc (a : SReg) (c : BitVec 14) (s : State) : StepOut :=
  scalar (do
    regCheck (.putc a c) c.toNat true
    let v ← readS a
    putReg c.toNat v) s

/-- The write that a step of its own row is: the executing strand's `putc` of register `c` with the value `v` of the step
(R213); the checks are those of the instruction. -/
def ctlWrite (c : Nat) (f : Word → M Unit) (s : State) : StepOut :=
  scalar (do
    regCheck (.putc 0 (BitVec.ofNat 14 c)) c true
    f (← get).ev.v) s

/-- VLEN_WRITE (R235). -/
def execVlenWrite (s : State) : StepOut := ctlWrite 0x010 putVlen s
/-- VTYPE_WRITE (R235). -/
def execVtypeWrite (s : State) : StepOut := ctlWrite 0x011 putVtype s
/-- FFLAGS_WRITE (R59). -/
def execFflagsWrite (s : State) : StepOut := ctlWrite 0x020 putFflags s
/-- PORTEN_WRITE (R141). -/
def execPortenWrite (s : State) : StepOut := ctlWrite 0x040 putPorten s
/-- VBACK_WRITE (R168, R249). -/
def execVbackWrite (s : State) : StepOut := ctlWrite 0x107 putVback s
/-- VQCTL_DROP (R154). -/
def execVqctlDrop (s : State) : StepOut := ctlWrite 0x108 (fun v => putVqctl (v ||| 1)) s
/-- DET_BACKING_WRITE (R136): of DETCNT with the flag, else of DETBASE. -/
def execDetBackingWrite (s : State) : StepOut :=
  ctlWrite (if s.ev.flag then 0x111 else 0x110) (fun v => onPart fun p => putDet p s.ev.flag v) s
/-- LQBASE_WRITE (R180). -/
def execLqbaseWrite (s : State) : StepOut := ctlWrite 0x112 (fun v => onPart fun p => putLqbase p v) s
/-- LQDOOR (R180, R181). -/
def execLqdoor (s : State) : StepOut := ctlWrite 0x113 (fun v => onPart fun p => putLqdoor p v) s
/-- RELOAD (R175). -/
def execReloadRcb (s : State) : StepOut := ctlWrite 0x114 (fun v => onPart fun p => putRcbctl p (some 0) v) s
/-- KILL (R175, R179). -/
def execKillRcb (s : State) : StepOut := ctlWrite 0x114 (fun v => onPart fun p => putRcbctl p (some 1) v) s
/-- ATTEST (R440). -/
def execAttest (s : State) : StepOut := ctlWrite 0x115 (fun v => onPart fun p => putAttest p v) s
/-- XGRANT (R432). -/
def execXgrant (s : State) : StepOut := ctlWrite 0x116 (fun v => onPart fun p => putXgrant p v) s
/-- VFIRQ (R460). -/
def execVfirq (s : State) : StepOut := ctlWrite 0x118 (fun v => onPart fun p => putVfirq p v) s

/-- A request to the monitor with a given OP (R425). -/
def hmWrite (op : Nat) (s : State) : StepOut := ctlWrite 0x210 (fun v => hmRequest (some op) (bits v.toNat 6 42 <<< 6)) s

/-- CREATE (R427). -/
def execCreatePart (s : State) : StepOut := hmWrite 1 s
/-- DESTROY (R429). -/
def execDestroyPart (s : State) : StepOut := hmWrite 2 s
/-- PRESET (R197, R426). -/
def execPreset (s : State) : StepOut := hmWrite 3 s
/-- BHRESET (R419, R426). -/
def execBhreset (s : State) : StepOut := hmWrite 4 s
/-- BHPOWER (R420, R426). -/
def execBhpower (s : State) : StepOut := hmWrite 5 s
/-- WINOPEN (R433). -/
def execWinopen (s : State) : StepOut := hmWrite 6 s
/-- WINCLOSE (R434). -/
def execWinclose (s : State) : StepOut := hmWrite 7 s
/-- S2INV (R431). -/
def execS2inv (s : State) : StepOut := hmWrite 8 s
/-- SETRCB (R426). -/
def execSetrcb (s : State) : StepOut := hmWrite 9 s
/-- MONUPD (R450). -/
def execMonupd (s : State) : StepOut := hmWrite 10 s
/-- POLADD (R449). -/
def execPoladd (s : State) : StepOut := hmWrite 11 s
/-- POLDEL (R449). -/
def execPoldel (s : State) : StepOut := hmWrite 12 s
/-- WITHDRAW (R452). -/
def execWithdrawCore (s : State) : StepOut := ctlWrite 0x320 (putCwdraw (some 0)) s
/-- RETURN (R452). -/
def execReturnCore (s : State) : StepOut := ctlWrite 0x320 (putCwdraw (some 1)) s
/-- REMOVE (R452). -/
def execRemoveCore (s : State) : StepOut := ctlWrite 0x320 (putCwdraw (some 2)) s

end Sys2Proof.Machine
end

