-- ==== Sys2Proof/Machine/Integer.lean ====
section
/-! DEFINITION. Integer arithmetic and constants (R45, R46, R200-R203). None of them traps on a value or sets a flag. -/

namespace Sys2Proof.Machine

/-- A shift amount modulo 64 (R45). -/
def shamt (b : Word) : Nat := b.toNat % 64

/-- The low 32 bits, sign-extended (R200). -/
def low32 (x : Word) : Word := (x.setWidth 32).signExtend 64

/-- Bits [127:64] of the signed product (R200). -/
def mulHigh (a b : Word) : Word := BitVec.ofInt 64 ((a.toInt * b.toInt) >>> 64)

/-- Bits [127:64] of the unsigned product (R200). -/
def mulHighU (a b : Word) : Word := wd ((a.toNat * b.toNat) >>> 64)

/-- The signed quotient: toward zero; x / 0 is all ones; −2^63 / −1 is −2^63 (R46). -/
def divS (a b : Word) : Word := if b = 0 then BitVec.allOnes 64 else a.sdiv b

/-- The unsigned quotient: x / 0 is all ones (R46). -/
def divU (a b : Word) : Word := if b = 0 then BitVec.allOnes 64 else a / b

/-- The signed remainder, with the sign of the dividend; x rem 0 is x (R46). -/
def remS (a b : Word) : Word := if b = 0 then a else a.srem b

/-- The unsigned remainder; x remu 0 is x (R46). -/
def remU (a b : Word) : Word := if b = 0 then a else a % b

/-- The number of leading zeros (R200). -/
def leadingZeros (a : Word) : Word := wd (clzN 64 a.toNat)

/-- The number of trailing zeros (R200). -/
def trailingZeros (a : Word) : Word := wd (ctzN 64 a.toNat)

/-- The number of one bits (R200). -/
def oneBits (a : Word) : Word := wd (popcount 64 a.toNat)

/-- `add: the wrapping sum` (R200). -/
def execAdd (d a b : SReg) (s : State) : StepOut := scalar (op2 d a b (fun a b => a + b)) s

/-- `sub: the wrapping difference` (R200). -/
def execSub (d a b : SReg) (s : State) : StepOut := scalar (op2 d a b (fun a b => a - b)) s

/-- `and` (R200). -/
def execAnd (d a b : SReg) (s : State) : StepOut := scalar (op2 d a b (fun a b => a &&& b)) s

/-- `or` (R200). -/
def execOr (d a b : SReg) (s : State) : StepOut := scalar (op2 d a b (fun a b => a ||| b)) s

/-- `xor` (R200). -/
def execXor (d a b : SReg) (s : State) : StepOut := scalar (op2 d a b (fun a b => a ^^^ b)) s

/-- `andn: a AND NOT b` (R200). -/
def execAndn (d a b : SReg) (s : State) : StepOut := scalar (op2 d a b (fun a b => a &&& ~~~b)) s

/-- `orn: a OR NOT b` (R200). -/
def execOrn (d a b : SReg) (s : State) : StepOut := scalar (op2 d a b (fun a b => a ||| ~~~b)) s

/-- `sll: left by b mod 64` (R200). -/
def execSll (d a b : SReg) (s : State) : StepOut := scalar (op2 d a b (fun a b => a <<< shamt b)) s

/-- `srl: right by b mod 64, zeros in` (R200). -/
def execSrl (d a b : SReg) (s : State) : StepOut := scalar (op2 d a b (fun a b => a >>> shamt b)) s

/-- `sra: right by b mod 64, copies of a[63] in` (R200). -/
def execSra (d a b : SReg) (s : State) : StepOut := scalar (op2 d a b (fun a b => a.sshiftRight (shamt b))) s

/-- `rol: rotated left by b mod 64` (R200). -/
def execRol (d a b : SReg) (s : State) : StepOut := scalar (op2 d a b (fun a b => a.rotateLeft (shamt b))) s

/-- `ror: rotated right by b mod 64` (R200). -/
def execRor (d a b : SReg) (s : State) : StepOut := scalar (op2 d a b (fun a b => a.rotateRight (shamt b))) s

/-- `slt: 1 if a < b as signed` (R200). -/
def execSlt (d a b : SReg) (s : State) : StepOut := scalar (op2 d a b (fun a b => Word.ofBool (a.slt b))) s

/-- `sltu: 1 if a < b as unsigned` (R200). -/
def execSltu (d a b : SReg) (s : State) : StepOut := scalar (op2 d a b (fun a b => Word.ofBool (a.ult b))) s

/-- `min, signed` (R200). -/
def execMin (d a b : SReg) (s : State) : StepOut := scalar (op2 d a b (fun a b => if a.slt b then a else b)) s

/-- `max, signed` (R200). -/
def execMax (d a b : SReg) (s : State) : StepOut := scalar (op2 d a b (fun a b => if a.slt b then b else a)) s

/-- `minu, unsigned` (R200). -/
def execMinu (d a b : SReg) (s : State) : StepOut := scalar (op2 d a b (fun a b => if a.ult b then a else b)) s

/-- `maxu, unsigned` (R200). -/
def execMaxu (d a b : SReg) (s : State) : StepOut := scalar (op2 d a b (fun a b => if a.ult b then b else a)) s

/-- `mul: the low 64 bits of the product` (R200). -/
def execMul (d a b : SReg) (s : State) : StepOut := scalar (op2 d a b (fun a b => a * b)) s

/-- `mulh: bits [127:64] of the signed product` (R200). -/
def execMulh (d a b : SReg) (s : State) : StepOut := scalar (op2 d a b mulHigh) s

/-- `mulhu: bits [127:64] of the unsigned product` (R200). -/
def execMulhu (d a b : SReg) (s : State) : StepOut := scalar (op2 d a b mulHighU) s

/-- `div: the signed quotient of R46` (R200). -/
def execDiv (d a b : SReg) (s : State) : StepOut := scalar (op2 d a b divS) s

/-- `divu: the unsigned quotient of R46` (R200). -/
def execDivu (d a b : SReg) (s : State) : StepOut := scalar (op2 d a b divU) s

/-- `rem: the signed remainder of R46` (R200). -/
def execRem (d a b : SReg) (s : State) : StepOut := scalar (op2 d a b remS) s

/-- `remu: the unsigned remainder of R46` (R200). -/
def execRemu (d a b : SReg) (s : State) : StepOut := scalar (op2 d a b remU) s

/-- `addw: the 32-bit sum, sign-extended` (R200). -/
def execAddw (d a b : SReg) (s : State) : StepOut := scalar (op2 d a b (fun a b => low32 (a + b))) s

/-- `subw: the 32-bit difference, sign-extended` (R200). -/
def execSubw (d a b : SReg) (s : State) : StepOut := scalar (op2 d a b (fun a b => low32 (a - b))) s

/-- `mulw: the low 32 bits of the product, sign-extended` (R200). -/
def execMulw (d a b : SReg) (s : State) : StepOut := scalar (op2 d a b (fun a b => low32 (a * b))) s

/-- `clz: the number of leading zeros, 64 for 0` (R200). -/
def execClz (d a : SReg) (s : State) : StepOut := scalar (op1 d a leadingZeros) s

/-- `ctz: the number of trailing zeros, 64 for 0` (R200). -/
def execCtz (d a : SReg) (s : State) : StepOut := scalar (op1 d a trailingZeros) s

/-- `popc: the number of one bits` (R200). -/
def execPopc (d a : SReg) (s : State) : StepOut := scalar (op1 d a oneBits) s

/-- An immediate operand, sign-extended (R78, R201). -/
def opImm (d a : SReg) (i : BitVec 14) (f : Word → Word → Word) : M Unit := op1 d a fun x => f x (i.signExtend 64)

/-- `addi` (R201). -/
def execAddi (d a : SReg) (i : BitVec 14) (s : State) : StepOut := scalar (opImm d a i (fun a i => a + i)) s

/-- `andi` (R201). -/
def execAndi (d a : SReg) (i : BitVec 14) (s : State) : StepOut := scalar (opImm d a i (fun a i => a &&& i)) s

/-- `ori` (R201). -/
def execOri (d a : SReg) (i : BitVec 14) (s : State) : StepOut := scalar (opImm d a i (fun a i => a ||| i)) s

/-- `xori` (R201). -/
def execXori (d a : SReg) (i : BitVec 14) (s : State) : StepOut := scalar (opImm d a i (fun a i => a ^^^ i)) s

/-- `slti: 1 if a < i as signed` (R201). -/
def execSlti (d a : SReg) (i : BitVec 14) (s : State) : StepOut := scalar (opImm d a i (fun a i => Word.ofBool (a.slt i))) s

/-- `sltiu: 1 if a < i, both unsigned` (R201). -/
def execSltiu (d a : SReg) (i : BitVec 14) (s : State) : StepOut := scalar (opImm d a i (fun a i => Word.ofBool (a.ult i))) s

/-- `slli` (R202). -/
def execSlli (d a : SReg) (n : BitVec 6) (s : State) : StepOut := scalar (op1 d a fun a => (fun a n => a <<< n) a n.toNat) s

/-- `srli` (R202). -/
def execSrli (d a : SReg) (n : BitVec 6) (s : State) : StepOut := scalar (op1 d a fun a => (fun a n => a >>> n) a n.toNat) s

/-- `srai` (R202). -/
def execSrai (d a : SReg) (n : BitVec 6) (s : State) : StepOut := scalar (op1 d a fun a => (fun a n => a.sshiftRight n) a n.toNat) s

/-- `rori` (R202). -/
def execRori (d a : SReg) (n : BitVec 6) (s : State) : StepOut := scalar (op1 d a fun a => (fun a n => a.rotateRight n) a n.toNat) s

/-- sext(v, 19) << 14 (R203). -/
def hi19 (i : BitVec 19) : Word := i.signExtend 64 <<< 14

/-- `lhi` (R203). -/
def execLhi (d : SReg) (i : BitVec 19) (s : State) : StepOut := scalar (writeS d (hi19 i)) s

/-- `apc`: relative to the instruction's own address (R203). -/
def execApc (d : SReg) (i : BitVec 19) (s : State) : StepOut := scalar (do writeS d ((← me).pc + hi19 i)) s

/-- `limm` (R203). -/
def execLimm (d : SReg) (imm : BitVec 49) (s : State) : StepOut := scalar2 (writeS d (imm.signExtend 64)) s

end Sys2Proof.Machine
end

