-- ==== Sys2Proof/Machine/ScalarFloat.lean ====
section
/-! DEFINITION. Scalar floating point (R53, R93, R214-R218): group 4 (R98). -/

namespace Sys2Proof.Machine

/-- The governing rounding mode (R53): a static 5 or 6, or DYN while FRM holds 5, 6 or 7, is illegal. -/
def rounding (rm : BitVec 3) (i : Instr) : M Nat := do
  let frm := (← me).frm
  let m := if rm = 7 then frm else rm
  if 4 < m.toNat then illegal i
  return m.toNat

/-- A result of a format: the bits above it are 0 (R214); its flags join the scalar set. -/
def putF (d : SReg) (f : Fmt) (r : FRes) : M Unit := do
  writeS d (wd (r.1 % 2 ^ f.n))
  orFlags r.2

/-- A two-operand operation of a format. -/
def fop2 (d a b : SReg) (f : BitVec 2) (op : Fmt → Nat → Nat → FRes) : M Unit := do
  let x ← readS a
  let y ← readS b
  let fm := fmtOfField f.toNat
  putF d fm (op fm x.toNat y.toNat)

/-- A rounded two-operand operation (R215). -/
def farith (i : Instr) (d a b : SReg) (f : BitVec 2) (r : BitVec 3) (op : Fmt → Nat → Nat → Nat → FRes) : M Unit := do
  let rm ← rounding r i
  needGroup 4 i
  fop2 d a b f fun fm x y => op fm rm x y

/-- A compare: an integer 1 or 0 (R216). -/
def fcompare (i : Instr) (d a b : SReg) (f : BitVec 2) (op : Fmt → Nat → Nat → Bool × FSet) : M Unit := do
  needGroup 4 i
  let x ← readS a
  let y ← readS b
  let (r, fl) := op (fmtOfField f.toNat) x.toNat y.toNat
  writeS d (Word.ofBool r)
  orFlags fl

/-- The integer formats of conversion codes 4-7 (R93). -/
def cvtInt (c : Nat) : IFmt := nth [⟨64, true⟩, ⟨64, false⟩, ⟨32, true⟩] (c - 4) ⟨32, false⟩

/-- `fcvt` (R93, R217): codes 0-3 have no integer destination. -/
def fconvert (i : Instr) (d a : SReg) (g : BitVec 1) (c : BitVec 3) (f : BitVec 2) (r : BitVec 3) : M Unit := do
  let rm ← rounding r i
  if g = 1 && c.toNat < 4 then illegal i
  needGroup 4 i
  let x := (← readS a).toNat
  let fm := fmtOfField f.toNat
  if g = 1 then
    let (k, fl) := fToI fm (cvtInt c.toNat) rm x
    writeS d (wd (ofI 64 k))
    orFlags fl
  else if c.toNat < 4 then putF d fm (fToF (fmtOfField c.toNat) fm rm x false)
  else putF d fm (fOfI fm rm ((cvtInt c.toNat).val x) false)

/-- Fused multiply-add with the signs of product and addend (R218). -/
def ffused (i : Instr) (d a b c : SReg) (f : BitVec 2) (r : BitVec 3) (negP negC : Bool) : M Unit := do
  let rm ← rounding r i
  needGroup 4 i
  let x ← readS a
  let y ← readS b
  let z ← readS c
  let fm := fmtOfField f.toNat
  putF d fm (fFma fm rm x.toNat y.toNat z.toNat negP negC)

/-- `fadd` (R215). -/
def execFadd (d a b : SReg) (f : BitVec 2) (r : BitVec 3) (s : State) : StepOut :=
  scalar (farith (.fadd d a b f r) d a b f r fAdd) s

/-- `fsub` (R215). -/
def execFsub (d a b : SReg) (f : BitVec 2) (r : BitVec 3) (s : State) : StepOut :=
  scalar (farith (.fsub d a b f r) d a b f r fSub) s

/-- `fmul` (R215). -/
def execFmul (d a b : SReg) (f : BitVec 2) (r : BitVec 3) (s : State) : StepOut :=
  scalar (farith (.fmul d a b f r) d a b f r fMul) s

/-- `fdiv` (R215). -/
def execFdiv (d a b : SReg) (f : BitVec 2) (r : BitVec 3) (s : State) : StepOut :=
  scalar (farith (.fdiv d a b f r) d a b f r fDiv) s

/-- `fsqrt` (R215). -/
def execFsqrt (d a : SReg) (f : BitVec 2) (r : BitVec 3) (s : State) : StepOut :=
  scalar (do
    let i := Instr.fsqrt d a f r
    let rm ← rounding r i
    needGroup 4 i
    let x ← readS a
    let fm := fmtOfField f.toNat
    putF d fm (fSqrt fm rm x.toNat)) s

/-- `fmin` (R52, R215). -/
def execFmin (d a b : SReg) (f : BitVec 2) (s : State) : StepOut :=
  scalar (do
    needGroup 4 (.fmin d a b f)
    fop2 d a b f fun fm x y => fMinMax fm false x y) s

/-- `fmax` (R52, R215). -/
def execFmax (d a b : SReg) (f : BitVec 2) (s : State) : StepOut :=
  scalar (do
    needGroup 4 (.fmax d a b f)
    fop2 d a b f fun fm x y => fMinMax fm true x y) s

/-- `feq` (R216). -/
def execFeq (d a b : SReg) (f : BitVec 2) (s : State) : StepOut :=
  scalar (fcompare (.feq d a b f) d a b f fEq) s

/-- `flt` (R216). -/
def execFlt (d a b : SReg) (f : BitVec 2) (s : State) : StepOut :=
  scalar (fcompare (.flt d a b f) d a b f (fun f => fLess f false)) s

/-- `fle` (R216). -/
def execFle (d a b : SReg) (f : BitVec 2) (s : State) : StepOut :=
  scalar (fcompare (.fle d a b f) d a b f (fun f => fLess f true)) s

/-- `fclass`: one bit, no flag (R216). -/
def execFclass (d a : SReg) (f : BitVec 2) (s : State) : StepOut :=
  scalar (do
    needGroup 4 (.fclass d a f)
    let x ← readS a
    writeS d (wd (2 ^ fClass (fmtOfField f.toNat) x.toNat))) s

/-- `fcvt` (R217). -/
def execFcvt (d a : SReg) (g : BitVec 1) (c : BitVec 3) (f : BitVec 2) (r : BitVec 3) (s : State) : StepOut :=
  scalar (fconvert (.fcvt d a g c f r) d a g c f r) s

/-- `fma` (R218). -/
def execFma (d a b c : SReg) (fmt : BitVec 2) (rm : BitVec 3) (s : State) : StepOut :=
  scalar2 (ffused (.fma d a b c fmt rm) d a b c fmt rm false false) s

/-- `fms` (R218). -/
def execFms (d a b c : SReg) (fmt : BitVec 2) (rm : BitVec 3) (s : State) : StepOut :=
  scalar2 (ffused (.fms d a b c fmt rm) d a b c fmt rm false true) s

/-- `fnma` (R218). -/
def execFnma (d a b c : SReg) (fmt : BitVec 2) (rm : BitVec 3) (s : State) : StepOut :=
  scalar2 (ffused (.fnma d a b c fmt rm) d a b c fmt rm true false) s

/-- `fnms` (R218). -/
def execFnms (d a b c : SReg) (fmt : BitVec 2) (rm : BitVec 3) (s : State) : StepOut :=
  scalar2 (ffused (.fnms d a b c fmt rm) d a b c fmt rm true true) s

end Sys2Proof.Machine
end

