-- ==== Sys2Proof/Machine/VectorArith.lean ====
section
/-! DEFINITION. The vector arithmetic instructions as they are issued (R252-R265): each enters the vector queue. -/

namespace Sys2Proof.Machine

/-- `vadd` (R257). -/
def execVadd (d a b : VReg) (k : KReg) (s : State) : StepOut :=
  vissue (.vadd d a b k) 0 4 none (pure (.bin .add d a (.reg b) k)) s

/-- `vsub` (R257). -/
def execVsub (d a b : VReg) (k : KReg) (s : State) : StepOut :=
  vissue (.vsub d a b k) 0 4 none (pure (.bin .sub d a (.reg b) k)) s

/-- `vrsub` (R257). -/
def execVrsub (d a b : VReg) (k : KReg) (s : State) : StepOut :=
  vissue (.vrsub d a b k) 0 4 none (pure (.bin .rsub d a (.reg b) k)) s

/-- `vmul` (R257). -/
def execVmul (d a b : VReg) (k : KReg) (s : State) : StepOut :=
  vissue (.vmul d a b k) 0 4 none (pure (.bin .mul d a (.reg b) k)) s

/-- `vmulh` (R257). -/
def execVmulh (d a b : VReg) (k : KReg) (s : State) : StepOut :=
  vissue (.vmulh d a b k) 0 4 none (pure (.bin .mulh d a (.reg b) k)) s

/-- `vdiv` (R257). -/
def execVdiv (d a b : VReg) (k : KReg) (s : State) : StepOut :=
  vissue (.vdiv d a b k) 0 4 none (pure (.bin .div d a (.reg b) k)) s

/-- `vrem` (R257). -/
def execVrem (d a b : VReg) (k : KReg) (s : State) : StepOut :=
  vissue (.vrem d a b k) 0 4 none (pure (.bin .rem d a (.reg b) k)) s

/-- `vavg` (R257). -/
def execVavg (d a b : VReg) (k : KReg) (s : State) : StepOut :=
  vissue (.vavg d a b k) 0 4 none (pure (.bin .avg d a (.reg b) k)) s

/-- `vmin` (R257). -/
def execVmin (d a b : VReg) (k : KReg) (s : State) : StepOut :=
  vissue (.vmin d a b k) 0 4 none (pure (.bin .min d a (.reg b) k)) s

/-- `vmax` (R257). -/
def execVmax (d a b : VReg) (k : KReg) (s : State) : StepOut :=
  vissue (.vmax d a b k) 0 4 none (pure (.bin .max d a (.reg b) k)) s

/-- `vand` (R257). -/
def execVand (d a b : VReg) (k : KReg) (s : State) : StepOut :=
  vissue (.vand d a b k) 0 4 none (pure (.bin .and d a (.reg b) k)) s

/-- `vor` (R257). -/
def execVor (d a b : VReg) (k : KReg) (s : State) : StepOut :=
  vissue (.vor d a b k) 0 4 none (pure (.bin .or d a (.reg b) k)) s

/-- `vxor` (R257). -/
def execVxor (d a b : VReg) (k : KReg) (s : State) : StepOut :=
  vissue (.vxor d a b k) 0 4 none (pure (.bin .xor d a (.reg b) k)) s

/-- `vsll` (R257). -/
def execVsll (d a b : VReg) (k : KReg) (s : State) : StepOut :=
  vissue (.vsll d a b k) 0 4 none (pure (.bin .sll d a (.reg b) k)) s

/-- `vsrl` (R257). -/
def execVsrl (d a b : VReg) (k : KReg) (s : State) : StepOut :=
  vissue (.vsrl d a b k) 0 4 none (pure (.bin .srl d a (.reg b) k)) s

/-- `vsra` (R257). -/
def execVsra (d a b : VReg) (k : KReg) (s : State) : StepOut :=
  vissue (.vsra d a b k) 0 4 none (pure (.bin .sra d a (.reg b) k)) s

/-- `vadds` (R257). -/
def execVadds (d a b : VReg) (k : KReg) (s : State) : StepOut :=
  vissue (.vadds d a b k) 0 4 none (pure (.bin .adds d a (.reg b) k)) s

/-- `vsubs` (R257). -/
def execVsubs (d a b : VReg) (k : KReg) (s : State) : StepOut :=
  vissue (.vsubs d a b k) 0 4 none (pure (.bin .subs d a (.reg b) k)) s

/-- `vwmul` (R260). -/
def execVwmul (d a b : VReg) (k : KReg) (s : State) : StepOut :=
  vissue (.vwmul d a b k) 0 4 none (pure (.wmul d a b k)) s

/-- `vdot4` (R261). -/
def execVdot4 (d a b : VReg) (k : KReg) (s : State) : StepOut :=
  vissue (.vdot4 d a b k) 0 4 none (pure (.dot4 d a b k)) s

/-- `vceq` (R262). -/
def execVceq (d : KReg) (a b : VReg) (k : KReg) (s : State) : StepOut :=
  vissue (.vceq d a b k) 0 4 none (pure (.cmp .eq d a b k)) s

/-- `vcne` (R262). -/
def execVcne (d : KReg) (a b : VReg) (k : KReg) (s : State) : StepOut :=
  vissue (.vcne d a b k) 0 4 none (pure (.cmp .ne d a b k)) s

/-- `vclt` (R262). -/
def execVclt (d : KReg) (a b : VReg) (k : KReg) (s : State) : StepOut :=
  vissue (.vclt d a b k) 0 4 none (pure (.cmp .lt d a b k)) s

/-- `vcle` (R262). -/
def execVcle (d : KReg) (a b : VReg) (k : KReg) (s : State) : StepOut :=
  vissue (.vcle d a b k) 0 4 none (pure (.cmp .le d a b k)) s

/-- `vsel` (R257). -/
def execVsel (d a b : VReg) (k : KReg) (s : State) : StepOut :=
  vissue (.vsel d a b k) 0 4 none (pure (.sel d a b k)) s

/-- `vmv` (R257). -/
def execVmv (d a : VReg) (k : KReg) (s : State) : StepOut :=
  vissue (.vmv d a k) 0 4 none (pure (.un .mv d a k)) s

/-- `vabs` (R257). -/
def execVabs (d a : VReg) (k : KReg) (s : State) : StepOut :=
  vissue (.vabs d a k) 0 4 none (pure (.un .abs d a k)) s

/-- `vneg` (R257). -/
def execVneg (d a : VReg) (k : KReg) (s : State) : StepOut :=
  vissue (.vneg d a k) 0 4 none (pure (.un .neg d a k)) s

/-- `vsqrt` (R257). -/
def execVsqrt (d a : VReg) (k : KReg) (s : State) : StepOut :=
  vissue (.vsqrt d a k) 0 4 none (pure (.un .sqrt d a k)) s

/-- `vrcp` (R257). -/
def execVrcp (d a : VReg) (k : KReg) (s : State) : StepOut :=
  vissue (.vrcp d a k) 0 4 none (pure (.un .rcp d a k)) s

/-- `vexp2` (R257). -/
def execVexp2 (d a : VReg) (k : KReg) (s : State) : StepOut :=
  vissue (.vexp2 d a k) 0 4 none (pure (.un .exp2 d a k)) s

/-- `vlog2` (R257). -/
def execVlog2 (d a : VReg) (k : KReg) (s : State) : StepOut :=
  vissue (.vlog2 d a k) 0 4 none (pure (.un .log2 d a k)) s

/-- `vadd.vs` (R259). -/
def execVaddVs (d a : VReg) (x : SReg) (k : KReg) (s : State) : StepOut :=
  vissue (.vaddVs d a x k) 0 4 none (with1 x fun x => .bin .add d a (.val x) k) s

/-- `vsub.vs` (R259). -/
def execVsubVs (d a : VReg) (x : SReg) (k : KReg) (s : State) : StepOut :=
  vissue (.vsubVs d a x k) 0 4 none (with1 x fun x => .bin .sub d a (.val x) k) s

/-- `vrsub.vs` (R259). -/
def execVrsubVs (d a : VReg) (x : SReg) (k : KReg) (s : State) : StepOut :=
  vissue (.vrsubVs d a x k) 0 4 none (with1 x fun x => .bin .rsub d a (.val x) k) s

/-- `vmul.vs` (R259). -/
def execVmulVs (d a : VReg) (x : SReg) (k : KReg) (s : State) : StepOut :=
  vissue (.vmulVs d a x k) 0 4 none (with1 x fun x => .bin .mul d a (.val x) k) s

/-- `vmulh.vs` (R259). -/
def execVmulhVs (d a : VReg) (x : SReg) (k : KReg) (s : State) : StepOut :=
  vissue (.vmulhVs d a x k) 0 4 none (with1 x fun x => .bin .mulh d a (.val x) k) s

/-- `vdiv.vs` (R259). -/
def execVdivVs (d a : VReg) (x : SReg) (k : KReg) (s : State) : StepOut :=
  vissue (.vdivVs d a x k) 0 4 none (with1 x fun x => .bin .div d a (.val x) k) s

/-- `vrem.vs` (R259). -/
def execVremVs (d a : VReg) (x : SReg) (k : KReg) (s : State) : StepOut :=
  vissue (.vremVs d a x k) 0 4 none (with1 x fun x => .bin .rem d a (.val x) k) s

/-- `vavg.vs` (R259). -/
def execVavgVs (d a : VReg) (x : SReg) (k : KReg) (s : State) : StepOut :=
  vissue (.vavgVs d a x k) 0 4 none (with1 x fun x => .bin .avg d a (.val x) k) s

/-- `vmin.vs` (R259). -/
def execVminVs (d a : VReg) (x : SReg) (k : KReg) (s : State) : StepOut :=
  vissue (.vminVs d a x k) 0 4 none (with1 x fun x => .bin .min d a (.val x) k) s

/-- `vmax.vs` (R259). -/
def execVmaxVs (d a : VReg) (x : SReg) (k : KReg) (s : State) : StepOut :=
  vissue (.vmaxVs d a x k) 0 4 none (with1 x fun x => .bin .max d a (.val x) k) s

/-- `vand.vs` (R259). -/
def execVandVs (d a : VReg) (x : SReg) (k : KReg) (s : State) : StepOut :=
  vissue (.vandVs d a x k) 0 4 none (with1 x fun x => .bin .and d a (.val x) k) s

/-- `vor.vs` (R259). -/
def execVorVs (d a : VReg) (x : SReg) (k : KReg) (s : State) : StepOut :=
  vissue (.vorVs d a x k) 0 4 none (with1 x fun x => .bin .or d a (.val x) k) s

/-- `vxor.vs` (R259). -/
def execVxorVs (d a : VReg) (x : SReg) (k : KReg) (s : State) : StepOut :=
  vissue (.vxorVs d a x k) 0 4 none (with1 x fun x => .bin .xor d a (.val x) k) s

/-- `vsll.vs` (R259). -/
def execVsllVs (d a : VReg) (x : SReg) (k : KReg) (s : State) : StepOut :=
  vissue (.vsllVs d a x k) 0 4 none (with1 x fun x => .bin .sll d a (.val x) k) s

/-- `vsrl.vs` (R259). -/
def execVsrlVs (d a : VReg) (x : SReg) (k : KReg) (s : State) : StepOut :=
  vissue (.vsrlVs d a x k) 0 4 none (with1 x fun x => .bin .srl d a (.val x) k) s

/-- `vsra.vs` (R259). -/
def execVsraVs (d a : VReg) (x : SReg) (k : KReg) (s : State) : StepOut :=
  vissue (.vsraVs d a x k) 0 4 none (with1 x fun x => .bin .sra d a (.val x) k) s

/-- `vfma` (R263). -/
def execVfma (d a b c : VReg) (k : KReg) (rm : BitVec 3) (s : State) : StepOut :=
  vissue (.vfma d a b c k rm) 0 8 none (pure (.fma .fma d a b c k rm)) s

/-- `vfms` (R263). -/
def execVfms (d a b c : VReg) (k : KReg) (rm : BitVec 3) (s : State) : StepOut :=
  vissue (.vfms d a b c k rm) 0 8 none (pure (.fma .fms d a b c k rm)) s

/-- `vfnma` (R263). -/
def execVfnma (d a b c : VReg) (k : KReg) (rm : BitVec 3) (s : State) : StepOut :=
  vissue (.vfnma d a b c k rm) 0 8 none (pure (.fma .fnma d a b c k rm)) s

/-- `vfnms` (R263). -/
def execVfnms (d a b c : VReg) (k : KReg) (rm : BitVec 3) (s : State) : StepOut :=
  vissue (.vfnms d a b c k rm) 0 8 none (pure (.fma .fnms d a b c k rm)) s

/-- `vcvt` (R264). -/
def execVcvt (d a : VReg) (tag : BitVec 4) (rm : BitVec 3) (sat : BitVec 1) (s : State) : StepOut :=
  vissue (.vcvt d a tag rm sat) 0 8 none (pure (.cvt d a tag rm (sat == 1))) s

/-- `vclz` (R265). -/
def execVclz (d a : VReg) (s : State) : StepOut :=
  vissue (.vclz d a) 0 8 none (pure (.un .clz d a 0)) s

/-- `vpopc` (R265). -/
def execVpopc (d a : VReg) (s : State) : StepOut :=
  vissue (.vpopc d a) 0 8 none (pure (.un .popc d a 0)) s

end Sys2Proof.Machine
end

