-- ==== Sys2Proof/Machine/VectorMask.lean ====
section
/-! DEFINITION. The vector mask, permute, reduction and tile instructions as they are issued (R235, R236, R266-R281). -/

namespace Sys2Proof.Machine

/-- `vsetl` (R235): length and tag change at issue; the entry opens a strip. -/
def execVsetl (d a : SReg) (t : BitVec 4) (s : State) : StepOut :=
  runInstr (do
    vcheck (.vsetl d a t) 0 (some d)
    vwaits (some d)
    takeVector
    let x ← readS a
    let vl := min (min x.toNat (vlmax t.toNat)) (← me).gvl.toNat
    modMe fun u => { u with vl := BitVec.ofNat 12 vl, vtag := t }
    writeS d (wd vl)
    modMe fun u =>
      let u : Strand := { u with strip := u.strip + 1 }
      u.enqueue (u.entry (.vsetl d a t) (.setl x))
    advance 4
    keepUp) s

/-- `mif` (R268). -/
def execMif (c : KReg) (s : State) : StepOut :=
  vissue (.mif c) 0 4 none (pure (.mif c)) s

/-- `melse` (R268). -/
def execMelse (s : State) : StepOut :=
  vissue .melse 0 4 none (pure .melse) s

/-- `mend` (R268). -/
def execMend (s : State) : StepOut :=
  vissue .mend 0 4 none (pure .mend) s

/-- `mbrk` (R268). -/
def execMbrk (c : KReg) (s : State) : StepOut :=
  vissue (.mbrk c) 0 4 none (pure (.mbrk c)) s

/-- `mand` (R267). -/
def execMand (d a b : KReg) (s : State) : StepOut :=
  vissue (.mand d a b) 0 4 none (pure (.mlog .and d a b)) s

/-- `mor` (R267). -/
def execMor (d a b : KReg) (s : State) : StepOut :=
  vissue (.mor d a b) 0 4 none (pure (.mlog .or d a b)) s

/-- `mxor` (R267). -/
def execMxor (d a b : KReg) (s : State) : StepOut :=
  vissue (.mxor d a b) 0 4 none (pure (.mlog .xor d a b)) s

/-- `mnot` (R267). -/
def execMnot (d a : KReg) (s : State) : StepOut :=
  vissue (.mnot d a) 0 4 none (pure (.mlog .not d a 0)) s

/-- `vslideup` (R270). -/
def execVslideup (d a : VReg) (x : SReg) (k : KReg) (s : State) : StepOut :=
  vissue (.vslideup d a x k) 0 4 none (with1 x fun x => .slide true d a x k) s

/-- `vslidedn` (R270). -/
def execVslidedn (d a : VReg) (x : SReg) (k : KReg) (s : State) : StepOut :=
  vissue (.vslidedn d a x k) 0 4 none (with1 x fun x => .slide false d a x k) s

/-- `vperm` (R271). -/
def execVperm (d a b : VReg) (k : KReg) (s : State) : StepOut :=
  vissue (.vperm d a b k) 0 4 none (pure (.perm d a b k)) s

/-- `vred.o` (R274). -/
def execVredO (d a : VReg) (x : SReg) (k : KReg) (s : State) : StepOut :=
  vissue (.vredO d a x k) 0 4 none (with1 x fun x => .red true d a x k) s

/-- `vred.r` (R274). -/
def execVredR (d a : VReg) (x : SReg) (k : KReg) (s : State) : StepOut :=
  vissue (.vredR d a x k) 0 4 none (with1 x fun x => .red false d a x k) s

/-- `vscan` (R276). -/
def execVscan (d a : VReg) (x : SReg) (k : KReg) (s : State) : StepOut :=
  vissue (.vscan d a x k) 0 4 none (with1 x fun x => .scan d a x k) s

/-- `vrec.mul` (R277). -/
def execVrecMul (d a : VReg) (x : SReg) (k : KReg) (s : State) : StepOut :=
  vissue (.vrecMul d a x k) 0 4 none (with1 x fun x => .recur false d a x k) s

/-- `vrec.max` (R277). -/
def execVrecMax (d a : VReg) (x : SReg) (k : KReg) (s : State) : StepOut :=
  vissue (.vrecMax d a x k) 0 4 none (with1 x fun x => .recur true d a x k) s

/-- `vext` (R272). -/
def execVext (d : SReg) (a : VReg) (x : SReg) (s : State) : StepOut :=
  vissue (.vext d a x) 0 4 (some d) (with1 x fun x => .ext d a x) s

/-- `vredmax` (R275). -/
def execVredmax (d a : VReg) (x : SReg) (s : State) : StepOut :=
  vissue (.vredmax d a x) 0 8 none (with1 x fun x => .redm true d a x) s

/-- `vredmin` (R275). -/
def execVredmin (d a : VReg) (x : SReg) (s : State) : StepOut :=
  vissue (.vredmin d a x) 0 8 none (with1 x fun x => .redm false d a x) s

/-- `vins` (R272). -/
def execVins (d : VReg) (v x : SReg) (s : State) : StepOut :=
  vissue (.vins d v x) 0 8 none (do
    let y ← readS v
    let i ← readS x
    return .ins d y i) s

/-- `vbcast` (R266). -/
def execVbcast (d : VReg) (x : SReg) (s : State) : StepOut :=
  vissue (.vbcast d x) 0 8 none (with1 x fun x => .bcast d x) s

/-- `viota` (R266). -/
def execViota (d : VReg) (s : State) : StepOut :=
  vissue (.viota d) 0 8 none (pure (.iota d)) s

/-- `vcompress` (R273). -/
def execVcompress (d a : VReg) (k : KReg) (s : State) : StepOut :=
  vissue (.vcompress d a k) 0 8 none (pure (.compress d a k)) s

/-- `mpopc` (R269). -/
def execMpopc (d : SReg) (k : KReg) (s : State) : StepOut :=
  vissue (.mpopc d k) 0 8 (some d) (pure (.mpopc d k)) s

/-- `mfirst` (R269). -/
def execMfirst (d : SReg) (k : KReg) (s : State) : StepOut :=
  vissue (.mfirst d k) 0 8 (some d) (pure (.mfirst d k)) s

/-- `vtag` (R236). -/
def execVtag (d : VReg) (t : BitVec 4) (s : State) : StepOut :=
  vissue (.vtag d t) 0 4 none (pure (.vtag d t)) s

/-- `vmop.o` (R279). -/
def execVmopO (d a b : VReg) (k : KReg) (g : BitVec 8) (s : State) : StepOut :=
  vissue (.vmopO d a b k g) 1 8 none (pure (.tile true d a b k g.toNat)) s

/-- `vmop.r` (R280). -/
def execVmopR (d a b : VReg) (k : KReg) (g : BitVec 8) (s : State) : StepOut :=
  vissue (.vmopR d a b k g) 1 8 none (pure (.tile false d a b k g.toNat)) s

/-- `vmzero` (R281). -/
def execVmzero (d : VReg) (s : State) : StepOut :=
  vissue (.vmzero d) 1 8 none (pure (.tileZero d)) s

/-- `vmrd` (R281). -/
def execVmrd (d : VReg) (s : State) : StepOut :=
  vissue (.vmrd d) 1 8 none (pure (.tileRead d)) s

end Sys2Proof.Machine
end

