-- ==== Sys2Proof/Machine/VectorStream.lean ====
section
/-! DEFINITION. The vector memory and stream instructions and `postv` as they are issued (R284-R307). -/

namespace Sys2Proof.Machine

/-- `vld` (R294). -/
def execVld (d : VReg) (b : SReg) (k : KReg) (s : State) : StepOut :=
  vissue (.vld d b k) 0 4 none (with1 b fun y => .ld d y .unit false k) s

/-- `vlds` (R294). -/
def execVlds (d : VReg) (x b : SReg) (k : KReg) (s : State) : StepOut :=
  vissue (.vlds d x b k) 0 4 none (do
    let y ← readS b
    let z ← readS x
    return .ld d y (.stride z) false k) s

/-- `vldff` (R296). -/
def execVldff (d : VReg) (b : SReg) (k : KReg) (s : State) : StepOut :=
  vissue (.vldff d b k) 0 4 none (with1 b fun y => .ld d y .unit true k) s

/-- `vpop` (R304). -/
def execVpop (d : VReg) (p : BitVec 3) (k : KReg) (s : State) : StepOut :=
  vissue (.vpop d p k) 0 4 none (pure (.pop d p.toNat k)) s

/-- `vst` (R294). -/
def execVst (v : VReg) (b : SReg) (k : KReg) (s : State) : StepOut :=
  vissue (.vst v b k) 0 4 none (with1 b fun y => .st v y .unit false k) s

/-- `vsts` (R294). -/
def execVsts (v : VReg) (x b : SReg) (k : KReg) (s : State) : StepOut :=
  vissue (.vsts v x b k) 0 4 none (do
    let y ← readS b
    let z ← readS x
    return .st v y (.stride z) false k) s

/-- `vpush` (R304). -/
def execVpush (v : VReg) (p : BitVec 3) (k : KReg) (s : State) : StepOut :=
  vissue (.vpush v p k) 0 4 none (pure (.push v p.toNat k)) s

/-- `vldx` (R298). -/
def execVldx (d : VReg) (base : SReg) (b : VReg) (k : KReg) (ish : BitVec 2) (s : State) : StepOut :=
  vissue (.vldx d base b k ish) 0 8 none (with1 base fun y => .ld d y (.index b ish.toNat) false k) s

/-- `vstx` (R298). -/
def execVstx (v : VReg) (base : SReg) (b : VReg) (k : KReg) (ish : BitVec 2) (s : State) : StepOut :=
  vissue (.vstx v base b k ish) 0 8 none (with1 base fun y => .st v y (.index b ish.toNat) false k) s

/-- `vstxo` (R299). -/
def execVstxo (v : VReg) (base : SReg) (b : VReg) (k : KReg) (ish : BitVec 2) (s : State) : StepOut :=
  vissue (.vstxo v base b k ish) 0 8 none (with1 base fun y => .st v y (.index b ish.toNat) true k) s

/-- `vamo.swap` (R300). -/
def execVamoSwap (d : VReg) (base : SReg) (b c : VReg) (k : KReg) (ish scope : BitVec 2) (ar ret : BitVec 1) (s : State) : StepOut :=
  vissue (.vamoSwap d base b c k ish scope ar ret) 0 8 none (with1 base fun y => .amo .swap d y b ish.toNat c k scope.toNat (ar == 1) (ret == 1)) s

/-- `vamo.add` (R300). -/
def execVamoAdd (d : VReg) (base : SReg) (b c : VReg) (k : KReg) (ish scope : BitVec 2) (ar ret : BitVec 1) (s : State) : StepOut :=
  vissue (.vamoAdd d base b c k ish scope ar ret) 0 8 none (with1 base fun y => .amo .add d y b ish.toNat c k scope.toNat (ar == 1) (ret == 1)) s

/-- `vamo.and` (R300). -/
def execVamoAnd (d : VReg) (base : SReg) (b c : VReg) (k : KReg) (ish scope : BitVec 2) (ar ret : BitVec 1) (s : State) : StepOut :=
  vissue (.vamoAnd d base b c k ish scope ar ret) 0 8 none (with1 base fun y => .amo .and d y b ish.toNat c k scope.toNat (ar == 1) (ret == 1)) s

/-- `vamo.or` (R300). -/
def execVamoOr (d : VReg) (base : SReg) (b c : VReg) (k : KReg) (ish scope : BitVec 2) (ar ret : BitVec 1) (s : State) : StepOut :=
  vissue (.vamoOr d base b c k ish scope ar ret) 0 8 none (with1 base fun y => .amo .or d y b ish.toNat c k scope.toNat (ar == 1) (ret == 1)) s

/-- `vamo.xor` (R300). -/
def execVamoXor (d : VReg) (base : SReg) (b c : VReg) (k : KReg) (ish scope : BitVec 2) (ar ret : BitVec 1) (s : State) : StepOut :=
  vissue (.vamoXor d base b c k ish scope ar ret) 0 8 none (with1 base fun y => .amo .xor d y b ish.toNat c k scope.toNat (ar == 1) (ret == 1)) s

/-- `vamo.min` (R300). -/
def execVamoMin (d : VReg) (base : SReg) (b c : VReg) (k : KReg) (ish scope : BitVec 2) (ar ret : BitVec 1) (s : State) : StepOut :=
  vissue (.vamoMin d base b c k ish scope ar ret) 0 8 none (with1 base fun y => .amo .min d y b ish.toNat c k scope.toNat (ar == 1) (ret == 1)) s

/-- `vamo.max` (R300). -/
def execVamoMax (d : VReg) (base : SReg) (b c : VReg) (k : KReg) (ish scope : BitVec 2) (ar ret : BitVec 1) (s : State) : StepOut :=
  vissue (.vamoMax d base b c k ish scope ar ret) 0 8 none (with1 base fun y => .amo .max d y b ish.toNat c k scope.toNat (ar == 1) (ret == 1)) s

/-- `vamo.minu` (R300). -/
def execVamoMinu (d : VReg) (base : SReg) (b c : VReg) (k : KReg) (ish scope : BitVec 2) (ar ret : BitVec 1) (s : State) : StepOut :=
  vissue (.vamoMinu d base b c k ish scope ar ret) 0 8 none (with1 base fun y => .amo .minu d y b ish.toNat c k scope.toNat (ar == 1) (ret == 1)) s

/-- `vamo.maxu` (R300). -/
def execVamoMaxu (d : VReg) (base : SReg) (b c : VReg) (k : KReg) (ish scope : BitVec 2) (ar ret : BitVec 1) (s : State) : StepOut :=
  vissue (.vamoMaxu d base b c k ish scope ar ret) 0 8 none (with1 base fun y => .amo .maxu d y b ish.toNat c k scope.toNat (ar == 1) (ret == 1)) s

/-- `vamo.fadd` (R300). -/
def execVamoFadd (d : VReg) (base : SReg) (b c : VReg) (k : KReg) (ish scope : BitVec 2) (ar ret : BitVec 1) (s : State) : StepOut :=
  vissue (.vamoFadd d base b c k ish scope ar ret) 0 8 none (with1 base fun y => .amo .fadd d y b ish.toNat c k scope.toNat (ar == 1) (ret == 1)) s

/-- `vplane` (R302). -/
def execVplane (v : VReg) (base : SReg) (k : KReg) (pm1 : BitVec 4) (s : State) : StepOut :=
  vissue (.vplane v base k pm1) 0 8 none (with1 base fun y => .plane v y k (pm1.toNat + 1)) s

/-- `vpop.nw` (R305). -/
def execVpopNw (d : VReg) (port : BitVec 3) (sd : SReg) (k : KReg) (limit : BitVec 16) (s : State) : StepOut :=
  vissue (.vpopNw d port sd k limit) 0 8 (some sd) (pure (.popNw d port.toNat k sd limit.toNat)) s

/-- `vpush.nw` (R305). -/
def execVpushNw (v : VReg) (port : BitVec 3) (sd : SReg) (k : KReg) (limit : BitVec 16) (s : State) : StepOut :=
  vissue (.vpushNw v port sd k limit) 0 8 (some sd) (pure (.pushNw v port.toNat k sd limit.toNat)) s

/-- `postv` (R306). -/
def execPostv (d a : SReg) (va : VReg) (nm1 : BitVec 4) (k : KReg) (s : State) : StepOut :=
  vissue (.postv d a va nm1 k) 2 8 (some d) (with1 a fun y => .postv d y va (nm1.toNat + 1) k) s

/-- Does an entry wait at a port, and with which scalar destination (R305)? -/
def Strand.boundedWait (t : Strand) (e : VEntry) : Option SReg :=
  match e.op with
  | .popNw _ p _ d _ => if (t.sport p).bind != .departure && (t.sport p).fifo.isEmpty then some d else none
  | .pushNw _ p _ d _ =>
    let x := t.sport p
    if x.bind != .arrival && (x.bind = .unbound || 4 ≤ x.fifo.length) then some d else none
  | _ => none

/-- A bounded stream access reaches its limit (R305): no vector moves, sd receives 1 and the entry retires. One whose data register an
engine is still to return waits for that first (R31, R309). -/
def execBoundedStreamLimit (s : State) : StepOut :=
  let u := s.switchTo s.ev.x
  event (do
    let t ← me
    if t.uid != s.ev.x || !t.vready || t.vstart != 0 then return
    match (t.vq.head?.filter fun e => !t.pends e).bind t.boundedWait with
    | none => pure ()
    | some d =>
      putSd d 1
      modMe (·.retire none)
      if t.place.isNone then modify fun s => s.resave t.uid) u

end Sys2Proof.Machine
end

