-- ==== Sys2Proof/Machine/Dispatch.lean ====
section
/-! DEFINITION. One arm per constructor of `Instr`: the meaning that runs it. -/

namespace Sys2Proof.Machine

def exec (i : Instr) (s : State) : Host.Outcome State Fault Refusal :=
  match i with
  | .add d a b => Sys2Proof.Machine.execAdd d a b s
  | .sub d a b => Sys2Proof.Machine.execSub d a b s
  | .and d a b => Sys2Proof.Machine.execAnd d a b s
  | .or d a b => Sys2Proof.Machine.execOr d a b s
  | .xor d a b => Sys2Proof.Machine.execXor d a b s
  | .andn d a b => Sys2Proof.Machine.execAndn d a b s
  | .orn d a b => Sys2Proof.Machine.execOrn d a b s
  | .sll d a b => Sys2Proof.Machine.execSll d a b s
  | .srl d a b => Sys2Proof.Machine.execSrl d a b s
  | .sra d a b => Sys2Proof.Machine.execSra d a b s
  | .rol d a b => Sys2Proof.Machine.execRol d a b s
  | .ror d a b => Sys2Proof.Machine.execRor d a b s
  | .slt d a b => Sys2Proof.Machine.execSlt d a b s
  | .sltu d a b => Sys2Proof.Machine.execSltu d a b s
  | .min d a b => Sys2Proof.Machine.execMin d a b s
  | .max d a b => Sys2Proof.Machine.execMax d a b s
  | .minu d a b => Sys2Proof.Machine.execMinu d a b s
  | .maxu d a b => Sys2Proof.Machine.execMaxu d a b s
  | .mul d a b => Sys2Proof.Machine.execMul d a b s
  | .mulh d a b => Sys2Proof.Machine.execMulh d a b s
  | .mulhu d a b => Sys2Proof.Machine.execMulhu d a b s
  | .div d a b => Sys2Proof.Machine.execDiv d a b s
  | .divu d a b => Sys2Proof.Machine.execDivu d a b s
  | .rem d a b => Sys2Proof.Machine.execRem d a b s
  | .remu d a b => Sys2Proof.Machine.execRemu d a b s
  | .clz d a => Sys2Proof.Machine.execClz d a s
  | .ctz d a => Sys2Proof.Machine.execCtz d a s
  | .popc d a => Sys2Proof.Machine.execPopc d a s
  | .addw d a b => Sys2Proof.Machine.execAddw d a b s
  | .subw d a b => Sys2Proof.Machine.execSubw d a b s
  | .mulw d a b => Sys2Proof.Machine.execMulw d a b s
  | .addi d a imm => Sys2Proof.Machine.execAddi d a imm s
  | .andi d a imm => Sys2Proof.Machine.execAndi d a imm s
  | .ori d a imm => Sys2Proof.Machine.execOri d a imm s
  | .xori d a imm => Sys2Proof.Machine.execXori d a imm s
  | .slti d a imm => Sys2Proof.Machine.execSlti d a imm s
  | .sltiu d a imm => Sys2Proof.Machine.execSltiu d a imm s
  | .slli d a n => Sys2Proof.Machine.execSlli d a n s
  | .srli d a n => Sys2Proof.Machine.execSrli d a n s
  | .srai d a n => Sys2Proof.Machine.execSrai d a n s
  | .rori d a n => Sys2Proof.Machine.execRori d a n s
  | .lhi d imm => Sys2Proof.Machine.execLhi d imm s
  | .apc d imm => Sys2Proof.Machine.execApc d imm s
  | .lb d b imm => Sys2Proof.Machine.execLb d b imm s
  | .lh d b imm => Sys2Proof.Machine.execLh d b imm s
  | .lw d b imm => Sys2Proof.Machine.execLw d b imm s
  | .ld d b imm => Sys2Proof.Machine.execLd d b imm s
  | .lbu d b imm => Sys2Proof.Machine.execLbu d b imm s
  | .lhu d b imm => Sys2Proof.Machine.execLhu d b imm s
  | .lwu d b imm => Sys2Proof.Machine.execLwu d b imm s
  | .ldsync d b imm => Sys2Proof.Machine.execLdsync d b imm s
  | .sb x b imm => Sys2Proof.Machine.execSb x b imm s
  | .sh x b imm => Sys2Proof.Machine.execSh x b imm s
  | .sw x b imm => Sys2Proof.Machine.execSw x b imm s
  | .sd x b imm => Sys2Proof.Machine.execSd x b imm s
  | .fclr b imm => Sys2Proof.Machine.execFclr b imm s
  | .amoSwap d a b c w r => Sys2Proof.Machine.execAmoSwap d a b c w r s
  | .amoAdd d a b c w r => Sys2Proof.Machine.execAmoAdd d a b c w r s
  | .amoAnd d a b c w r => Sys2Proof.Machine.execAmoAnd d a b c w r s
  | .amoOr d a b c w r => Sys2Proof.Machine.execAmoOr d a b c w r s
  | .amoXor d a b c w r => Sys2Proof.Machine.execAmoXor d a b c w r s
  | .amoMin d a b c w r => Sys2Proof.Machine.execAmoMin d a b c w r s
  | .amoMax d a b c w r => Sys2Proof.Machine.execAmoMax d a b c w r s
  | .amoMinu d a b c w r => Sys2Proof.Machine.execAmoMinu d a b c w r s
  | .amoMaxu d a b c w r => Sys2Proof.Machine.execAmoMaxu d a b c w r s
  | .amoCas d a b c w r => Sys2Proof.Machine.execAmoCas d a b c w r s
  | .amoFadd d a b c w r => Sys2Proof.Machine.execAmoFadd d a b c w r s
  | .fence x p c => Sys2Proof.Machine.execFence x p c s
  | .beq a b o => Sys2Proof.Machine.execBeq a b o s
  | .bne a b o => Sys2Proof.Machine.execBne a b o s
  | .blt a b o => Sys2Proof.Machine.execBlt a b o s
  | .bge a b o => Sys2Proof.Machine.execBge a b o s
  | .bltu a b o => Sys2Proof.Machine.execBltu a b o s
  | .bgeu a b o => Sys2Proof.Machine.execBgeu a b o s
  | .jal d imm => Sys2Proof.Machine.execJal d imm s
  | .jalr d a imm => Sys2Proof.Machine.execJalr d a imm s
  | .getc d c => Sys2Proof.Machine.execGetc d c s
  | .putc a c => Sys2Proof.Machine.execPutc a c s
  | .trapSoft a => Sys2Proof.Machine.execTrapSoft a s
  | .tlbi a b => Sys2Proof.Machine.execTlbi a b s
  | .launch d a b => Sys2Proof.Machine.execLaunch d a b s
  | .testScan d a => Sys2Proof.Machine.execTestScan d a s
  | .swb a b => Sys2Proof.Machine.execSwb a b s
  | .dfin a b => Sys2Proof.Machine.execDfin a b s
  | .route p a => Sys2Proof.Machine.execRoute p a s
  | .barDef a b => Sys2Proof.Machine.execBarDef a b s
  | .barArr a => Sys2Proof.Machine.execBarArr a s
  | .barWait a => Sys2Proof.Machine.execBarWait a s
  | .barAw a => Sys2Proof.Machine.execBarAw a s
  | .semSig a b => Sys2Proof.Machine.execSemSig a b s
  | .semWait a b => Sys2Proof.Machine.execSemWait a b s
  | .semPoll d a => Sys2Proof.Machine.execSemPoll d a s
  | .postCall d a b => Sys2Proof.Machine.execPostCall d a b s
  | .awaitCall d a => Sys2Proof.Machine.execAwaitCall d a s
  | .probeCall d a => Sys2Proof.Machine.execProbeCall d a s
  | .otok d a => Sys2Proof.Machine.execOtok d a s
  | .xflush a => Sys2Proof.Machine.execXflush a s
  | .vadd d a b k => Sys2Proof.Machine.execVadd d a b k s
  | .vsub d a b k => Sys2Proof.Machine.execVsub d a b k s
  | .vrsub d a b k => Sys2Proof.Machine.execVrsub d a b k s
  | .vmul d a b k => Sys2Proof.Machine.execVmul d a b k s
  | .vmulh d a b k => Sys2Proof.Machine.execVmulh d a b k s
  | .vdiv d a b k => Sys2Proof.Machine.execVdiv d a b k s
  | .vrem d a b k => Sys2Proof.Machine.execVrem d a b k s
  | .vavg d a b k => Sys2Proof.Machine.execVavg d a b k s
  | .vmin d a b k => Sys2Proof.Machine.execVmin d a b k s
  | .vmax d a b k => Sys2Proof.Machine.execVmax d a b k s
  | .vand d a b k => Sys2Proof.Machine.execVand d a b k s
  | .vor d a b k => Sys2Proof.Machine.execVor d a b k s
  | .vxor d a b k => Sys2Proof.Machine.execVxor d a b k s
  | .vsll d a b k => Sys2Proof.Machine.execVsll d a b k s
  | .vsrl d a b k => Sys2Proof.Machine.execVsrl d a b k s
  | .vsra d a b k => Sys2Proof.Machine.execVsra d a b k s
  | .vadds d a b k => Sys2Proof.Machine.execVadds d a b k s
  | .vsubs d a b k => Sys2Proof.Machine.execVsubs d a b k s
  | .vwmul d a b k => Sys2Proof.Machine.execVwmul d a b k s
  | .vdot4 d a b k => Sys2Proof.Machine.execVdot4 d a b k s
  | .vceq d a b k => Sys2Proof.Machine.execVceq d a b k s
  | .vcne d a b k => Sys2Proof.Machine.execVcne d a b k s
  | .vclt d a b k => Sys2Proof.Machine.execVclt d a b k s
  | .vcle d a b k => Sys2Proof.Machine.execVcle d a b k s
  | .vsel d a b k => Sys2Proof.Machine.execVsel d a b k s
  | .vmv d a k => Sys2Proof.Machine.execVmv d a k s
  | .vabs d a k => Sys2Proof.Machine.execVabs d a k s
  | .vneg d a k => Sys2Proof.Machine.execVneg d a k s
  | .vsqrt d a k => Sys2Proof.Machine.execVsqrt d a k s
  | .vrcp d a k => Sys2Proof.Machine.execVrcp d a k s
  | .vexp2 d a k => Sys2Proof.Machine.execVexp2 d a k s
  | .vlog2 d a k => Sys2Proof.Machine.execVlog2 d a k s
  | .vaddVs d a x k => Sys2Proof.Machine.execVaddVs d a x k s
  | .vsubVs d a x k => Sys2Proof.Machine.execVsubVs d a x k s
  | .vrsubVs d a x k => Sys2Proof.Machine.execVrsubVs d a x k s
  | .vmulVs d a x k => Sys2Proof.Machine.execVmulVs d a x k s
  | .vmulhVs d a x k => Sys2Proof.Machine.execVmulhVs d a x k s
  | .vdivVs d a x k => Sys2Proof.Machine.execVdivVs d a x k s
  | .vremVs d a x k => Sys2Proof.Machine.execVremVs d a x k s
  | .vavgVs d a x k => Sys2Proof.Machine.execVavgVs d a x k s
  | .vminVs d a x k => Sys2Proof.Machine.execVminVs d a x k s
  | .vmaxVs d a x k => Sys2Proof.Machine.execVmaxVs d a x k s
  | .vandVs d a x k => Sys2Proof.Machine.execVandVs d a x k s
  | .vorVs d a x k => Sys2Proof.Machine.execVorVs d a x k s
  | .vxorVs d a x k => Sys2Proof.Machine.execVxorVs d a x k s
  | .vsllVs d a x k => Sys2Proof.Machine.execVsllVs d a x k s
  | .vsrlVs d a x k => Sys2Proof.Machine.execVsrlVs d a x k s
  | .vsraVs d a x k => Sys2Proof.Machine.execVsraVs d a x k s
  | .mif c => Sys2Proof.Machine.execMif c s
  | .mbrk c => Sys2Proof.Machine.execMbrk c s
  | .mand d a b => Sys2Proof.Machine.execMand d a b s
  | .mor d a b => Sys2Proof.Machine.execMor d a b s
  | .mxor d a b => Sys2Proof.Machine.execMxor d a b s
  | .mnot d a => Sys2Proof.Machine.execMnot d a s
  | .vslideup d a x k => Sys2Proof.Machine.execVslideup d a x k s
  | .vslidedn d a x k => Sys2Proof.Machine.execVslidedn d a x k s
  | .vperm d a b k => Sys2Proof.Machine.execVperm d a b k s
  | .vredO d a x k => Sys2Proof.Machine.execVredO d a x k s
  | .vredR d a x k => Sys2Proof.Machine.execVredR d a x k s
  | .vscan d a x k => Sys2Proof.Machine.execVscan d a x k s
  | .vrecMul d a x k => Sys2Proof.Machine.execVrecMul d a x k s
  | .vrecMax d a x k => Sys2Proof.Machine.execVrecMax d a x k s
  | .vext d a x => Sys2Proof.Machine.execVext d a x s
  | .vld d b k => Sys2Proof.Machine.execVld d b k s
  | .vlds d x b k => Sys2Proof.Machine.execVlds d x b k s
  | .vldff d b k => Sys2Proof.Machine.execVldff d b k s
  | .vpop d p k => Sys2Proof.Machine.execVpop d p k s
  | .vst v b k => Sys2Proof.Machine.execVst v b k s
  | .vsts v x b k => Sys2Proof.Machine.execVsts v x b k s
  | .vpush v p k => Sys2Proof.Machine.execVpush v p k s
  | .vsetl d a t => Sys2Proof.Machine.execVsetl d a t s
  | .vtag d t => Sys2Proof.Machine.execVtag d t s
  | .fadd d a b f r => Sys2Proof.Machine.execFadd d a b f r s
  | .fsub d a b f r => Sys2Proof.Machine.execFsub d a b f r s
  | .fmul d a b f r => Sys2Proof.Machine.execFmul d a b f r s
  | .fdiv d a b f r => Sys2Proof.Machine.execFdiv d a b f r s
  | .fsqrt d a f r => Sys2Proof.Machine.execFsqrt d a f r s
  | .fmin d a b f => Sys2Proof.Machine.execFmin d a b f s
  | .fmax d a b f => Sys2Proof.Machine.execFmax d a b f s
  | .feq d a b f => Sys2Proof.Machine.execFeq d a b f s
  | .flt d a b f => Sys2Proof.Machine.execFlt d a b f s
  | .fle d a b f => Sys2Proof.Machine.execFle d a b f s
  | .fclass d a f => Sys2Proof.Machine.execFclass d a f s
  | .fcvt d a g c f r => Sys2Proof.Machine.execFcvt d a g c f r s
  | .nop a => Sys2Proof.Machine.execNop a s
  | .pfL1 a => Sys2Proof.Machine.execPfL1 a s
  | .pfL2 a => Sys2Proof.Machine.execPfL2 a s
  | .pfSt a => Sys2Proof.Machine.execPfSt a s
  | .limm d imm => Sys2Proof.Machine.execLimm d imm s
  | .lbL d b off => Sys2Proof.Machine.execLbL d b off s
  | .lhL d b off => Sys2Proof.Machine.execLhL d b off s
  | .lwL d b off => Sys2Proof.Machine.execLwL d b off s
  | .ldL d b off => Sys2Proof.Machine.execLdL d b off s
  | .lbuL d b off => Sys2Proof.Machine.execLbuL d b off s
  | .lhuL d b off => Sys2Proof.Machine.execLhuL d b off s
  | .lwuL d b off => Sys2Proof.Machine.execLwuL d b off s
  | .ldsyncL d b off => Sys2Proof.Machine.execLdsyncL d b off s
  | .sbL x b off => Sys2Proof.Machine.execSbL x b off s
  | .shL x b off => Sys2Proof.Machine.execShL x b off s
  | .swL x b off => Sys2Proof.Machine.execSwL x b off s
  | .sdL x b off => Sys2Proof.Machine.execSdL x b off s
  | .fclrL b off => Sys2Proof.Machine.execFclrL b off s
  | .jalL d imm => Sys2Proof.Machine.execJalL d imm s
  | .fma d a b c fmt rm => Sys2Proof.Machine.execFma d a b c fmt rm s
  | .fms d a b c fmt rm => Sys2Proof.Machine.execFms d a b c fmt rm s
  | .fnma d a b c fmt rm => Sys2Proof.Machine.execFnma d a b c fmt rm s
  | .fnms d a b c fmt rm => Sys2Proof.Machine.execFnms d a b c fmt rm s
  | .vfma d a b c k rm => Sys2Proof.Machine.execVfma d a b c k rm s
  | .vfms d a b c k rm => Sys2Proof.Machine.execVfms d a b c k rm s
  | .vfnma d a b c k rm => Sys2Proof.Machine.execVfnma d a b c k rm s
  | .vfnms d a b c k rm => Sys2Proof.Machine.execVfnms d a b c k rm s
  | .vmopO d a b k g => Sys2Proof.Machine.execVmopO d a b k g s
  | .vmopR d a b k g => Sys2Proof.Machine.execVmopR d a b k g s
  | .vmzero d => Sys2Proof.Machine.execVmzero d s
  | .vmrd d => Sys2Proof.Machine.execVmrd d s
  | .vldx d base b k ish => Sys2Proof.Machine.execVldx d base b k ish s
  | .vstx v base b k ish => Sys2Proof.Machine.execVstx v base b k ish s
  | .vstxo v base b k ish => Sys2Proof.Machine.execVstxo v base b k ish s
  | .vamoSwap d base b c k ish scope ar ret => Sys2Proof.Machine.execVamoSwap d base b c k ish scope ar ret s
  | .vamoAdd d base b c k ish scope ar ret => Sys2Proof.Machine.execVamoAdd d base b c k ish scope ar ret s
  | .vamoAnd d base b c k ish scope ar ret => Sys2Proof.Machine.execVamoAnd d base b c k ish scope ar ret s
  | .vamoOr d base b c k ish scope ar ret => Sys2Proof.Machine.execVamoOr d base b c k ish scope ar ret s
  | .vamoXor d base b c k ish scope ar ret => Sys2Proof.Machine.execVamoXor d base b c k ish scope ar ret s
  | .vamoMin d base b c k ish scope ar ret => Sys2Proof.Machine.execVamoMin d base b c k ish scope ar ret s
  | .vamoMax d base b c k ish scope ar ret => Sys2Proof.Machine.execVamoMax d base b c k ish scope ar ret s
  | .vamoMinu d base b c k ish scope ar ret => Sys2Proof.Machine.execVamoMinu d base b c k ish scope ar ret s
  | .vamoMaxu d base b c k ish scope ar ret => Sys2Proof.Machine.execVamoMaxu d base b c k ish scope ar ret s
  | .vamoFadd d base b c k ish scope ar ret => Sys2Proof.Machine.execVamoFadd d base b c k ish scope ar ret s
  | .vplane v base k pm1 => Sys2Proof.Machine.execVplane v base k pm1 s
  | .vcvt d a tag rm sat => Sys2Proof.Machine.execVcvt d a tag rm sat s
  | .vredmax d a x => Sys2Proof.Machine.execVredmax d a x s
  | .vredmin d a x => Sys2Proof.Machine.execVredmin d a x s
  | .vins d v x => Sys2Proof.Machine.execVins d v x s
  | .vbcast d x => Sys2Proof.Machine.execVbcast d x s
  | .viota d => Sys2Proof.Machine.execViota d s
  | .vcompress d a k => Sys2Proof.Machine.execVcompress d a k s
  | .mpopc d k => Sys2Proof.Machine.execMpopc d k s
  | .mfirst d k => Sys2Proof.Machine.execMfirst d k s
  | .vclz d a => Sys2Proof.Machine.execVclz d a s
  | .vpopc d a => Sys2Proof.Machine.execVpopc d a s
  | .postv d a va nm1 k => Sys2Proof.Machine.execPostv d a va nm1 k s
  | .vpopNw d port sd k limit => Sys2Proof.Machine.execVpopNw d port sd k limit s
  | .vpushNw v port sd k limit => Sys2Proof.Machine.execVpushNw v port sd k limit s
  | .hint a code => Sys2Proof.Machine.execHint a code s
  | .twoWordHint f1 f2 => Sys2Proof.Machine.execTwoWordHint f1 f2 s
  | .illegalInstruction w1 w2 => Sys2Proof.Machine.execIllegalInstruction w1 w2 s
  | .tret => Sys2Proof.Machine.execTret s
  | .idle => Sys2Proof.Machine.execIdle s
  | .endStrand => Sys2Proof.Machine.execEndStrand s
  | .yield => Sys2Proof.Machine.execYield s
  | .brk => Sys2Proof.Machine.execBrk s
  | .tlbia => Sys2Proof.Machine.execTlbia s
  | .ion => Sys2Proof.Machine.execIon s
  | .ioff => Sys2Proof.Machine.execIoff s
  | .melse => Sys2Proof.Machine.execMelse s
  | .mend => Sys2Proof.Machine.execMend s
  | .asyncTrapEntry => Sys2Proof.Machine.execAsyncTrapEntry s
  | .wdogExpiry => Sys2Proof.Machine.execWdogExpiry s
  | .vlenWrite => Sys2Proof.Machine.execVlenWrite s
  | .vtypeWrite => Sys2Proof.Machine.execVtypeWrite s
  | .fflagsWrite => Sys2Proof.Machine.execFflagsWrite s
  | .portenWrite => Sys2Proof.Machine.execPortenWrite s
  | .vbackWrite => Sys2Proof.Machine.execVbackWrite s
  | .vqctlDrop => Sys2Proof.Machine.execVqctlDrop s
  | .detBackingWrite => Sys2Proof.Machine.execDetBackingWrite s
  | .lqbaseWrite => Sys2Proof.Machine.execLqbaseWrite s
  | .lqdoor => Sys2Proof.Machine.execLqdoor s
  | .reloadRcb => Sys2Proof.Machine.execReloadRcb s
  | .killRcb => Sys2Proof.Machine.execKillRcb s
  | .attest => Sys2Proof.Machine.execAttest s
  | .xgrant => Sys2Proof.Machine.execXgrant s
  | .vfirq => Sys2Proof.Machine.execVfirq s
  | .createPart => Sys2Proof.Machine.execCreatePart s
  | .destroyPart => Sys2Proof.Machine.execDestroyPart s
  | .preset => Sys2Proof.Machine.execPreset s
  | .bhreset => Sys2Proof.Machine.execBhreset s
  | .bhpower => Sys2Proof.Machine.execBhpower s
  | .winopen => Sys2Proof.Machine.execWinopen s
  | .winclose => Sys2Proof.Machine.execWinclose s
  | .s2inv => Sys2Proof.Machine.execS2inv s
  | .setrcb => Sys2Proof.Machine.execSetrcb s
  | .monupd => Sys2Proof.Machine.execMonupd s
  | .poladd => Sys2Proof.Machine.execPoladd s
  | .poldel => Sys2Proof.Machine.execPoldel s
  | .withdrawCore => Sys2Proof.Machine.execWithdrawCore s
  | .returnCore => Sys2Proof.Machine.execReturnCore s
  | .removeCore => Sys2Proof.Machine.execRemoveCore s
  | .dispatchSelection => Sys2Proof.Machine.execDispatchSelection s
  | .launchRecordTake => Sys2Proof.Machine.execLaunchRecordTake s
  | .launchStart => Sys2Proof.Machine.execLaunchStart s
  | .fenceRecord => Sys2Proof.Machine.execFenceRecord s
  | .strandSwitchOut => Sys2Proof.Machine.execStrandSwitchOut s
  | .strandResume => Sys2Proof.Machine.execStrandResume s
  | .forcedSave => Sys2Proof.Machine.execForcedSave s
  | .poolExhausted => Sys2Proof.Machine.execPoolExhausted s
  | .periodBoundary => Sys2Proof.Machine.execPeriodBoundary s
  | .parkedWordMoveIn => Sys2Proof.Machine.execParkedWordMoveIn s
  | .barrierTimeout => Sys2Proof.Machine.execBarrierTimeout s
  | .matrixJob => Sys2Proof.Machine.execMatrixJob s
  | .teCopy => Sys2Proof.Machine.execTeCopy s
  | .teGather => Sys2Proof.Machine.execTeGather s
  | .teMcast => Sys2Proof.Machine.execTeMcast s
  | .tePut => Sys2Proof.Machine.execTePut s
  | .tePutadd => Sys2Proof.Machine.execTePutadd s
  | .teFeedin => Sys2Proof.Machine.execTeFeedin s
  | .teFeedout => Sys2Proof.Machine.execTeFeedout s
  | .feedVectorMove => Sys2Proof.Machine.execFeedVectorMove s
  | .inboundPut => Sys2Proof.Machine.execInboundPut s
  | .seSort => Sys2Proof.Machine.execSeSort s
  | .rbeRaster => Sys2Proof.Machine.execRbeRaster s
  | .rbeOpen => Sys2Proof.Machine.execRbeOpen s
  | .rbeClose => Sys2Proof.Machine.execRbeClose s
  | .rbeCancel => Sys2Proof.Machine.execRbeCancel s
  | .rbeSeqreset => Sys2Proof.Machine.execRbeSeqreset s
  | .fragmentBatch => Sys2Proof.Machine.execFragmentBatch s
  | .batchCommit => Sys2Proof.Machine.execBatchCommit s
  | .gapTimeout => Sys2Proof.Machine.execGapTimeout s
  | .txuSample => Sys2Proof.Machine.execTxuSample s
  | .rtBind => Sys2Proof.Machine.execRtBind s
  | .rtUnbind => Sys2Proof.Machine.execRtUnbind s
  | .rtDrop => Sys2Proof.Machine.execRtDrop s
  | .rtTrace => Sys2Proof.Machine.execRtTrace s
  | .rtReply => Sys2Proof.Machine.execRtReply s
  | .rayBatchRelease => Sys2Proof.Machine.execRayBatchRelease s
  | .collectionOpen => Sys2Proof.Machine.execCollectionOpen s
  | .collectionClose => Sys2Proof.Machine.execCollectionClose s
  | .rouDeposit => Sys2Proof.Machine.execRouDeposit s
  | .rouBatchRelease => Sys2Proof.Machine.execRouBatchRelease s
  | .hostIpaAccess => Sys2Proof.Machine.execHostIpaAccess s
  | .pfHypAccess => Sys2Proof.Machine.execPfHypAccess s
  | .pfdoor => Sys2Proof.Machine.execPfdoor s
  | .vfdoor => Sys2Proof.Machine.execVfdoor s
  | .vfsup => Sys2Proof.Machine.execVfsup s
  | .linkLoss => Sys2Proof.Machine.execLinkLoss s
  | .deviceReset => Sys2Proof.Machine.execDeviceReset s
  | .railPllFault => Sys2Proof.Machine.execRailPllFault s
  | .bulkheadUncorrectableError => Sys2Proof.Machine.execBulkheadUncorrectableError s
  | .dispatcherWatchdog => Sys2Proof.Machine.execDispatcherWatchdog s
  | .bulkheadResetComplete => Sys2Proof.Machine.execBulkheadResetComplete s
  | .powerOnComplete => Sys2Proof.Machine.execPowerOnComplete s
  | .scrubComplete => Sys2Proof.Machine.execScrubComplete s
  | .serviceCoreError => Sys2Proof.Machine.execServiceCoreError s
  | .illegalEntry => Sys2Proof.Machine.execIllegalEntry s
  | .fetchFault => Sys2Proof.Machine.execFetchFault s
  | .boundedStreamLimit => Sys2Proof.Machine.execBoundedStreamLimit s

end Sys2Proof.Machine
end

