-- ==== Sys2Proof/Machine/Fetch.lean ====
section
/-! DEFINITION. What a strand does when it moves (R73-R76, R99, R156, R158, R167): a pending trap, an asynchronous event,
or the instruction at its pc. -/

namespace Sys2Proof.Machine

/-- The step that a fetch fault is, with its address and route (R99). -/
def faultEv (va : Word) (r : Route) : Instr × EvArgs :=
  (.fetchFault, { EvArgs.none with
    v := va
    x := match r with
      | .sup => 0
      | .hyp => 1
      | .s2 _ => 2
      | .mon => 3
    y := match r with
      | .s2 ipa => ipa.toNat
      | _ => 0 })

/-- The instruction at the pc of the executing strand, checked in the order of R99: the first word's fetch, illegal entry,
the second word's fetch, the encoding. A word of kind 01 without its second is illegal, and TRAPVAL holds both words. -/
def fetchInstr : M (Instr × EvArgs) := do
  modMe fun t => { t with taint := false }
  let t ← me
  match ← fetchWord t.pl t.pc with
  | .fault r => return faultEv t.pc r
  | .word w1 =>
    match (wordKind w1).toNat with
    | 3 => return (.illegalEntry, EvArgs.none)
    | 1 =>
      match ← fetchWord t.pl (t.pc + 4) with
      | .fault r => return faultEv (t.pc + 4) r
      | .word w2 =>
        let i := if wordKind w2 = 3 then decodePair w1 w2 else none
        return (i.getD (.illegalInstruction w1 w2), EvArgs.none)
    | 0 => return ((decodeOne w1).getD (.illegalInstruction w1 0), EvArgs.none)
    | _ => return (.illegalInstruction w1 0, EvArgs.none)

/-- A step with its operands. -/
def execEvent (i : Instr) (a : EvArgs) (s : State) : StepOut := exec i { s with ev := a }

/-- The pending vector trap of a resumed strand (R167): it is taken before the strand's first instruction. -/
def takeVTrap (s : State) (t : VTrap) : State :=
  { s with me := { s.me with vtrap := none } }.takeTrap
    ⟨t.cause, t.val, (t.ipa.map Route.s2).getD .sup⟩ false true

/-- The executing strand moves: a pending vector trap (R167), then an asynchronous event (R156), then the instruction at
its pc. An `idle` that waits is not abandoned: it retires first (R220). -/
def runMe (s : State) : StepOut :=
  match s.me.vtrap with
  | some t => .next (takeVTrap s t)
  | none =>
    if !s.pendingAsync.isEmpty && !s.me.idling then execEvent .asyncTrapEntry { EvArgs.none with x := s.me.uid } s
    else match fetchInstr.run s with
      | .ok (i, a) s' => execEvent i a s'
      | .error _ _ => .next s

end Sys2Proof.Machine
end

