-- ==== Sys2Proof/Machine/Late.lean ====
section
/-! DEFINITION. Scalar loads that take their values after later instructions (R127, R131; log 11): how one is issued, and what a strand
executes while its late loads are on their way. -/

namespace Sys2Proof.Machine

/-- A plain scalar load (R205): its register, base and offset, its bytes, whether it extends the sign, its length. -/
structure PlainLoad where
  d : SReg
  b : SReg
  off : Word
  size : Nat
  signed : Bool
  len : Nat
  deriving DecidableEq, Repr

/-- The plain scalar loads (R205). -/
def Instr.plainLoad : Instr → Option PlainLoad
  | .lb d b i => some ⟨d, b, i.signExtend 64, 1, true, 4⟩
  | .lbL d b i => some ⟨d, b, i.signExtend 64, 1, true, 8⟩
  | .lh d b i => some ⟨d, b, i.signExtend 64, 2, true, 4⟩
  | .lhL d b i => some ⟨d, b, i.signExtend 64, 2, true, 8⟩
  | .lw d b i => some ⟨d, b, i.signExtend 64, 4, true, 4⟩
  | .lwL d b i => some ⟨d, b, i.signExtend 64, 4, true, 8⟩
  | .ld d b i => some ⟨d, b, i.signExtend 64, 8, false, 4⟩
  | .ldL d b i => some ⟨d, b, i.signExtend 64, 8, false, 8⟩
  | .lbu d b i => some ⟨d, b, i.signExtend 64, 1, false, 4⟩
  | .lbuL d b i => some ⟨d, b, i.signExtend 64, 1, false, 8⟩
  | .lhu d b i => some ⟨d, b, i.signExtend 64, 2, false, 4⟩
  | .lhuL d b i => some ⟨d, b, i.signExtend 64, 2, false, 8⟩
  | .lwu d b i => some ⟨d, b, i.signExtend 64, 4, false, 4⟩
  | .lwuL d b i => some ⟨d, b, i.signExtend 64, 4, false, 8⟩
  | _ => none

/-- A scalar access by its encoding: the registers that it reads before its base, the base and offset, its bytes (0: the granule of
64), and what it does (R205-R207, R226). -/
structure ScalarAccess where
  first : List SReg
  b : SReg
  off : Word
  size : Nat
  acc : Acc
  deriving DecidableEq, Repr

/-- The scalar access that an instruction makes. -/
def Instr.scalarAccess (i : Instr) : Option ScalarAccess :=
  match i with
  | .sb x b i => some ⟨[x], b, i.signExtend 64, 1, .w⟩
  | .sbL x b i => some ⟨[x], b, i.signExtend 64, 1, .w⟩
  | .sh x b i => some ⟨[x], b, i.signExtend 64, 2, .w⟩
  | .shL x b i => some ⟨[x], b, i.signExtend 64, 2, .w⟩
  | .sw x b i => some ⟨[x], b, i.signExtend 64, 4, .w⟩
  | .swL x b i => some ⟨[x], b, i.signExtend 64, 4, .w⟩
  | .sd x b i => some ⟨[x], b, i.signExtend 64, 8, .w⟩
  | .sdL x b i => some ⟨[x], b, i.signExtend 64, 8, .w⟩
  | .ldsync _ b i => some ⟨[], b, i.signExtend 64, 8, .r⟩
  | .fclr b i => some ⟨[], b, i.signExtend 64, 0, .w⟩
  | .ldsyncL _ b i => some ⟨[], b, i.signExtend 64, 8, .r⟩
  | .fclrL b i => some ⟨[], b, i.signExtend 64, 0, .w⟩
  | .amoSwap _ a _ _ w _ => some ⟨[], a, 0, AmoOp.size .swap w.toNat, .rw⟩
  | .amoAdd _ a _ _ w _ => some ⟨[], a, 0, AmoOp.size .add w.toNat, .rw⟩
  | .amoAnd _ a _ _ w _ => some ⟨[], a, 0, AmoOp.size .and w.toNat, .rw⟩
  | .amoOr _ a _ _ w _ => some ⟨[], a, 0, AmoOp.size .or w.toNat, .rw⟩
  | .amoXor _ a _ _ w _ => some ⟨[], a, 0, AmoOp.size .xor w.toNat, .rw⟩
  | .amoMin _ a _ _ w _ => some ⟨[], a, 0, AmoOp.size .min w.toNat, .rw⟩
  | .amoMax _ a _ _ w _ => some ⟨[], a, 0, AmoOp.size .max w.toNat, .rw⟩
  | .amoMinu _ a _ _ w _ => some ⟨[], a, 0, AmoOp.size .minu w.toNat, .rw⟩
  | .amoMaxu _ a _ _ w _ => some ⟨[], a, 0, AmoOp.size .maxu w.toNat, .rw⟩
  | .amoCas d a _ _ w _ => some ⟨[d], a, 0, AmoOp.size .cas w.toNat, .rw⟩
  | .amoFadd _ a _ _ w _ => some ⟨[], a, 0, AmoOp.size .fadd w.toNat, .rw⟩
  | .postCall _ a b => some ⟨[a], b, 0, 64, .r⟩
  | _ => (Instr.plainLoad i).map fun l => ⟨[], l.b, l.off, l.size, .r⟩

/-- May an instruction execute before an earlier scalar load has taken its value (R127)? Not a release (R129), not a fence with s in
its predecessor set (R128); before what else may wait for the whole strand the loads come first as well. -/
def Instr.passes : Instr → Bool
  | .fence _ p _ => !p.getLsbD 0
  | .amoSwap _ _ _ _ _ ar => ar = 0
  | .amoAdd _ _ _ _ _ ar => ar = 0
  | .amoAnd _ _ _ _ _ ar => ar = 0
  | .amoOr _ _ _ _ _ ar => ar = 0
  | .amoXor _ _ _ _ _ ar => ar = 0
  | .amoMin _ _ _ _ _ ar => ar = 0
  | .amoMax _ _ _ _ _ ar => ar = 0
  | .amoMinu _ _ _ _ _ ar => ar = 0
  | .amoMaxu _ _ _ _ _ ar => ar = 0
  | .amoCas _ _ _ _ _ ar => ar = 0
  | .amoFadd _ _ _ _ _ ar => ar = 0
  | .add .. | .sub .. | .and .. | .or .. | .xor .. | .andn .. | .orn .. | .sll .. | .srl .. | .sra .. | .rol .. | .ror ..
  | .slt .. | .sltu .. | .min .. | .max .. | .minu .. | .maxu .. | .mul .. | .mulh .. | .mulhu .. | .div .. | .divu .. | .rem ..
  | .remu .. | .clz .. | .ctz .. | .popc .. | .addw .. | .subw .. | .mulw .. | .addi .. | .andi .. | .ori .. | .xori ..
  | .slti .. | .sltiu .. | .slli .. | .srli .. | .srai .. | .rori .. | .lhi .. | .apc .. | .lb .. | .lh .. | .lw .. | .ld ..
  | .lbu .. | .lhu .. | .lwu .. | .ldsync .. | .sb .. | .sh .. | .sw .. | .sd .. | .fclr .. | .beq .. | .bne .. | .blt ..
  | .bge .. | .bltu .. | .bgeu .. | .jal .. | .jalr .. | .semWait .. | .semPoll .. | .postCall .. | .awaitCall ..
  | .probeCall .. | .otok .. | .vadd .. | .vsub .. | .vrsub .. | .vmul .. | .vmulh .. | .vdiv .. | .vrem .. | .vavg ..
  | .vmin .. | .vmax .. | .vand .. | .vor .. | .vxor .. | .vsll .. | .vsrl .. | .vsra .. | .vadds .. | .vsubs .. | .vwmul ..
  | .vdot4 .. | .vceq .. | .vcne .. | .vclt .. | .vcle .. | .vsel .. | .vmv .. | .vabs .. | .vneg .. | .vsqrt .. | .vrcp ..
  | .vexp2 .. | .vlog2 .. | .vaddVs .. | .vsubVs .. | .vrsubVs .. | .vmulVs .. | .vmulhVs .. | .vdivVs .. | .vremVs ..
  | .vavgVs .. | .vminVs .. | .vmaxVs .. | .vandVs .. | .vorVs .. | .vxorVs .. | .vsllVs .. | .vsrlVs .. | .vsraVs .. | .mif ..
  | .mbrk .. | .mand .. | .mor .. | .mxor .. | .mnot .. | .vslideup .. | .vslidedn .. | .vperm .. | .vredO .. | .vredR ..
  | .vscan .. | .vrecMul .. | .vrecMax .. | .vext .. | .vld .. | .vlds .. | .vldff .. | .vpop .. | .vst .. | .vsts ..
  | .vpush .. | .vsetl .. | .vtag .. | .fadd .. | .fsub .. | .fmul .. | .fdiv .. | .fsqrt .. | .fmin .. | .fmax .. | .feq ..
  | .flt .. | .fle .. | .fclass .. | .fcvt .. | .nop .. | .pfL1 .. | .pfL2 .. | .pfSt .. | .limm .. | .lbL .. | .lhL ..
  | .lwL .. | .ldL .. | .lbuL .. | .lhuL .. | .lwuL .. | .ldsyncL .. | .sbL .. | .shL .. | .swL .. | .sdL .. | .fclrL ..
  | .jalL .. | .fma .. | .fms .. | .fnma .. | .fnms .. | .vfma .. | .vfms .. | .vfnma .. | .vfnms .. | .vmopO .. | .vmopR ..
  | .vmzero .. | .vmrd .. | .vldx .. | .vstx .. | .vstxo .. | .vamoSwap .. | .vamoAdd .. | .vamoAnd .. | .vamoOr ..
  | .vamoXor .. | .vamoMin .. | .vamoMax .. | .vamoMinu .. | .vamoMaxu .. | .vamoFadd .. | .vplane .. | .vcvt .. | .vredmax ..
  | .vredmin .. | .vins .. | .vbcast .. | .viota .. | .vcompress .. | .mpopc .. | .mfirst .. | .vclz .. | .vpopc .. | .postv ..
  | .vpopNw .. | .vpushNw .. | .hint .. | .twoWordHint .. | .melse .. | .mend .. => true
  | _ => false

/-- The scalar registers that late loads will write. -/
def Strand.lateMask (t : Strand) : BitVec 32 := t.late.foldl (fun m l => setBit m l.d.toNat true) 0

/-- The registers of the executing strand's late loads are pending, as those of queued entries are (R127, R238). -/
def State.pendLate (s : State) : State := { s with me := { s.me with spend := s.me.spend ||| s.me.lateMask } }

/-- They are no longer marked. -/
def State.unpend (m : BitVec 32) (s : State) : State := { s with me := { s.me with spend := s.me.spend &&& ~~~m } }

/-- Does an instruction touch a byte that a late load is still to read (R127)? -/
def State.crosses (s : State) (i : Instr) : Bool :=
  match Instr.scalarAccess i with
  | none => false
  | some x =>
    let at' : M Place := do
      for r in x.first do
        let _ ← readS r
      place ((← readS x.b) + x.off) x.acc 0
    match at'.run s with
    | .error _ _ => false
    | .ok pl _ =>
      let (a, n) := if x.size = 0 then (pl.addr / 64 * 64, 64) else (pl.addr, x.size)
      s.me.late.any fun l => meets a n l.addr l.size

/-- A plain scalar load is issued, and its value is taken later: what traps and waits is as of the load itself (R205). -/
def issueLate (l : PlainLoad) : M Unit := do
  let ea := (← readS l.b) + l.off
  aligned ea l.size
  let pl ← place ea .r 6
  waitFor !((← me).spend.getLsbD l.d.toNat)
  modMe fun t => { t with late := t.late ++ [⟨l.d, pl.addr, pl.lags, l.size, l.signed, t.taint⟩] }
  advance l.len

/-- The instruction at the pc of the executing strand, where nothing else comes first. -/
def State.upcoming (s : State) : Option (Instr × EvArgs × State) :=
  if s.me.vtrap.isSome || (!s.pendingAsync.isEmpty && !s.me.idling) then none
  else match fetchInstr.run s with
    | .ok (i, a) s' => some (i, a, s')
    | .error _ _ => none

/-- A strand with late loads moves: an instruction that may pass them executes with their registers pending; where it may not, or does
not go on, the oldest of them takes its value. -/
def runPast (s : State) : StepOut :=
  let land := runInstr (landLate 0) s
  match s.upcoming with
  | none => land
  | some (i, a, s1) =>
    let s2 := s1.pendLate
    if !Instr.passes i || s2.crosses i then land
    else match execEvent i a s2 with
      | .next t => if t.me.uid = s.me.uid && t.me.pc = s.me.pc then land else .next (t.unpend s.me.lateMask)
      | o => o

/-- A strand of a name moves, if it holds a slot. -/
def runStrand (uid : Nat) (s : State) : StepOut :=
  let s := s.switchTo uid
  if s.me.uid = uid && s.me.resident then (if s.me.late.isEmpty then runMe s else runPast s) else .next s

/-- A strand of a name issues the plain scalar load at its pc, to take the value later; if it cannot, it moves as it otherwise does. -/
def runLate (uid : Nat) (s : State) : StepOut :=
  let s0 := s.switchTo uid
  let usual := runStrand uid s
  if s0.me.uid != uid || !s0.me.resident then usual
  else match s0.upcoming with
    | none => usual
    | some (i, _, s1) =>
      let s2 := s1.pendLate
      match Instr.plainLoad i with
      | none => usual
      | some l =>
        if l.d = 0 || s0.me.isPort l.d || s2.crosses i then usual
        else match runInstr (issueLate l) s2 with
          | .next t => .next (t.unpend s0.me.lateMask)
          | o => o

/-- A late load of a strand of a name takes its value. -/
def runLand (uid k : Nat) (s : State) : StepOut :=
  let s := s.switchTo uid
  if s.me.uid = uid && s.me.live then runInstr (landLate k) s else .next s

end Sys2Proof.Machine
end

