-- ==== Sys2Proof/Machine/Schedule.lean ====
section
/-! DEFINITION. What may move next (log 12): when the agenda is empty, a micro-step chooses freely among what the device can
do and what can come from outside. -/

namespace Sys2Proof.Machine

/-- A step with operands `x` and `y`. -/
def ev2 (i : Instr) (x y : Nat) : Action := .event i { EvArgs.none with x := x, y := y }

/-- The moves of the strands: those that hold a slot (R177), their late loads (log 11), the vector queues that are not held (R164), and the ends of
bounded waits (R305). -/
def State.strandMoves (s : State) : List Action :=
  ((s.strands.filter Strand.resident).flatMap fun t =>
    [.run t.uid, .late t.uid] ++ (below t.late.length).map fun k => .land t.uid k) ++
  (s.strands.filter Strand.vready).flatMap fun t => [.vq t.uid, ev2 .boundedStreamLimit t.uid 0]

/-- The vector state of switched-out strands on withdrawn cores is saved (R452). -/
def State.drainMoves (s : State) : List Action :=
  (s.strands.filter fun t => t.live && t.place.isNone && (match s.coreOf t with
    | some c => (s.ctl c).wd
    | none => false)).map fun t => ev2 .forcedSave t.uid 0

/-- The moves of a partition's dispatchers, pools, overflow store and barriers (R177, R184, R190, R196, R315, R324). -/
def State.partMoves (s : State) (p : Part) : List Action :=
  (if s.canSelect p then [ev2 .dispatchSelection p.pid 0] else []) ++
  ((below 64).filter fun q => (s.headRecord p q).isSome).flatMap (fun q =>
    [ev2 .launchRecordTake p.pid q, ev2 .fenceRecord p.pid q]) ++
  (p.pools.flatMap fun x =>
    (if p.exhausted s.time x.rcb && !(s.poolStrands p x.rcb).isEmpty then [ev2 .poolExhausted p.pid x.rcb] else []) ++
    (if x.period = p.period s.time x.rcb then [] else [ev2 .periodBoundary p.pid x.rcb])) ++
  (p.parked.map fun w => ev2 .parkedWordMoveIn w.uid w.port) ++
  (p.bars.filter fun b => !b.arrived.isEmpty && b.deadline ≤ s.time.toNat).map fun b => ev2 .barrierTimeout p.pid b.id

/-- The steps that a call of a queue can be (R20): the one of its type acts. -/
def callMoves (c : Call) : List Instr :=
  match c.kind, c.queue with
  | 0, _ => [.matrixJob]
  | 1, 0 => [.teCopy, .teGather, .teMcast]
  | 1, 1 => [.tePut, .tePutadd]
  | 1, _ => [.teFeedin, .teFeedout, .feedVectorMove]
  | 2, _ => [.txuSample]
  | 3, _ => [.seSort]
  | 4, 0 => [.rbeRaster]
  | 4, 1 => [.fragmentBatch]
  | 4, _ => [.rbeOpen, .rbeClose, .rbeCancel, .rbeSeqreset]
  | 5, 0 => [.rtTrace]
  | 5, 1 => [.rtReply]
  | 5, _ => [.rtBind, .rtUnbind, .rtDrop]
  | _, _ => [.collectionOpen, .collectionClose, .rouDeposit]

/-- The moves of the engines (R29, R369-R410). -/
def State.engineMoves (s : State) : List Action :=
  (s.calls.flatMap fun c => (callMoves c).map fun i => ev2 i c.id 0) ++
  (s.rbe.flatMap fun x => [ev2 .batchCommit x.eng x.slot, ev2 .gapTimeout x.eng x.slot]) ++
  ((s.binds.flatMap fun b => (s.buffered b.eng b.ctx fun x _ => x.bind = b.num).map fun (h, _, _) =>
    Action.event .rayBatchRelease ⟨b.eng, h, b.num, wd b.ctx, false, []⟩)) ++
  (s.colls.map fun x => ev2 .rouBatchRelease x.eng x.uid)

/-- The ends of what bulkheads have begun (R417-R420). -/
def State.bulkheadMoves (s : State) : List Action :=
  (below 32).flatMap fun b =>
    let x := s.bh b
    (if x.rising then [ev2 .powerOnComplete b 0] else []) ++
    (if x.state = .scrub then [ev2 .scrubComplete b 0] else []) ++
    (if x.state = .reset then [ev2 .bulkheadResetComplete b 0] else [])

/-- Everything that the device itself can do next. -/
def State.enabled (s : State) : List Action :=
  s.strandMoves ++ s.drainMoves ++ s.parts.flatMap s.partMoves ++ s.engineMoves ++ s.bulkheadMoves

/-- What can come from outside the device, or fail in it (R419, R443, R448, R456-R462). -/
def outsideMoves : List Instr :=
  [.hostIpaAccess, .pfHypAccess, .pfdoor, .vfdoor, .vfsup, .inboundPut, .linkLoss, .deviceReset, .railPllFault,
    .bulkheadUncorrectableError, .dispatcherWatchdog, .serviceCoreError]

/-- Free operands of an event. -/
def State.freeArgs (s : State) : EvArgs :=
  let f := Config.free s.tick
  { x := f 2
    y := f 3
    z := f 4
    v := wd (f 5)
    flag := f 6 % 2 = 1
    data := (below (f 7)).map fun i => BitVec.ofNat 8 (f (9 + i)) }

/-- A strand's vector unit keeps up with its issue, or lags behind, from now on (log 10). -/
def State.pace (s : State) : Action → State
  | .run uid => s.modStrand uid fun t => { t with eager := Config.free s.tick 8 % 2 = 1 }
  | _ => s

/-- Walks that the device makes ahead of any access: for a strand that holds a slot, and for a call, at any address (R121). -/
def State.walksAhead (s : State) : List State :=
  let a := Config.free s.tick 9 % 2 ^ 64
  ((s.strands.filter Strand.resident).filterMap fun t => match t.owner.pid?, s.coreOf t with
    | some pid, some c => some (s.walkAhead (s.coreTlbs c) pid t.asid t.ptbase a)
    | _, _ => none) ++
  s.calls.map fun c => s.walkAhead c.tlbs c.pid c.asid c.ptbase a

/-- Choose what moves next: a step of the device, an event from outside, something that goes wrong (R12, R142, R437, R464), or a walk
ahead. -/
def State.schedule (s : State) : State :=
  let l := s.enabled
  let o := outsideMoves
  let m := s.mishaps ++ s.walksAhead
  let k := Config.free s.tick 0 % (l.length + o.length + m.length)
  match l[k]?, o[k - l.length]? with
  | some a, _ => { s.pace a with agenda := [a] }
  | none, some i => { s with agenda := [.event i s.freeArgs] }
  | none, none => nth m (k - l.length - o.length) s

/-- Perform an action. -/
def act (a : Action) (s : State) : StepOut :=
  match a with
  | .run uid => runStrand uid s
  | .late uid => runLate uid s
  | .land uid k => runLand uid k s
  | .vq uid => runQueue uid s
  | .event i args => execEvent i args s

end Sys2Proof.Machine
end

