-- ==== Sys2Proof/Machine/Step.lean ====
section
/-! DEFINITION. One step of the device, and the placing of an instruction where the next step fetches it. -/

namespace Sys2Proof.Machine

/-- The gap timers that have reached their end come next (R379). -/
def State.forceGaps (s : State) : State :=
  { s with agenda := ((s.rbe.filter s.gapDue).map fun x => ev2 .gapTimeout x.eng x.slot) ++ s.agenda }

/-- The end of a step that goes on: queues without work lose their surplus (R191), and time passes. -/
def finish : StepOut → StepOut
  | .next s => .next s.idleQueues.tickOver.forceGaps
  | .fault f => .fault f
  | .refused r => .refused r

/-- One step: with an empty agenda a choice of what moves next; else the first action of the agenda. -/
def step (s : State) : Host.Outcome State Fault Refusal :=
  finish (match s.agenda with
    | [] => .next s.schedule
    | a :: rest => act a { s with agenda := rest })

/-- The state with an instruction stored where `step` fetches its next one: a strand at MON on a service core at offset 0
of service memory, after a boot that brought it there (log 12). -/
def State.withFetchWord (s : State) (nbits w : Nat) : State :=
  { s with
    agenda := [.run 0]
    bootst := 1
    me := { Strand.fresh 0 .mon with live := true, pl := .mon, place := some (⟨0, 8, 0, 0⟩, 0) }
    slots := [⟨⟨0, 8, 0, 0⟩, 0, 0⟩]
    mem := Mem.writeL s.mem (svcAt 0) (leBytes 8 (w % 2 ^ nbits)) }

end Sys2Proof.Machine
end

