-- ==== Sys2Proof/Safety.lean ====
section
/-! DEFINITION. The terms in which claims speak of a run: the canonical form that a state keeps, what a strand may read and
write without a trap or a wait, the state after an instruction that only writes registers, and tables of instructions of one
shape beside what the spec says they compute. -/

namespace Sys2Proof.Machine

/-- The invariant of every step: memory keeps its canonical form (log 1). -/
def State.Inv (s : State) : Prop := Memory.wf s.mem = true

/-- Register `r` is no enabled port (R141), waits for no queued entry (R238) and is not poisoned (R143): reading it neither
waits nor traps. -/
def Strand.readable (t : Strand) (r : SReg) : Prop :=
  t.isPort r = false ∧ t.spend.getLsbD r.toNat = false ∧ t.spoison.getLsbD r.toNat = false

/-- Register `r` is no enabled port (R141) and waits for no queued entry (R238): writing it does not wait. -/
def Strand.writable (t : Strand) (r : SReg) : Prop := t.isPort r = false ∧ t.spend.getLsbD r.toNat = false

/-- The state after an instruction of `n` bytes that writes `x` to register `d` (nothing, if `d` is s0) and does nothing
else. -/
def State.retire (s : State) (n : Nat) (d : SReg) (x : Word) : State :=
  { s with me := { s.me.setS d x with pc := s.me.pc + wd n } }

/-- The state after an instruction of `n` bytes that writes `x` to register `d`, ORs flags into the scalar flag set (R59),
and does nothing else. -/
def State.retireF (s : State) (n : Nat) (d : SReg) (x : Word) (fl : FSet) : State :=
  { s with me := { s.me.setS d x with pc := s.me.pc + wd n, fflags := s.me.fflags ||| fl } }

/-- The state after an instruction of `n` bytes that has no other effect. -/
def State.skip (s : State) (n : Nat) : State := { s with me := { s.me with pc := s.me.pc + wd n } }

/-- The words that wait in the queue of a port register, each with its error mark (R313). -/
def Strand.waiting (t : Strand) (r : SReg) : List (Word × Bool) := nth t.ports.toList (r.toNat - 28) []

/-- The strand with the oldest word of a port taken: its error mark poisons what the instruction writes (R313). -/
def Strand.popped (t : Strand) (r : SReg) : Strand :=
  { t with
    ports := t.ports.setIfInBounds (r.toNat - 28) (t.waiting r).tail
    taint := t.taint || ((t.waiting r).head?.map (·.2)).getD false }

/-- The integer instructions on two registers, with what R200 says `sd` receives (R46 for the divisions). -/
def threeReg : List ((SReg → SReg → SReg → Instr) × (Word → Word → Word)) := [
  (.add, fun a b => a + b), (.sub, fun a b => a - b), (.and, fun a b => a &&& b), (.or, fun a b => a ||| b),
  (.xor, fun a b => a ^^^ b), (.andn, fun a b => a &&& ~~~b), (.orn, fun a b => a ||| ~~~b),
  (.sll, fun a b => a <<< (b.toNat % 64)), (.srl, fun a b => a >>> (b.toNat % 64)),
  (.sra, fun a b => a.sshiftRight (b.toNat % 64)),
  (.rol, fun a b => a.rotateLeft (b.toNat % 64)), (.ror, fun a b => a.rotateRight (b.toNat % 64)),
  (.slt, fun a b => if a.toInt < b.toInt then 1 else 0), (.sltu, fun a b => if a.toNat < b.toNat then 1 else 0),
  (.min, fun a b => BitVec.ofInt 64 (min a.toInt b.toInt)), (.max, fun a b => BitVec.ofInt 64 (max a.toInt b.toInt)),
  (.minu, fun a b => wd (min a.toNat b.toNat)), (.maxu, fun a b => wd (max a.toNat b.toNat)),
  (.mul, fun a b => wd (a.toNat * b.toNat)),
  (.mulh, fun a b => BitVec.ofInt 64 (a.toInt * b.toInt / 2 ^ 64)), (.mulhu, fun a b => wd (a.toNat * b.toNat / 2 ^ 64)),
  (.div, fun a b => if b = 0 then BitVec.allOnes 64 else BitVec.ofInt 64 (a.toInt.tdiv b.toInt)),
  (.divu, fun a b => if b = 0 then BitVec.allOnes 64 else wd (a.toNat / b.toNat)),
  (.rem, fun a b => if b = 0 then a else BitVec.ofInt 64 (a.toInt.tmod b.toInt)),
  (.remu, fun a b => if b = 0 then a else wd (a.toNat % b.toNat)),
  (.addw, fun a b => (BitVec.ofNat 32 (a.toNat + b.toNat)).signExtend 64),
  (.subw, fun a b => (BitVec.ofInt 32 (a.toInt - b.toInt)).signExtend 64),
  (.mulw, fun a b => (BitVec.ofNat 32 (a.toNat * b.toNat)).signExtend 64)]

/-- The integer instructions on one register and an immediate, with what R201 and R202 say `sd` receives. -/
def immOps (i : BitVec 14) (n : BitVec 6) : List ((SReg → SReg → Instr) × (Word → Word)) := [
  (fun d a => .addi d a i, fun a => BitVec.ofInt 64 (a.toInt + i.toInt)),
  (fun d a => .andi d a i, fun a => a &&& i.signExtend 64),
  (fun d a => .ori d a i, fun a => a ||| i.signExtend 64),
  (fun d a => .xori d a i, fun a => a ^^^ i.signExtend 64),
  (fun d a => .slti d a i, fun a => if a.toInt < i.toInt then 1 else 0),
  (fun d a => .sltiu d a i, fun a => if a.toNat < (i.signExtend 64).toNat then 1 else 0),
  (fun d a => .slli d a n, fun a => a <<< n.toNat),
  (fun d a => .srli d a n, fun a => a >>> n.toNat),
  (fun d a => .srai d a n, fun a => a.sshiftRight n.toNat),
  (fun d a => .rori d a n, fun a => a.rotateRight n.toNat)]

/-- The branches, with the condition of R211. -/
def branches : List ((SReg → SReg → BitVec 14 → Instr) × (Word → Word → Prop)) := [
  (.beq, fun a b => a = b), (.bne, fun a b => a ≠ b),
  (.blt, fun a b => a.toInt < b.toInt), (.bge, fun a b => b.toInt ≤ a.toInt),
  (.bltu, fun a b => a.toNat < b.toNat), (.bgeu, fun a b => b.toNat ≤ a.toNat)]

/-- The instructions without an effect that a program sees: hints (R94, R95) and `nop`, with their length. -/
def hints (a : SReg) (code : BitVec 19) (f1 : BitVec 24) (f2 : BitVec 30) : List (Instr × Nat) := [
  (.nop a, 4), (.pfL1 a, 4), (.pfL2 a, 4), (.pfSt a, 4), (.hint a code, 4), (.twoWordHint f1 f2, 8)]

/-- The rounding mode that a static field selects, if it is one (R53): 0-4 as they are, 7 the mode in FRM. -/
def Strand.mode? (t : Strand) (rm : BitVec 3) : Option Nat :=
  let m := (if rm = 7 then t.frm else rm).toNat
  if m ≤ 4 then some m else none

/-- Feature group `g` is not masked for the executing strand (R98); a strand without a partition has no mask. -/
def State.allows (s : State) (g : Nat) : Prop := ∀ p, s.myPart? = some p → p.fmask.getLsbD g = false

/-- The rounded floating-point instructions on two registers (R215). -/
def fpArith : List ((SReg → SReg → SReg → BitVec 2 → BitVec 3 → Instr) × (Fmt → Nat → Nat → Nat → FRes)) := [
  (.fadd, fAdd), (.fsub, fSub), (.fmul, fMul), (.fdiv, fDiv)]

/-- The fused instructions (R218): is the product negated, and the addend? -/
def fpFused : List ((SReg → SReg → SReg → SReg → BitVec 2 → BitVec 3 → Instr) × Bool × Bool) := [
  (.fma, false, false), (.fms, false, true), (.fnma, true, false), (.fnms, true, true)]

/-- The scalar loads, short form (R204): size in bytes and the extension. -/
def loads : List ((SReg → SReg → BitVec 11 → Instr) × Nat × (Nat → Word)) := [
  (.lb, 1, fun x => (BitVec.ofNat 8 x).signExtend 64), (.lh, 2, fun x => (BitVec.ofNat 16 x).signExtend 64),
  (.lw, 4, fun x => (BitVec.ofNat 32 x).signExtend 64), (.ld, 8, fun x => BitVec.ofNat 64 x),
  (.lbu, 1, fun x => (BitVec.ofNat 8 x).setWidth 64), (.lhu, 2, fun x => (BitVec.ofNat 16 x).setWidth 64),
  (.lwu, 4, fun x => (BitVec.ofNat 32 x).setWidth 64)]

/-- The scalar loads, long form (R204). -/
def loadsL : List ((SReg → SReg → BitVec 41 → Instr) × Nat × (Nat → Word)) := [
  (.lbL, 1, fun x => (BitVec.ofNat 8 x).signExtend 64), (.lhL, 2, fun x => (BitVec.ofNat 16 x).signExtend 64),
  (.lwL, 4, fun x => (BitVec.ofNat 32 x).signExtend 64), (.ldL, 8, fun x => BitVec.ofNat 64 x),
  (.lbuL, 1, fun x => (BitVec.ofNat 8 x).setWidth 64), (.lhuL, 2, fun x => (BitVec.ofNat 16 x).setWidth 64),
  (.lwuL, 4, fun x => (BitVec.ofNat 32 x).setWidth 64)]

/-- The scalar loads of both forms with their offset applied: the instruction, its length, the offset as a 64-bit value, size
and extension (R204, R205). -/
def anyLoad (off : BitVec 11) (offL : BitVec 41) : List ((SReg → SReg → Instr) × Nat × Word × Nat × (Nat → Word)) :=
  (loads.map fun (f, n, e) => (fun d b => f d b off, 4, off.signExtend 64, n, e)) ++
  (loadsL.map fun (f, n, e) => (fun d b => f d b offL, 8, offL.signExtend 64, n, e))

/-- The scalar stores of both forms: the instruction, its length, the offset as a 64-bit value, and the size (R204, R205). -/
def anyStore (off : BitVec 11) (offL : BitVec 41) : List ((SReg → SReg → Instr) × Nat × Word × Nat) := [
  (fun x b => .sb x b off, 4, off.signExtend 64, 1), (fun x b => .sh x b off, 4, off.signExtend 64, 2),
  (fun x b => .sw x b off, 4, off.signExtend 64, 4), (fun x b => .sd x b off, 4, off.signExtend 64, 8),
  (fun x b => .sbL x b offL, 8, offL.signExtend 64, 1), (fun x b => .shL x b offL, 8, offL.signExtend 64, 2),
  (fun x b => .swL x b offL, 8, offL.signExtend 64, 4), (fun x b => .sdL x b offL, 8, offL.signExtend 64, 8)]

/-- The integer atomics (R207): what is written, from the width in bits, the old value, the operand and the comparand; none
for a `cas` that fails. -/
def atomics : List ((SReg → SReg → SReg → BitVec 2 → BitVec 2 → BitVec 1 → Instr) × (Nat → Nat → Nat → Nat → Option Nat)) := [
  (.amoSwap, fun _ _ v _ => some v), (.amoAdd, fun w o v _ => some ((o + v) % 2 ^ w)),
  (.amoAnd, fun _ o v _ => some (o &&& v)), (.amoOr, fun _ o v _ => some (o ||| v)),
  (.amoXor, fun _ o v _ => some (o ^^^ v)),
  (.amoMin, fun w o v _ => some (if toS w o ≤ toS w v then o else v)),
  (.amoMax, fun w o v _ => some (if toS w v ≤ toS w o then o else v)),
  (.amoMinu, fun _ o v _ => some (min o v)), (.amoMaxu, fun _ o v _ => some (max o v)),
  (.amoCas, fun _ o v c => if o = c then some v else none)]

/-- No path may still miss a store to the dwords of [a, a + n) (log 11). -/
def State.settled (s : State) (a n : Nat) : Prop :=
  ∀ x ∈ s.recent, x.addr + 8 ≤ a / 8 * 8 ∨ a + n ≤ x.addr

/-- No spilled DET accumulator meets [a, a + n) (R72). -/
def State.resting (s : State) (a n : Nat) : Prop := ∀ c ∈ s.accums, c.meets a n = true → c.spill = none

/-- No active DET accumulator meets [a, a + n) (R66). -/
def State.plainAt (s : State) (a n : Nat) : Prop := ∀ c ∈ s.accums, c.meets a n = false

/-- No scalar load of a strand is still to take its value (log 11). -/
def State.onTime (s : State) : Prop := ∀ t ∈ s.strands, t.late = []

/-- `s1` is `s` after late loads have taken their values (log 11): with none on its way in the device, only what paths may still miss
has changed. -/
def State.landsTo (s s1 : State) : Prop :=
  ∃ s0, s0 = { s with recent := s0.recent } ∧ s1 = s0.landAll ∧ (s.onTime → s1 = s0)

/-- The instructions that a level below theirs may not execute (R86): they trap before they read an operand. -/
def privileged (d a b : SReg) : List (Instr × Level) := [
  (.tret, .sup), (.ion, .sup), (.ioff, .sup), (.idle, .sup), (.tlbi a b, .sup), (.tlbia, .sup), (.testScan d a, .mon)]

/-- The messaging and engine-call instructions with their feature groups (R98): they need a partition (R467). -/
def grouped (d a b : SReg) (p : BitVec 2) : List (Instr × Nat) := [
  (.route p a, 3), (.barDef a b, 3), (.barArr a, 3), (.barWait a, 3), (.barAw a, 3), (.semSig a b, 3), (.semWait a b, 3),
  (.semPoll d a, 3), (.postCall d a b, 2), (.awaitCall d a, 2), (.probeCall d a, 2), (.otok d a, 2), (.xflush a, 2)]

/-- What a read of a control register gives (R144, R146, R423, R447). -/
def ctlReads (s : State) : List (Nat × Word) :=
  let t := s.me
  let b := t.bank t.pl
  let part := fun (f : Part → Word) => match s.myPart? with
    | some p => f p
    | none => 0
  let pend := match s.myPart? with
    | some p => (if p.pta then 1 else 0) + (if p.reqs = [] then 0 else 4)
    | none => 0
  let lc := match s.myPart? with
    | some p => wd (t.pos % p.w + (t.pos / p.w) * 2 ^ 16 + (p.w - 1) * 2 ^ 32 + (p.h - 1) * 2 ^ 48)
    | none => 0
  [(0x000, wd (t.pl.num + (if t.ie then 4 else 0) + (if s.vown t then 8 else 0) + (if t.vheld then 16 else 0))),
   (0x010, wd (t.vl.toNat + t.gvl.toNat * 2 ^ 16)), (0x011, wd (t.vtag.toNat + vlmax t.vtag.toNat * 2 ^ 16)),
   (0x012, t.vstart.setWidth 64), (0x013, t.vcommit), (0x021, t.frm.setWidth 64), (0x030, t.num.setWidth 64), (0x031, lc),
   (0x020, (t.lanes.toList.foldl (· ||| ·) t.fflags).setWidth 64),
   (0x040, t.porten.setWidth 64), (0x041, t.routes[0]), (0x042, t.routes[1]), (0x043, t.routes[2]), (0x044, t.routes[3]),
   (0x048, t.bartimeout.setWidth 64), (0x050, t.cycle), (0x051, s.time), (0x060, t.asid.setWidth 64), (0x061, t.ptbase),
   (0x101, t.sup.pc), (0x102, t.sup.cause), (0x103, t.sup.val), (0x104, t.sup.vec), (0x105, t.sup.vpc),
   (0x106, t.wdog.setWidth 64), (0x107, t.vback), (0x108, 0), (0x201, t.hyp.pc), (0x202, t.hyp.cause), (0x203, t.hyp.val),
   (0x204, t.hyp.vec), (0x205, t.hyp.vpc), (0x206, t.hyp.ipa.setWidth 64), (0x301, t.mon.pc), (0x302, t.mon.cause),
   (0x303, t.mon.val), (0x304, t.mon.vec), (0x305, t.mon.vpc), (0x306, t.mon.ipa.setWidth 64),
   (0x001, b.pc), (0x002, b.cause), (0x003, b.val), (0x004, b.vec),
   (0x070, wd (t.spoison.toNat + t.kpoison.toNat * 2 ^ 32 +
     (if t.vpoison = 0 then 0 else 2 ^ 40 + ctzN 64 t.vpoison.toNat * 2 ^ 48))),
   (0x109, wd (pend + (if t.wdgPend then 2 else 0))), (0x10A, part Part.suphome), (0x10B, part Part.ptactx),
   (0x110, part Part.detbase), (0x111, part Part.detcnt), (0x112, part Part.lqbase), (0x116, part Part.xgrant),
   (0x117, part Part.peertab), (0x330, wd ((if s.pfen then 1 else 0) + (if s.fwlock then 2 else 0))),
   (0x331, wd (s.fwbase.toNat + s.fwsize.toNat * 2 ^ 16)), (0x332, s.fwdrop.setWidth 64)]

/-- The vector queue is empty or held and the strand owns its vector state, so that an access that waits for the queue goes ahead
(R145, R165). -/
def State.queueQuiet (s : State) : Prop := (s.me.vheld = true ∨ s.me.vq = []) ∧ s.vown s.me = true

/-- The registers whose read waits for the vector queue (R145). -/
def readWaits : List Nat := [0x012, 0x013, 0x020, 0x070]

/-- The registers whose write waits for the vector queue (R145). -/
def writeWaits : List Nat := [0x010, 0x011, 0x012, 0x013]

/-- A read of a register goes ahead: VLEN and VTYPE wait only for a `vldff` that may still set VLEN (R145, R297). -/
def State.readsNow (s : State) (c : Nat) : Prop :=
  (c ∈ readWaits → s.queueQuiet) ∧ ((c = 0x010 ∨ c = 0x011) → s.me.vheld = true ∨ s.me.ldffQueued = false)

/-- What a write of a control register of the strand does (R59, R141, R144, R146, R235): reserved bits are not stored. -/
def ctlWrites (v : Word) : List (Nat × (Strand → Strand)) := [
  (0x000, fun t => { t with ie := v.getLsbD 2 }),
  (0x010, fun t => { t with vl := BitVec.ofNat 12 (min (v.toNat % 2 ^ 12) (min (vlmax t.vtag.toNat) t.gvl.toNat)) }),
  (0x011, fun t => { t with vtag := v.setWidth 4, vl := BitVec.ofNat 12 (min t.vl.toNat (vlmax (v.toNat % 16))) }),
  (0x012, fun t => { t with vstart := v.setWidth 12 }), (0x013, fun t => { t with vcommit := v }),
  (0x020, fun t => { t with fflags := v.setWidth 5, lanes := Vector.replicate 32 0 }),
  (0x021, fun t => { t with frm := v.setWidth 3 }), (0x040, fun t => { t with porten := v.setWidth 4 }),
  (0x041, fun t => { t with routes := t.routes.set 0 (v &&& routeMask) }),
  (0x042, fun t => { t with routes := t.routes.set 1 (v &&& routeMask) }),
  (0x043, fun t => { t with routes := t.routes.set 2 (v &&& routeMask) }),
  (0x044, fun t => { t with routes := t.routes.set 3 (v &&& routeMask) }),
  (0x048, fun t => { t with bartimeout := v.setWidth 6 }), (0x060, fun t => { t with asid := v.setWidth 16 }),
  (0x061, fun t => { t with ptbase := v &&& (0x0000FFFFFFFFE000 : Word) }),
  (0x001, fun t => t.setBank t.pl { t.bank t.pl with pc := v }),
  (0x002, fun t => t.setBank t.pl { t.bank t.pl with cause := v &&& 0x1FFF }),
  (0x003, fun t => t.setBank t.pl { t.bank t.pl with val := v }),
  (0x004, fun t => t.setBank t.pl { t.bank t.pl with vec := v &&& ~~~0x3C }),
  (0x070, fun t => { t with
    spoison := t.spoison &&& ~~~(v.setWidth 32), kpoison := t.kpoison &&& ~~~((v >>> 32).setWidth 8) }),
  (0x101, fun t => { t with sup := { t.sup with pc := v } }),
  (0x102, fun t => { t with sup := { t.sup with cause := v &&& 0x1FFF } }),
  (0x103, fun t => { t with sup := { t.sup with val := v } }),
  (0x104, fun t => { t with sup := { t.sup with vec := v &&& ~~~0x3C } }),
  (0x105, fun t => { t with sup := { t.sup with vpc := v } }),
  (0x106, fun t => { t with wdog := v.setWidth 32 }),
  (0x201, fun t => { t with hyp := { t.hyp with pc := v } }),
  (0x202, fun t => { t with hyp := { t.hyp with cause := v &&& 0x1FFF } }),
  (0x203, fun t => { t with hyp := { t.hyp with val := v } }),
  (0x204, fun t => { t with hyp := { t.hyp with vec := v &&& ~~~0x3C } }),
  (0x205, fun t => { t with hyp := { t.hyp with vpc := v } }),
  (0x206, fun t => { t with hyp := { t.hyp with ipa := v.setWidth 48 } }),
  (0x301, fun t => { t with mon := { t.mon with pc := v } }),
  (0x302, fun t => { t with mon := { t.mon with cause := v &&& 0x1FFF } }),
  (0x303, fun t => { t with mon := { t.mon with val := v } }),
  (0x304, fun t => { t with mon := { t.mon with vec := v &&& ~~~0x3C } }),
  (0x305, fun t => { t with mon := { t.mon with vpc := v } }),
  (0x306, fun t => { t with mon := { t.mon with ipa := v.setWidth 48 } })]

/-- What a write of a control register of the partition does (R146, R461): reserved bits are not stored. -/
def partWrites (v : Word) : List (Nat × (Part → Part)) := [
  (0x10A, fun p => { p with suphome := v &&& (0x8000000037FF07FF : Word) }),
  (0x117, fun p => { p with peertab := v &&& (0x0000FFFFFFFFF801 : Word) })]

/-- The instructions that write a register from sources that are registers or in the word, with the value and the length. -/
def writers (t : Strand) (d a b : SReg) (i : BitVec 14) (n : BitVec 6) (j : BitVec 19) (m : BitVec 49) :
    List (Instr × Word × Nat) :=
  (threeReg.map fun p => (p.1 d a b, p.2 (t.sreg a) (t.sreg b), 4)) ++
  ((immOps i n).map fun p => (p.1 d a, p.2 (t.sreg a), 4)) ++
  [(.lhi d j, BitVec.ofInt 64 (j.toInt * 2 ^ 14), 4), (.apc d j, t.pc + BitVec.ofInt 64 (j.toInt * 2 ^ 14), 4),
   (.limm d m, BitVec.ofInt 64 m.toInt, 8)]

/-- The rows of the opcode table that are a write of one of these registers. -/
def ownRows : List (Instr × Nat) := [(.vlenWrite, 0x010), (.vtypeWrite, 0x011), (.fflagsWrite, 0x020), (.portenWrite, 0x040)]

/-! ### Vector instructions -/

/-- The strand may issue a vector instruction, and its vector unit executes entries as they are issued (log 10): it runs, owns
the vector state of its slot (R165), its queue is empty and not held, no group is masked, VSTART is 0, FRM is a mode (R253),
nothing is pending from a call (R31) or poisoned (R143), no tile is open (R243), and the named registers are resident (R246). -/
def State.vecReady (s : State) (group : Nat) (named : List Nat) : Prop :=
  s.me.live = true ∧ s.me.place.isSome = true ∧ s.me.taint = false ∧ s.me.eager = true ∧ s.me.vheld = false ∧ s.me.vtrap = none ∧ s.me.vq = [] ∧ s.vown s.me = true ∧
  s.allows group ∧ s.me.vstart = 0 ∧ s.me.frm.toNat ≤ 4 ∧ s.me.vpend = 0 ∧ s.me.kpend = 0 ∧ s.me.vpoison = 0 ∧
  s.me.kpoison = 0 ∧ s.me.tiles = [] ∧ ∀ r ∈ named, (s.me.vres r).inSlot = true

/-- The strip of the next entry has begun (R130): where it is a new one, the strip before it has ended. -/
def State.inStrip (s : State) : State :=
  if s.me.running = s.me.strip then s
  else { s.closeStrip with me := { s.me with running := s.me.strip, deps := [] } }

/-- What an element-wise instruction does, as the spec's tables say it for a strand: the instruction, its length, the scalar
registers that it reads, the vector registers that it names, its governing mask, how many elements it has at most, the first
register of its destination group, the width of a destination element, the registers of the group, the tag that they take, the
results and flags that each active element may have, and whether its tags are allowed. -/
structure VecRow where
  i : Instr
  len : Nat
  scalars : List SReg
  named : List Nat
  mask : MBits
  cap : Nat
  d : Nat
  w : Nat
  g : Nat
  tag : Nat
  val : Nat → List FRes
  ok : Prop

/-- Is element `e` of an instruction active (R233, R240)? -/
def Strand.isActive (t : Strand) (mask : MBits) (cap e : Nat) : Bool :=
  decide (e < min t.vl.toNat cap) && mask.getLsbD e && t.cm.getLsbD e

/-- Flags of results that elements leave in lane set `l` (R59): element `e` ORs into set `e mod 32`. -/
def Strand.laneAfter (t : Strand) (mask : MBits) (cap : Nat) (res : Nat → FRes) (l : Nat) : FSet :=
  ((below (min t.vl.toNat cap)).filter fun e => t.isActive mask cap e && e % 32 == l).foldl (fun f e => f ||| (res e).2)
    (t.lanes.toList.getD l 0)

/-- `u` is `s` after an element-wise instruction (R239, R240, R246, R254): each active element of the destination has a result
that its row allows, the tags of its group are set, flags go to the lane sets, the entry has retired; other elements, registers,
tags and the rest of the state are as before. -/
def State.fills (s u : State) (x : VecRow) : Prop :=
  u = { s.inStrip with draw := u.draw, me := { s.inStrip.me with
    pc := s.me.pc + wd x.len, vcommit := s.me.vcommit + 1, vseq := s.me.vseq + 1, deps := u.me.deps, stamp := u.me.stamp
    v := u.me.v, tags := u.me.tags, res := u.me.res, lanes := u.me.lanes } } ∧
  (∃ res : Nat → FRes,
    (∀ e, s.me.isActive x.mask x.cap e = true → res e ∈ x.val e ∧ u.me.elemAt x.d x.w e = (res e).1 % 2 ^ x.w) ∧
    ∀ l, l < 32 → u.me.lanes.toList.getD l 0 = s.me.laneAfter x.mask x.cap res l) ∧
  (∀ e, s.me.isActive x.mask x.cap e = false → u.me.elemAt x.d x.w e = s.me.elemAt x.d x.w e) ∧
  ∀ r, r < 64 →
    (¬ (x.d ≤ r ∧ r < x.d + x.g) → u.me.vreg r = s.me.vreg r ∧ u.me.vtagOf r = s.me.vtagOf r ∧ u.me.vres r = s.me.vres r) ∧
    (x.d ≤ r ∧ r < x.d + x.g → u.me.vtagOf r = x.tag)

/-- The integer rows of R257 with V and VS forms, from the element format, the values and the patterns of the operands; and
the float rows, where there are any. -/
def vecBin : List ((VReg → VReg → VReg → KReg → Instr) × (VReg → VReg → SReg → KReg → Instr) ×
    (IFmt → Int → Int → Nat → Nat → Int) × Option (Fmt → Nat → Nat → Nat → FRes)) := [
  (.vadd, .vaddVs, fun _ x y _ _ => x + y, some fAdd), (.vsub, .vsubVs, fun _ x y _ _ => x - y, some fSub),
  (.vrsub, .vrsubVs, fun _ x y _ _ => y - x, some fun f m a b => fSub f m b a),
  (.vmul, .vmulVs, fun _ x y _ _ => x * y, some fMul),
  (.vmulh, .vmulhVs, fun f x y _ _ => x * y / (2 ^ f.n : Nat), none),
  (.vdiv, .vdivVs, fun _ x y _ _ => if y = 0 then -1 else x.tdiv y, some fDiv),
  (.vrem, .vremVs, fun _ x y _ _ => if y = 0 then x else x.tmod y, none),
  (.vavg, .vavgVs, fun _ x y _ _ => (x + y + 1) / 2, some fAvg),
  (.vmin, .vminVs, fun _ x y _ _ => min x y, some fun f _ a b => fMinMax f false a b),
  (.vmax, .vmaxVs, fun _ x y _ _ => max x y, some fun f _ a b => fMinMax f true a b),
  (.vsll, .vsllVs, fun f _ _ a b => (a * 2 ^ (b % f.n) : Nat), none),
  (.vsrl, .vsrlVs, fun f _ _ a b => (a / 2 ^ (b % f.n) : Nat), none),
  (.vsra, .vsraVs, fun f _ _ a b => toS f.n a / (2 ^ (b % f.n) : Nat), none)]

/-- The saturating additions, which have no VS form (R257). -/
def vecSat : List ((VReg → VReg → VReg → KReg → Instr) × (IFmt → Int → Int → Int)) := [
  (.vadds, fun f x y => max f.range.1 (min f.range.2 (x + y))), (.vsubs, fun f x y => max f.range.1 (min f.range.2 (x - y)))]

/-- The bitwise operations, for every tag (R256, R257). -/
def vecLogic : List ((VReg → VReg → VReg → KReg → Instr) × (VReg → VReg → SReg → KReg → Instr) × (Nat → Nat → Nat)) := [
  (.vand, .vandVs, fun a b => a &&& b), (.vor, .vorVs, fun a b => a ||| b), (.vxor, .vxorVs, fun a b => a ^^^ b)]

/-- One row with an element width, a destination and sources of one width (R252). -/
def Strand.row (t : Strand) (i : Instr) (len : Nat) (scalars : List SReg) (d : VReg) (srcs : List VReg) (mask : MBits)
    (val : Nat → List FRes) (ok : Prop) : VecRow :=
  let ta := t.vtagOf (srcs.headD d).toNat
  ⟨i, len, scalars, d.toNat :: srcs.map BitVec.toNat, mask, vlmax ta, d.toNat, widthOf ta, 1, ta, val, ok⟩

/-- The rows of the binary operations on registers and with a scalar (R257, R259). -/
def Strand.binRows (t : Strand) (d a b : VReg) (x : SReg) (k : KReg) : List VecRow :=
  let ta := t.vtagOf a.toNat
  let tb := t.vtagOf b.toNat
  let w := widthOf ta
  let el := fun (r : VReg) e => t.elemAt r.toNat w e
  let sc := (t.sreg x).toNat % 2 ^ w
  let km := t.kreg k.toNat
  let f := ifmtOfTag ta
  let num := fun (op : IFmt → Int → Int → Nat → Nat → Int) (fo : Option (Fmt → Nat → Nat → Nat → FRes)) (p q : Nat) =>
    if ta < 8 then (ofI w (op f (f.val p) (f.val q) p q), (0 : FSet)) else (fo.getD fAdd) (tagFmt ta) t.frm.toNat p q
  vecBin.flatMap (fun (v, vs, op, fo) => [
    t.row (v d a b k) 4 [] d [a, b] km (fun e => [num op fo (el a e) (el b e)])
      (tb = ta ∧ ta < 12 ∧ (fo.isSome = true ∨ ta < 8)),
    t.row (vs d a x k) 4 [x] d [a] km (fun e => [num op fo (el a e) sc]) (ta < 12 ∧ (fo.isSome = true ∨ ta < 8))]) ++
  vecSat.map (fun (v, op) =>
    t.row (v d a b k) 4 [] d [a, b] km (fun e => [(ofI w (op f (f.val (el a e)) (f.val (el b e))), 0)]) (tb = ta ∧ ta < 8)) ++
  vecLogic.flatMap (fun (v, vs, op) => [
    t.row (v d a b k) 4 [] d [a, b] km (fun e => [(op (el a e) (el b e), 0)]) (widthOf tb = w),
    t.row (vs d a x k) 4 [x] d [a] km (fun e => [(op (el a e) sc, 0)]) True])

/-- The rows of the operations on one register (R257, R265): `vabs` and `vneg` clear or flip the sign of a float. -/
def Strand.unRows (t : Strand) (d a : VReg) (k : KReg) : List VecRow :=
  let ta := t.vtagOf a.toNat
  let w := widthOf ta
  let el := fun e => t.elemAt a.toNat w e
  let km := t.kreg k.toNat
  let f := tagFmt ta
  let m := t.frm.toNat
  let signed := ta < 8 ∧ ta % 2 = 1
  let float := 8 ≤ ta ∧ ta < 12
  [t.row (.vmv d a k) 4 [] d [a] km (fun e => [(el e, 0)]) True,
   t.row (.vabs d a k) 4 [] d [a] km (fun e => [((if signed then ofI w (toS w (el e)).natAbs
     else if ta < 8 then el e else el e % 2 ^ (w - 1)), 0)]) (ta < 12),
   t.row (.vneg d a k) 4 [] d [a] km (fun e => [((if ta < 8 then ofI w (-(el e : Int)) else el e ^^^ 2 ^ (w - 1)), 0)]) (ta < 12),
   t.row (.vsqrt d a k) 4 [] d [a] km (fun e => [fSqrt f m (el e)]) float,
   t.row (.vrcp d a k) 4 [] d [a] km (fun e => [fRcp f m (el e)]) float,
   t.row (.vexp2 d a k) 4 [] d [a] km (fun e => [fExp2 f m (el e) false, fExp2 f m (el e) true]) float,
   t.row (.vlog2 d a k) 4 [] d [a] km (fun e => [fLog2 f m (el e) false, fLog2 f m (el e) true]) float,
   t.row (.vclz d a) 8 [] d [a] allOnes (fun e => [(clzN w (el e), 0)]) (ta < 8),
   t.row (.vpopc d a) 8 [] d [a] allOnes (fun e => [(popcount w (el e), 0)]) (ta < 8)]

/-- The fused instructions (R263): is the product negated, and the addend? -/
def vecFused : List ((VReg → VReg → VReg → VReg → KReg → BitVec 3 → Instr) × Bool × Bool) := [
  (.vfma, false, false), (.vfms, false, true), (.vfnma, true, false), (.vfnms, true, true)]

/-- The rows of the fused and the widening operations and of the conversions (R260, R261, R263, R264): a result depends on the
elements of the sources alone. -/
def Strand.mixRows (t : Strand) (d a b c : VReg) (k : KReg) (rm : BitVec 3) (m : Nat) (tg : BitVec 4) (sat : Bool) :
    List VecRow :=
  let ta := t.vtagOf a.toNat
  let tb := t.vtagOf b.toNat
  let w := widthOf ta
  let el := fun (r : VReg) e => t.elemAt r.toNat w e
  let sg := fun (neg : Bool) (x : Int) => if neg then -x else x
  let km := t.kreg k.toNat
  let f := tagFmt ta
  let wide := (wideTag ta).getD 0
  let dot := (dotTag ta).getD 0
  let (gs, gd) := cvtGroup ta tg.toNat
  vecFused.map (fun (v, np, nc) =>
    t.row (v d a b c k rm) 8 [] d [a, b, c] km (fun e => [
      if ta < 8 then (ofI w (sg np (el a e * el b e) + sg nc (el c e)), 0) else fFma f m (el a e) (el b e) (el c e) np nc])
      (tb = ta ∧ t.vtagOf c.toNat = ta ∧ ta < 12)) ++
  [{ t.row (.vwmul d a b k) 4 [] d [a, b] km (fun e => [wideMul ta wide t.frm.toNat (el a e) (el b e)])
       (tb = ta ∧ wideTag ta = some wide) with w := 2 * w, g := 2, tag := wide, named := a.toNat :: b.toNat :: group d 2 },
   { t.row (.vdot4 d a b k) 4 [] d [a, b] km (fun e => [dot4 ta dot t.frm.toNat (t.elemAt d.toNat 32 e)
       ((below 4).map fun j => (el a (4 * e + j), el b (4 * e + j)))])
       (tb = ta ∧ dotTag ta = some dot ∧ t.vtagOf d.toNat = dot) with w := 32, tag := dot, cap := vlmax ta / 4 },
   { t.row (.vcvt d a tg rm (if sat then 1 else 0)) 8 [] d [a] allOnes (fun e => [convert ta tg.toNat m sat (el a e)])
       (ta ≠ 15 ∧ tg ≠ 15 ∧ a.toNat % gs = 0 ∧ d.toNat % gd = 0 ∧
        ((gs = 1 ∧ gd = 1) ∨ ∀ r ∈ group a gs, r ∉ group d gd)) with
     w := widthOf tg.toNat, g := gd, tag := tg.toNat, named := group a gs ++ group d gd
     cap := min (8192 * gs / w) (8192 * gd / widthOf tg.toNat) }]

/-- The rows of the operations that move elements (R257, R266, R270, R271): `n` is the element count in force. -/
def Strand.moveRows (t : Strand) (d a b : VReg) (x : SReg) (k : KReg) : List VecRow :=
  let ta := t.vtagOf a.toNat
  let tb := t.vtagOf b.toNat
  let w := widthOf ta
  let el := fun (r : VReg) e => t.elemAt r.toNat w e
  let km := t.kreg k.toNat
  let n := min t.vl.toNat (vlmax ta)
  let v := (t.sreg x).toNat
  let tg := t.vtag.toNat
  let fill := fun (r : VecRow) => { r with named := [d.toNat], cap := vlmax tg, w := widthOf tg, tag := tg }
  [t.row (.vsel d a b k) 4 [] d [a, b] allOnes (fun e => [(if km.getLsbD e then el b e else el a e, 0)]) (widthOf tb = w),
   t.row (.vslideup d a x k) 4 [x] d [a] km (fun e => [(if e < v then el d e else el a (e - v), 0)]) True,
   t.row (.vslidedn d a x k) 4 [x] d [a] km (fun e => [(if e + v < n then el a (e + v) else 0, 0)]) True,
   t.row (.vperm d a b k) 4 [] d [a, b] km (fun e => [(if el b e < n then el a (el b e) else 0, 0)])
     (tb < 8 ∧ widthOf tb = w),
   fill (t.row (.vbcast d x) 8 [x] d [] allOnes (fun _ => [(v % 2 ^ widthOf tg, 0)]) True),
   fill (t.row (.viota d) 8 [] d [] allOnes (fun e => [(e, 0)]) (tg < 8))]

/-- The compares (R262): on integers by value, on floats by their operation. -/
def vecCmp : List ((KReg → VReg → VReg → KReg → Instr) × (Int → Int → Bool) × (Fmt → Nat → Nat → Bool × FSet)) := [
  (.vceq, fun x y => decide (x = y), fEq), (.vcne, fun x y => decide (x ≠ y), fun f a b => (!(fEq f a b).1, (fEq f a b).2)),
  (.vclt, fun x y => decide (x < y), (fLess · false)), (.vcle, fun x y => decide (x ≤ y), (fLess · true))]

/-- The mask-logic instructions (R267). -/
def maskLogic (d a b : KReg) : List (Instr × (Bool → Bool → Bool)) := [
  (.mand d a b, fun x y => x && y), (.mor d a b, fun x y => x || y), (.mxor d a b, fun x y => x != y), (.mnot d a, fun x _ => !x)]

/-- `u` is `s` after an instruction of `n` bytes that writes the active bits below `cap` of a mask register, k0 apart
(R140, R262, R267). -/
def State.masks (s u : State) (n : Nat) (d : KReg) (mask : MBits) (cap : Nat) (res : Nat → Bool × FSet) : Prop :=
  u = { s.inStrip with me := { s.inStrip.me with
    pc := s.me.pc + wd n, vcommit := s.me.vcommit + 1, vseq := s.me.vseq + 1, deps := u.me.deps, stamp := u.me.stamp, k := u.me.k
    lanes := u.me.lanes } } ∧
  (∀ j e, j < 8 → e < 2048 → (u.me.kreg j).getLsbD e =
    if j = d.toNat ∧ j ≠ 0 ∧ s.me.isActive mask cap e = true then (res e).1 else (s.me.kreg j).getLsbD e) ∧
  ∀ l, l < 32 → u.me.lanes.toList.getD l 0 = s.me.laneAfter mask cap (fun e => (0, (res e).2)) l

/-- The strand right after it has issued a vector instruction of `n` bytes as an entry (R237). -/
def State.issued (s : State) (i : Instr) (op : VOp) (n : Nat) : State :=
  { s with me := { s.me.enqueue (s.me.entry i op) with pc := s.me.pc + wd n } }

/-- `s` after the entry of an instruction of `n` bytes has executed at once, with nothing changed but what `f` changes (R239); `q`
is what its registers then hold of the strip's loads (R292). -/
def State.executed (s : State) (n : Nat) (named : List Nat) (q : List Dep) (f : Strand → Strand) : State :=
  { s.inStrip with me := { f s.inStrip.me with
    pc := s.me.pc + wd n, vcommit := s.me.vcommit + 1, vseq := s.me.vseq + 1, deps := q
    stamp := named.foldl (fun v r => v.setIfInBounds r s.me.vcommit) s.me.stamp } }

/-- The mask-stack instructions with what they make of the stack, from CM, its parent and the mask that they name
(R241, R268); does it push? -/
def maskStack (c : KReg) : List (Instr × VOp × Bool × (MBits → MBits → MBits → List MBits)) := [
  (.mif c, .mif c, true, fun cm _ x => [cm &&& x]), (.melse, .melse, false, fun cm parent _ => [parent &&& ~~~cm]),
  (.mend, .mend, false, fun _ _ _ => []), (.mbrk c, .mbrk c, false, fun cm _ x => [cm &&& ~~~x])]

/-- The active elements below `cap`, ascending. -/
def Strand.actives (t : Strand) (mask : MBits) (cap : Nat) : List Nat := (below (min t.vl.toNat cap)).filter (t.isActive mask cap)

/-- A value carried through active elements (R276, R277): `f e` makes the result at element `e` from the value carried. -/
def Strand.carried (t : Strand) (mask : MBits) (cap : Nat) (f : Nat → Nat → FRes) (c e : Nat) : FRes :=
  f e (((t.actives mask cap).filter (· < e)).foldl (fun c e => (f e c).1) c)

/-- a + b, and the larger of two, of a tag's format (R257, R274). -/
def addOf (ta m a b : Nat) : FRes := if ta < 8 then ((a + b) % 2 ^ widthOf ta, 0) else fAdd (tagFmt ta) m a b
/-- The larger or the smaller of two elements (R52, R275). -/
def pickOf (mx : Bool) (ta a b : Nat) : FRes :=
  if ta < 8 then
    let f := ifmtOfTag ta
    (ofI (widthOf ta) (if mx then max (f.val a) (f.val b) else min (f.val a) (f.val b)), 0)
  else fMinMax (tagFmt ta) mx a b

/-- The rows of the scan and the recurrences (R276, R277). -/
def Strand.carryRows (t : Strand) (d a : VReg) (x : SReg) (k : KReg) : List VecRow :=
  let ta := t.vtagOf a.toNat
  let w := widthOf ta
  let m := t.frm.toNat
  let el := fun (r : VReg) e => t.elemAt r.toNat w e
  let km := t.kreg k.toNat
  let c := (t.sreg x).toNat % 2 ^ w
  let fused := fun p q r : Nat => if ta < 8 then ((p * q + r) % 2 ^ w, (0 : FSet)) else fFma (tagFmt ta) m p q r false false
  let best := fun (p q r : Nat) =>
    let z := addOf ta m p r
    let y := pickOf true ta z.1 q
    (y.1, z.2 ||| y.2)
  [t.row (.vscan d a x k) 4 [x] d [a] km
     (fun e => [t.carried km (vlmax ta) (fun e c => addOf ta m c (el a e)) c e]) (ta < 12),
   t.row (.vrecMul d a x k) 4 [x] d [a] km
     (fun e => [t.carried km (vlmax ta) (fun e c => fused c (el a e) (el d e)) c e]) (t.vtagOf d.toNat = ta ∧ ta < 12),
   t.row (.vrecMax d a x k) 4 [x] d [a] km
     (fun e => [t.carried km (vlmax ta) (fun e c => best c (el a e) (el d e)) c e]) (t.vtagOf d.toNat = ta ∧ ta < 12)]

/-- `u` is `s` after a reduction of `n` bytes: element 0 of vd, its tag, flags into lane set 0, and nothing else but what every
entry changes (R274, R275). -/
def State.reduced (s u : State) (n : Nat) (d w tag : Nat) (x : FRes) : Prop :=
  u = { s.inStrip with draw := u.draw, me := { s.inStrip.me with
    pc := s.me.pc + wd n, vcommit := s.me.vcommit + 1, vseq := s.me.vseq + 1, deps := u.me.deps, stamp := u.me.stamp
    v := u.me.v, tags := u.me.tags, res := u.me.res, lanes := (s.me.laneOr 0 x.2).lanes } } ∧
  u.me.elemAt d w 0 = x.1 % 2 ^ w ∧ (∀ e, e ≠ 0 → u.me.elemAt d w e = s.me.elemAt d w e) ∧ u.me.vtagOf d = tag ∧
  ∀ r, r < 64 → r ≠ d → u.me.vreg r = s.me.vreg r ∧ u.me.vtagOf r = s.me.vtagOf r ∧ u.me.vres r = s.me.vres r

/-- What vector arithmetic, mask and tile instructions become in the queue (R237): the entry's operation, the length and the
feature group (R98). `x` and `y` are scalar registers that are read, `e` is a scalar destination. -/
def issuesArith (t : Strand) (d a b c : VReg) (x y e : SReg) (dk ak k : KReg) (rm : BitVec 3) (tg : BitVec 4) (g : BitVec 8)
    (f : BitVec 1) : List (Instr × VOp × Nat × Nat) :=
  let u := t.sreg x
  let v := t.sreg y
  [
    (.vadd d a b k, .bin .add d a (.reg b) k, 4, 0), (.vsub d a b k, .bin .sub d a (.reg b) k, 4, 0),
    (.vrsub d a b k, .bin .rsub d a (.reg b) k, 4, 0), (.vmul d a b k, .bin .mul d a (.reg b) k, 4, 0),
    (.vmulh d a b k, .bin .mulh d a (.reg b) k, 4, 0), (.vdiv d a b k, .bin .div d a (.reg b) k, 4, 0),
    (.vrem d a b k, .bin .rem d a (.reg b) k, 4, 0), (.vavg d a b k, .bin .avg d a (.reg b) k, 4, 0),
    (.vmin d a b k, .bin .min d a (.reg b) k, 4, 0), (.vmax d a b k, .bin .max d a (.reg b) k, 4, 0),
    (.vand d a b k, .bin .and d a (.reg b) k, 4, 0), (.vor d a b k, .bin .or d a (.reg b) k, 4, 0),
    (.vxor d a b k, .bin .xor d a (.reg b) k, 4, 0), (.vsll d a b k, .bin .sll d a (.reg b) k, 4, 0),
    (.vsrl d a b k, .bin .srl d a (.reg b) k, 4, 0), (.vsra d a b k, .bin .sra d a (.reg b) k, 4, 0),
    (.vadds d a b k, .bin .adds d a (.reg b) k, 4, 0), (.vsubs d a b k, .bin .subs d a (.reg b) k, 4, 0),
    (.vaddVs d a x k, .bin .add d a (.val u) k, 4, 0), (.vsubVs d a x k, .bin .sub d a (.val u) k, 4, 0),
    (.vrsubVs d a x k, .bin .rsub d a (.val u) k, 4, 0), (.vmulVs d a x k, .bin .mul d a (.val u) k, 4, 0),
    (.vmulhVs d a x k, .bin .mulh d a (.val u) k, 4, 0), (.vdivVs d a x k, .bin .div d a (.val u) k, 4, 0),
    (.vremVs d a x k, .bin .rem d a (.val u) k, 4, 0), (.vavgVs d a x k, .bin .avg d a (.val u) k, 4, 0),
    (.vminVs d a x k, .bin .min d a (.val u) k, 4, 0), (.vmaxVs d a x k, .bin .max d a (.val u) k, 4, 0),
    (.vandVs d a x k, .bin .and d a (.val u) k, 4, 0), (.vorVs d a x k, .bin .or d a (.val u) k, 4, 0)] ++
  [
    (.vxorVs d a x k, .bin .xor d a (.val u) k, 4, 0), (.vsllVs d a x k, .bin .sll d a (.val u) k, 4, 0),
    (.vsrlVs d a x k, .bin .srl d a (.val u) k, 4, 0), (.vsraVs d a x k, .bin .sra d a (.val u) k, 4, 0),
    (.vmv d a k, .un .mv d a k, 4, 0), (.vabs d a k, .un .abs d a k, 4, 0), (.vneg d a k, .un .neg d a k, 4, 0),
    (.vsqrt d a k, .un .sqrt d a k, 4, 0), (.vrcp d a k, .un .rcp d a k, 4, 0), (.vexp2 d a k, .un .exp2 d a k, 4, 0),
    (.vlog2 d a k, .un .log2 d a k, 4, 0), (.vclz d a, .un .clz d a 0, 8, 0), (.vpopc d a, .un .popc d a 0, 8, 0),
    (.vwmul d a b k, .wmul d a b k, 4, 0), (.vdot4 d a b k, .dot4 d a b k, 4, 0), (.vceq dk a b k, .cmp .eq dk a b k, 4, 0),
    (.vcne dk a b k, .cmp .ne dk a b k, 4, 0), (.vclt dk a b k, .cmp .lt dk a b k, 4, 0),
    (.vcle dk a b k, .cmp .le dk a b k, 4, 0), (.vsel d a b k, .sel d a b k, 4, 0),
    (.vfma d a b c k rm, .fma .fma d a b c k rm, 8, 0), (.vfms d a b c k rm, .fma .fms d a b c k rm, 8, 0),
    (.vfnma d a b c k rm, .fma .fnma d a b c k rm, 8, 0), (.vfnms d a b c k rm, .fma .fnms d a b c k rm, 8, 0),
    (.vcvt d a tg rm f, .cvt d a tg rm (f == 1), 8, 0), (.mif ak, .mif ak, 4, 0), (.melse, .melse, 4, 0),
    (.mend, .mend, 4, 0), (.mbrk ak, .mbrk ak, 4, 0), (.mand dk ak k, .mlog .and dk ak k, 4, 0)] ++
  [
    (.mor dk ak k, .mlog .or dk ak k, 4, 0), (.mxor dk ak k, .mlog .xor dk ak k, 4, 0),
    (.mnot dk ak, .mlog .not dk ak 0, 4, 0), (.vslideup d a x k, .slide true d a u k, 4, 0),
    (.vslidedn d a x k, .slide false d a u k, 4, 0), (.vperm d a b k, .perm d a b k, 4, 0),
    (.vredO d a x k, .red true d a u k, 4, 0), (.vredR d a x k, .red false d a u k, 4, 0),
    (.vredmax d a x, .redm true d a u, 8, 0), (.vredmin d a x, .redm false d a u, 8, 0),
    (.vscan d a x k, .scan d a u k, 4, 0), (.vrecMul d a x k, .recur false d a u k, 4, 0),
    (.vrecMax d a x k, .recur true d a u k, 4, 0), (.vext e a x, .ext e a u, 4, 0), (.vins d x y, .ins d u v, 8, 0),
    (.vbcast d x, .bcast d u, 8, 0), (.viota d, .iota d, 8, 0), (.vcompress d a k, .compress d a k, 8, 0),
    (.mpopc e k, .mpopc e k, 8, 0), (.mfirst e k, .mfirst e k, 8, 0), (.vtag d tg, .vtag d tg, 4, 0),
    (.vmopO d a b k g, .tile true d a b k g.toNat, 8, 1), (.vmopR d a b k g, .tile false d a b k g.toNat, 8, 1),
    (.vmzero d, .tileZero d, 8, 1), (.vmrd d, .tileRead d, 8, 1)]

/-- The same for the vector memory and stream instructions and `postv` (R284-R307). -/
def issuesMemory (t : Strand) (d b c : VReg) (x y e : SReg) (k : KReg) (h z : BitVec 2) (q : BitVec 3) (p : BitVec 4)
    (l : BitVec 16) (f r : BitVec 1) : List (Instr × VOp × Nat × Nat) :=
  let u := t.sreg x
  let v := t.sreg y
  [
    (.vld d x k, .ld d u .unit false k, 4, 0), (.vlds d y x k, .ld d u (.stride v) false k, 4, 0),
    (.vldff d x k, .ld d u .unit true k, 4, 0), (.vldx d x b k h, .ld d u (.index b h.toNat) false k, 8, 0),
    (.vst d x k, .st d u .unit false k, 4, 0), (.vsts d y x k, .st d u (.stride v) false k, 4, 0),
    (.vstx d x b k h, .st d u (.index b h.toNat) false k, 8, 0),
    (.vstxo d x b k h, .st d u (.index b h.toNat) true k, 8, 0), (.vplane d x k p, .plane d u k (p.toNat + 1), 8, 0),
    (.vpop d q k, .pop d q.toNat k, 4, 0), (.vpush d q k, .push d q.toNat k, 4, 0),
    (.vpopNw d q e k l, .popNw d q.toNat k e l.toNat, 8, 0), (.vpushNw d q e k l, .pushNw d q.toNat k e l.toNat, 8, 0),
    (.postv e x d p k, .postv e u d (p.toNat + 1) k, 8, 2),
    (.vamoSwap d x b c k h z f r, .amo .swap d u b h.toNat c k z.toNat (f == 1) (r == 1), 8, 0),
    (.vamoAdd d x b c k h z f r, .amo .add d u b h.toNat c k z.toNat (f == 1) (r == 1), 8, 0),
    (.vamoAnd d x b c k h z f r, .amo .and d u b h.toNat c k z.toNat (f == 1) (r == 1), 8, 0),
    (.vamoOr d x b c k h z f r, .amo .or d u b h.toNat c k z.toNat (f == 1) (r == 1), 8, 0),
    (.vamoXor d x b c k h z f r, .amo .xor d u b h.toNat c k z.toNat (f == 1) (r == 1), 8, 0),
    (.vamoMin d x b c k h z f r, .amo .min d u b h.toNat c k z.toNat (f == 1) (r == 1), 8, 0),
    (.vamoMax d x b c k h z f r, .amo .max d u b h.toNat c k z.toNat (f == 1) (r == 1), 8, 0),
    (.vamoMinu d x b c k h z f r, .amo .minu d u b h.toNat c k z.toNat (f == 1) (r == 1), 8, 0),
    (.vamoMaxu d x b c k h z f r, .amo .maxu d u b h.toNat c k z.toNat (f == 1) (r == 1), 8, 0),
    (.vamoFadd d x b c k h z f r, .amo .fadd d u b h.toNat c k z.toNat (f == 1) (r == 1), 8, 0)]

/-- No path misses a store to the bytes of these places, and none of them is in error or an active element (R66, R142;
log 11). -/
def State.quiet (s : State) (l : List Placed) : Prop :=
  ∀ x ∈ l, ∀ pl ∈ x.2, s.settled pl.addr x.1.size ∧ s.badAt pl.addr x.1.size = false ∧
    s.plainAt pl.addr x.1.size

/-- Two elements at one address have one place, two at different addresses disjoint places. -/
def apart (l : List Placed) : Prop :=
  ∀ x ∈ l, ∀ y ∈ l, (x.1.at' = y.1.at' → x.2 = y.2) ∧
    (x.1.at' ≠ y.1.at' → ∀ a ∈ x.2, ∀ b ∈ y.2, a.addr + x.1.size ≤ b.addr ∨ b.addr + y.1.size ≤ a.addr)

/-- The elements of a vector access of an issued entry and their places (R288, R289): all in one chunk, none refused. -/
def State.reaches (q : State) (acc : Acc) (extra : Place → Word → M Bool) (elts : List Elt) (l : List Placed) (q1 : State) :
    Prop :=
  takeChunk [] elts = (elts, []) ∧ (checkChunk acc extra elts).run q = .ok (l, none) q1

/-- The elements of an access by unit stride, stride or index (R288). -/
def State.elements (s : State) (m : VAddr) (base : Word) (w : Nat) (k : KReg) : List Elt :=
  (s.me.actives (s.me.kreg k.toNat) (m.cap s.me (8192 / w))).map fun i => ⟨i, [m.ea s.me base w i], max 1 (w / 8)⟩

/-- The vector loads with their address forms (R294, R296, R298). -/
def vecLoads (t : Strand) (d b : VReg) (x y : SReg) (k : KReg) (h : BitVec 2) : List (Instr × VAddr × Bool × Nat) := [
  (.vld d x k, .unit, false, 4), (.vlds d y x k, .stride (t.sreg y), false, 4), (.vldff d x k, .unit, true, 4),
  (.vldx d x b k h, .index b h.toNat, false, 8)]

/-- The vector stores with their address forms (R294, R298, R299). -/
def vecStores (t : Strand) (v b : VReg) (x y : SReg) (k : KReg) (h : BitVec 2) : List (Instr × VAddr × Bool × Nat) := [
  (.vst v x k, .unit, false, 4), (.vsts v y x k, .stride (t.sreg y), false, 4),
  (.vstx v x b k h, .index b h.toNat, false, 8), (.vstxo v x b k h, .index b h.toNat, true, 8)]

/-- The tags that an address form goes with (R287), for data of width `w`. -/
def VAddr.allows (m : VAddr) (t : Strand) (w : Nat) : Prop :=
  match m with
  | .unit => True
  | .stride _ => w ≠ 4
  | .index r _ => w ≠ 4 ∧ t.vtagOf r.toNat < 8

/-- An index register that is the destination `d` as well has the width `w` of the data (R242, R298). -/
def VAddr.fits (m : VAddr) (t : Strand) (d : VReg) (w : Nat) : Prop :=
  match m with
  | .index r _ => r = d → widthOf (t.vtagOf d.toNat) = w
  | _ => True

/-- The vector atomics on integers (R300): the new value from the width, the old one and the operand; for which tags. -/
def vecAtomics : List ((VReg → SReg → VReg → VReg → KReg → BitVec 2 → BitVec 2 → BitVec 1 → BitVec 1 → Instr) × AmoOp ×
    (Nat → Nat → Nat → Nat) × Nat) := [
  (.vamoSwap, .swap, fun _ _ v => v, 14), (.vamoAdd, .add, fun w o v => (o + v) % 2 ^ w, 8),
  (.vamoAnd, .and, fun _ o v => o &&& v, 14), (.vamoOr, .or, fun _ o v => o ||| v, 14),
  (.vamoXor, .xor, fun _ o v => o ^^^ v, 14), (.vamoMin, .min, fun w o v => if toS w v < toS w o then v else o, 8),
  (.vamoMax, .max, fun w o v => if toS w o < toS w v then v else o, 8), (.vamoMinu, .minu, fun _ o v => min o v, 8),
  (.vamoMaxu, .maxu, fun _ o v => max o v, 8)]

/-- No two strands have one name: a strand of the model is what its name says. -/
def State.named (s : State) : Prop := (s.strands.map (·.uid)).Nodup

/-! ### Engines -/

/-- The event names the call `c`, which lies in queue `q` of an engine of a kind (R16, R20). -/
def State.serves (s : State) (c : Call) (kind q : Nat) : Prop := s.call? s.ev.x = some c ∧ c.kind = kind ∧ c.queue = q

/-- What a put-add leaves in an element that holds `old` (R348): integers modulo their width, floats rounded to nearest even. -/
def addedTo (aop b old v : Nat) : Nat :=
  if aop = 4 then (old + v) % 2 ^ (8 * b) else (fAdd (nth [f32, bf16, f16] aop f64) 0 old v).1

/-- Elements of a transfer are read and written, one after the other, in the order of the loop (R346). -/
def moveAll (c : Call) (j : TJob) (x : TPlan) : List Nat → E Unit
  | [] => pure ()
  | e :: t => do
    takeElem c j x [] e
    match ((← get).call? c.id).bind fun d => d.held.find? (·.1 == e) with
    | some (_, l) => giveElem c j x [] e l
    | none => pure ()
    moveAll c j x t

/-- The transfers by their queue and TYPE (R343, R346). -/
def transfers : List (Instr × Nat × Nat) := [
  (.teCopy, 0, 1), (.teGather, 0, 2), (.teMcast, 0, 3), (.tePut, 1, 4), (.tePutadd, 1, 5)]

/-- The feeds by their TYPE and the binding of their port (R347). -/
def feeds : List (Instr × Nat × Bind) := [(.teFeedin, 6, .arrival), (.teFeedout, 7, .departure)]

/-- The triangles of a segment that cover a point, ascending (R368, R369). -/
def hitsAt (l : List Byte) (n : Nat) (p : Pt) : List Nat :=
  (below n).filter fun i => match triangleOf (slice l (32 * i) 32) with
    | some t => covers t p
    | none => false

/-- The sum of the weights of taps. -/
def weightSum (l : List Tap) : Frac := l.foldl (fun a x => a.add x.weight) (.int 0)

end Sys2Proof.Machine
end

