-- ==== Sys2Proof/Certificates/Slice0/Obligations.lean ====
section
/-! DEFINITION. The statements for the provers. -/

open Sys2Proof Sys2Proof.Machine

/-! ### Integer instructions, operands, control flow -/

/-- R200, R46: from readable sources to a writable destination, an integer instruction on two registers completes with the
result of its row, and nothing else changes but the pc.
R201, R202: the same for the instructions on a register and an immediate.
R200: `clz`, `ctz` and `popc` count the leading zeros, the trailing zeros and the ones; 64 zeros for 0. -/
def Obligations.IntegerResults : Prop :=
  (∀ p ∈ threeReg, ∀ (s : State) (d a b : SReg), s.me.readable a → s.me.readable b → s.me.writable d →
     exec (p.1 d a b) s = .next (s.retire 4 d (p.2 (s.me.sreg a) (s.me.sreg b)))) ∧
  (∀ (i : BitVec 14) (n : BitVec 6), ∀ p ∈ immOps i n, ∀ (s : State) (d a : SReg), s.me.readable a → s.me.writable d →
     exec (p.1 d a) s = .next (s.retire 4 d (p.2 (s.me.sreg a)))) ∧
  (∀ (s : State) (d a : SReg), s.me.readable a → s.me.writable d →
     (∃ n : Nat, exec (.clz d a) s = .next (s.retire 4 d (wd n)) ∧ n ≤ 64 ∧ (s.me.sreg a).toNat < 2 ^ (64 - n) ∧
       (n < 64 → 2 ^ (63 - n) ≤ (s.me.sreg a).toNat)) ∧
     (∃ n : Nat, exec (.ctz d a) s = .next (s.retire 4 d (wd n)) ∧ n ≤ 64 ∧
       (∀ i, i < n → (s.me.sreg a).getLsbD i = false) ∧ (n < 64 → (s.me.sreg a).getLsbD n = true)) ∧
     exec (.popc d a) s = .next (s.retire 4 d (wd ((List.range 64).countP fun i => (s.me.sreg a).getLsbD i))))

/-- R203: `lhi` sets sd to its value shifted left by 14, `apc` adds it to its own address, `limm` sets sd to 49 bits in two words;
they are majors 0x09, 0x0A and two-word 0x01, and none of them traps. -/
def Obligations.ConstantResults : Prop :=
  ∀ (s : State) (d : SReg) (i : BitVec 19) (m : BitVec 49), s.me.writable d →
    exec (.lhi d i) s = .next (s.retire 4 d (BitVec.ofInt 64 (i.toInt * 2 ^ 14))) ∧
    exec (.apc d i) s = .next (s.retire 4 d (s.me.pc + BitVec.ofInt 64 (i.toInt * 2 ^ 14))) ∧
    exec (.limm d m) s = .next (s.retire 8 d (BitVec.ofInt 64 m.toInt)) ∧
    (encode (.lhi d i)).map (fun w => (wordKind w, major w)) = [(0, 0x09)] ∧
    (encode (.apc d i)).map (fun w => (wordKind w, major w)) = [(0, 0x0A)] ∧
    (encode (.limm d m)).map wordKind = [1, 3] ∧ (encode (.limm d m)).head?.map major = some 0x01

/-- R139, R199: a result for s0 is discarded: no register changes; a register that is written reads as written and every
other one as before. -/
def Obligations.ZeroRegister : Prop :=
  ∀ (s : State) (x : Word) (n : Nat),
    s.retire n 0 x = s.skip n ∧ (s.retire n 0 x).me.sreg 0 = 0 ∧
    ∀ (d r : SReg), (s.retire n d x).me.sreg r = if r = d ∧ d ≠ 0 then x else s.me.sreg r

/-- R141, R199, R313: a source field that names an enabled port takes the oldest word of its queue, in field order; an
empty queue is waited on and nothing happens. A word with an error mark poisons the destination.
R143, R238: a poisoned source traps with cause 0x0F and its register's number in TRAPVAL, and a register that a queued
entry will write is waited on, as source and as destination. -/
def Obligations.SourceOperands : Prop :=
  (∀ p ∈ threeReg, ∀ (s : State) (d a b : SReg), s.me.writable d →
     (s.me.isPort a = true → s.me.waiting a = [] → exec (p.1 d a b) s = .next s) ∧
     (s.me.readable a → s.me.isPort b = true → s.me.waiting b = [] → exec (p.1 d a b) s = .next s) ∧
     (∀ x l, s.me.isPort a = true → s.me.waiting a = x :: l → s.me.readable b →
       exec (p.1 d a b) s = .next ({ s with me := s.me.popped a }.retire 4 d (p.2 x.1 (s.me.sreg b)))) ∧
     (∀ y l, s.me.readable a → s.me.isPort b = true → s.me.waiting b = y :: l →
       exec (p.1 d a b) s = .next ({ s with me := s.me.popped b }.retire 4 d (p.2 (s.me.sreg a) y.1))) ∧
     (∀ x y l m, s.me.isPort a = true → s.me.isPort b = true → s.me.waiting a = x :: l →
       (s.me.popped a).waiting b = y :: m →
       exec (p.1 d a b) s = .next ({ s with me := (s.me.popped a).popped b }.retire 4 d (p.2 x.1 y.1))) ∧
     (∀ x l, s.me.isPort a = true → s.me.waiting a = x :: l → s.me.readable b → d ≠ 0 →
       ∃ t, exec (p.1 d a b) s = .next t ∧ t.me.spoison.getLsbD d.toNat = (x.2 || s.me.taint))) ∧
  (∀ p ∈ threeReg, ∀ (s : State) (d a b : SReg),
     (s.me.isPort a = false → s.me.spend.getLsbD a.toNat = false → s.me.spoison.getLsbD a.toNat = true →
       exec (p.1 d a b) s = .next (s.takeTrap ⟨0x0F, wd (4 * a.toNat), .sup⟩ false false)) ∧
     (s.me.readable a → s.me.isPort b = false → s.me.spend.getLsbD b.toNat = false →
       s.me.spoison.getLsbD b.toNat = true →
       exec (p.1 d a b) s = .next (s.takeTrap ⟨0x0F, wd (4 * b.toNat), .sup⟩ false false)) ∧
     (s.me.isPort a = false → s.me.spend.getLsbD a.toNat = true → exec (p.1 d a b) s = .next s) ∧
     (s.me.readable a → s.me.isPort b = false → s.me.spend.getLsbD b.toNat = true → exec (p.1 d a b) s = .next s) ∧
     (s.me.readable a → s.me.readable b → s.me.isPort d = false → s.me.spend.getLsbD d.toNat = true →
       exec (p.1 d a b) s = .next s))

/-- R211: a branch goes to its own address plus its distance in words if its condition holds, else to the next
instruction; nothing else changes.
R212, R76: the jumps write their link and go to their target; `jalr` reads its source before it writes the link, and a
target that is no multiple of 4 traps and writes no link. -/
def Obligations.ControlFlow : Prop :=
  (∀ p ∈ branches, ∀ (s : State) (a b : SReg) (o : BitVec 14), s.me.readable a → s.me.readable b →
     (p.2 (s.me.sreg a) (s.me.sreg b) →
       exec (p.1 a b o) s = .next { s with me := { s.me with pc := s.me.pc + BitVec.ofInt 64 (4 * o.toInt) } }) ∧
     (¬ p.2 (s.me.sreg a) (s.me.sreg b) → exec (p.1 a b o) s = .next (s.skip 4))) ∧
  (∀ (s : State) (d a : SReg) (i : BitVec 19) (m : BitVec 49) (o : BitVec 14), s.me.writable d →
     exec (.jal d i) s =
       .next { s with me := { s.me.setS d (s.me.pc + 4) with pc := s.me.pc + BitVec.ofInt 64 (4 * i.toInt) } } ∧
     exec (.jalL d m) s =
       .next { s with me := { s.me.setS d (s.me.pc + 8) with pc := s.me.pc + BitVec.ofInt 64 (4 * m.toInt) } } ∧
     (s.me.readable a →
       let t := s.me.sreg a + BitVec.ofInt 64 o.toInt
       (t.toNat % 4 = 0 → exec (.jalr d a o) s = .next { s with me := { s.me.setS d (s.me.pc + 4) with pc := t } }) ∧
       (t.toNat % 4 ≠ 0 → exec (.jalr d a o) s = .next (s.takeTrap ⟨8, t, .sup⟩ false false))))

/-- R94, R95: a hint of any code, one word or two, only moves past itself; it pops no port and checks no operand. -/
def Obligations.HintsDoNothing : Prop :=
  ∀ (s : State) (a : SReg) (code : BitVec 19) (f1 : BitVec 24) (f2 : BitVec 30), ∀ p ∈ hints a code f1 f2,
    exec p.1 s = .next (s.skip p.2)

/-! ### Scalar floating point -/

/-- R53, R59, R98, R214, R215: with a legal rounding mode and group 4 unmasked, `fadd`, `fsub`, `fmul` and `fdiv` write the
rounded result to bits [n−1:0] of sd, 0 above, and OR their flags into the scalar set; nothing else changes. So do `fsqrt`,
`fmin` and `fmax`.
R218: the fused instructions round a × b + c once, with the signs of their row.
R216, R217: the compares write 1 or 0, `fclass` one bit and no flag, and `fcvt` converts between floating-point formats,
from integers and to integers. -/
def Obligations.FloatResults : Prop :=
  (∀ (s : State) (d a b : SReg) (f : BitVec 2) (r : BitVec 3) (m : Nat),
     s.allows 4 → s.me.readable a → s.me.writable d →
     let fm := fmtOfField f.toNat
     let x := (s.me.sreg a).toNat
     let y := (s.me.sreg b).toNat
     (s.me.mode? r = some m → s.me.readable b → ∀ p ∈ fpArith,
       exec (p.1 d a b f r) s = .next (s.retireF 4 d (wd ((p.2 fm m x y).1 % 2 ^ fm.n)) (p.2 fm m x y).2)) ∧
     (s.me.mode? r = some m →
       exec (.fsqrt d a f r) s = .next (s.retireF 4 d (wd ((fSqrt fm m x).1 % 2 ^ fm.n)) (fSqrt fm m x).2)) ∧
     (s.me.readable b →
       exec (.fmin d a b f) s =
         .next (s.retireF 4 d (wd ((fMinMax fm false x y).1 % 2 ^ fm.n)) (fMinMax fm false x y).2) ∧
       exec (.fmax d a b f) s =
         .next (s.retireF 4 d (wd ((fMinMax fm true x y).1 % 2 ^ fm.n)) (fMinMax fm true x y).2))) ∧
  (∀ p ∈ fpFused, ∀ (s : State) (d a b c : SReg) (f : BitVec 2) (r : BitVec 3) (m : Nat),
     s.allows 4 → s.me.readable a → s.me.readable b → s.me.readable c → s.me.writable d → s.me.mode? r = some m →
     let fm := fmtOfField f.toNat
     let z := fFma fm m (s.me.sreg a).toNat (s.me.sreg b).toNat (s.me.sreg c).toNat p.2.1 p.2.2
     exec (p.1 d a b c f r) s = .next (s.retireF 8 d (wd (z.1 % 2 ^ fm.n)) z.2)) ∧
  (∀ (s : State) (d a b : SReg) (f : BitVec 2), s.allows 4 → s.me.readable a → s.me.writable d →
     let fm := fmtOfField f.toNat
     let x := (s.me.sreg a).toNat
     let y := (s.me.sreg b).toNat
     (s.me.readable b →
       exec (.feq d a b f) s = .next (s.retireF 4 d (if (fEq fm x y).1 then 1 else 0) (fEq fm x y).2) ∧
       exec (.flt d a b f) s = .next (s.retireF 4 d (if (fLess fm false x y).1 then 1 else 0) (fLess fm false x y).2) ∧
       exec (.fle d a b f) s = .next (s.retireF 4 d (if (fLess fm true x y).1 then 1 else 0) (fLess fm true x y).2)) ∧
     exec (.fclass d a f) s = .next (s.retire 4 d (1 <<< fClass fm x)) ∧
     (∀ (r : BitVec 3) (m : Nat), s.me.mode? r = some m → ∀ c : BitVec 3,
       (c.toNat < 4 → exec (.fcvt d a 0 c f r) s =
         let z := fToF (fmtOfField c.toNat) fm m x false
         .next (s.retireF 4 d (wd (z.1 % 2 ^ fm.n)) z.2)) ∧
       (4 ≤ c.toNat →
         (exec (.fcvt d a 0 c f r) s =
           let z := fOfI fm m ((cvtInt c.toNat).val x) false
           .next (s.retireF 4 d (wd (z.1 % 2 ^ fm.n)) z.2)) ∧
         (exec (.fcvt d a 1 c f r) s =
           let z := fToI fm (cvtInt c.toNat) m x
           .next (s.retireF 4 d (BitVec.ofInt 64 z.1) z.2)))))

/-- R51, R54: for f32, f64, f16 and bf16 an arithmetic operation with a NaN operand delivers the canonical NaN of the format,
in every rounding mode, and raises NV exactly if an operand is a signalling NaN. -/
def Obligations.NanResults : Prop :=
  ∀ p ∈ fpArith, ∀ (k m x y : Nat) (g : Bool),
    let fm := fmtOfField k
    let sig := fun (z : Nat) => unpack fm z = .nan true
    (unpack fm x = .nan g ∨ unpack fm y = .nan g) →
      (p.2 fm m x y).1 = fm.nan ∧ ((p.2 fm m x y).2 = fNV ∨ (p.2 fm m x y).2 = 0) ∧
      ((p.2 fm m x y).2 = fNV ↔ sig x ∨ sig y)

/-- R52: minimumNumber and maximumNumber in every floating-point format: the other operand for one NaN and the canonical NaN for
two, else the smaller or the larger with −0 below +0, and NV only for a signalling NaN; `fmin` and `fmax` deliver them. -/
def Obligations.MinMaxResults : Prop :=
  (∀ fm ∈ [bf16, f16, f32, f64, f8e5, f8e4], ∀ (x y : Nat) (mx : Bool), x < 2 ^ fm.n → y < 2 ^ fm.n →
    let z := fMinMax fm mx x y
    ((unpack fm x).isNan = true → (unpack fm y).isNan = true → z.1 = fm.nan) ∧
    ((unpack fm x).isNan = true → (unpack fm y).isNan = false → z.1 = y) ∧
    ((unpack fm x).isNan = false → (unpack fm y).isNan = true → z.1 = x) ∧
    ((fLess fm false x y).1 = true → z.1 = if mx then y else x) ∧
    ((fLess fm false y x).1 = true → z.1 = if mx then x else y) ∧
    ((unpack fm x).isNan = false → (unpack fm y).isNan = false → z.1 = x ∨ z.1 = y) ∧
    (x = fm.sign true → y = fm.sign false → z.1 = if mx then y else x) ∧
    (x = fm.sign false → y = fm.sign true → z.1 = if mx then x else y) ∧
    (z.2 = if unpack fm x = .nan true ∨ unpack fm y = .nan true then fNV else 0)) ∧
  (∀ (s : State) (d a b : SReg) (f : BitVec 2), s.allows 4 → s.me.readable a → s.me.readable b → s.me.writable d →
    let fm := fmtOfField f.toNat
    ∀ p ∈ [((.fmin d a b f, false) : Instr × Bool), (.fmax d a b f, true)],
      let z := fMinMax fm p.2 ((s.me.sreg a).toNat % 2 ^ fm.n) ((s.me.sreg b).toNat % 2 ^ fm.n)
      exec p.1 s = .next (s.retireF 4 d (wd (z.1 % 2 ^ fm.n)) z.2))

/-! ### Scalar memory -/

/-- R204, R205: a load of a place that it has, with no older version in sight, writes the bytes there, extended, to sd; it
changes nothing but the pc and what the translation cached.
R142: a load of data that has an uncorrectable error poisons its destination; s0 has no poison. -/
def Obligations.LoadResults : Prop :=
  (∀ (off : BitVec 11) (offL : BitVec 41), ∀ p ∈ anyLoad off offL, ∀ (s s1 : State) (d b : SReg) (pl : Place),
     let (f, len, o, n, ext) := p
     let ea := s.me.sreg b + o
     s.me.readable b → s.me.writable d → ea.toNat % n = 0 → (placeE ea .r).run s = .ok (.ok pl) s1 →
     s1.settled pl.addr n → s1.resting pl.addr n → s1.badAt pl.addr n = false →
       exec (f d b) s = .next (s1.retire len d (ext (s1.natAt pl.addr n)))) ∧
  (∀ (off : BitVec 11) (offL : BitVec 41), ∀ p ∈ anyLoad off offL, ∀ (s s1 : State) (d b : SReg) (pl : Place),
     let (f, len, o, n, _) := p
     let ea := s.me.sreg b + o
     s.me.readable b → s.me.writable d → ea.toNat % n = 0 → (placeE ea .r).run s = .ok (.ok pl) s1 →
     s1.settled pl.addr n → s1.resting pl.addr n → s1.badAt pl.addr n = true → d ≠ 0 →
       ∃ t, exec (f d b) s = .next t ∧ t.me.spoison.getLsbD d.toNat = true ∧ t.me.pc = s.me.pc + wd len ∧
         ∀ r, r ≠ d → t.me.sreg r = s.me.sreg r)

/-- R126, R205, R207: a scalar load, a store and an atomic check their alignment before translation, with cause 0x08; an address
without a place raises the load fault 0x06 or, of a store or an atomic, the store fault 0x07, both with the address in TRAPVAL.
R106, R107, R424: an address that is not canonical has no place, nor has a fetch from the scratch aperture or an offset at or above S;
other offsets there lie in the launch's scratch; service strands are not translated. R108, R116-R120: with nothing cached, stage 1
walks five levels from PTBASE, a missing entry at any level, a reserved bit, a misaligned address or a leaf at the wrong level ends in
a fault taken at SUP, and so does a leaf that refuses the access; the IPA goes through stage 2, whose faults and refusals are taken at
HYP with the IPA, and which selects the region; stage-2 tables lie in HYP memory, have leaves of the same four sizes and may not set U,
G or DET. R109, R135: a PMA lies on its home; DET goes with region 00 alone. R435: region 01 goes through a window of the partition
within its length, a store only if the window has W, to the home in the exporting partition. -/
def Obligations.AccessFaults : Prop :=
  (∀ (off : BitVec 11) (offL : BitVec 41) (s s1 : State) (r b : SReg) (e : PErr), s.me.readable b →
    (∀ p ∈ anyLoad off offL,
      let (f, _, o, n, _) := p
      let ea := s.me.sreg b + o
      (ea.toNat % n ≠ 0 → exec (f r b) s = .next (s.takeTrap ⟨8, ea, .sup⟩ false false)) ∧
      (ea.toNat % n = 0 → (placeE ea .r).run s = .ok (.error e) s1 →
        exec (f r b) s = .next (s.takeTrap ⟨6, ea, e.route⟩ false false))) ∧
    (s.me.readable r → ∀ p ∈ anyStore off offL,
      let (f, _, o, n) := p
      let ea := s.me.sreg b + o
      (ea.toNat % n ≠ 0 → exec (f r b) s = .next (s.takeTrap ⟨8, ea, .sup⟩ false false)) ∧
      (ea.toNat % n = 0 → (placeE ea .w).run s = .ok (.error e) s1 →
        exec (f r b) s = .next (s.takeTrap ⟨7, ea, e.route⟩ false false)))) ∧
  (∀ (s s1 : State) (d a b : SReg) (sc w : BitVec 2) (ar : BitVec 1) (e : PErr),
    let ea := s.me.sreg a
    s.me.readable a → s.me.readable b → s.me.readable d →
      ∀ i ∈ (.amoFadd d a b sc w ar, nth [2, 2, 4, 8] w.toNat 8) :: atomics.map fun p => (p.1 d a b sc w ar, 2 ^ w.toNat),
        (ea.toNat % i.2 ≠ 0 → exec i.1 s = .next (s.takeTrap ⟨8, ea, .sup⟩ false false)) ∧
        (ea.toNat % i.2 = 0 → (placeE ea .rw).run s = .ok (.error e) s1 →
          exec i.1 s = .next (s.takeTrap ⟨7, ea, e.route⟩ false false))) ∧
  (∀ (s : State) (va : Word) (acc : Acc),
    let n := va.toNat
    let x := n % 2 ^ 56
    let found := fun (r : Except PErr Place) => (placeE va acc).run s = .ok r s
    let bad : PErr := ⟨false, .sup⟩
    (s.me.owner = .mon → found (if n < 2 ^ 27 then .ok ⟨svcAt n, .svc, false⟩ else .error ⟨false, .mon⟩)) ∧
    (s.me.owner = .hyp → found (if n < s.hypSize then .ok ⟨s.hypAt n, .svc, false⟩ else .error ⟨false, .mon⟩)) ∧
    (∀ pid ctx rcb lid p, s.me.owner = .part pid ctx rcb lid → s.part? pid = some p → (∀ t ∈ s.tlb, t.pid ≠ pid) →
      (2 ^ 64 - 2 ^ 24 ≤ n →
        (acc = .x → found (.error bad)) ∧
        (acc ≠ .x → s.split? lid s.me.clu = none → found (.error bad)) ∧
        (∀ y, acc ≠ .x → s.split? lid s.me.clu = some y →
          (y.scr * 65536 ≤ n - (2 ^ 64 - 2 ^ 24) → found (.error bad)) ∧
          (∀ a, n - (2 ^ 64 - 2 ^ 24) < y.scr * 65536 → y.at (n - (2 ^ 64 - 2 ^ 24)) = some a →
            found (.ok ⟨a, .scratch, false⟩)))) ∧
      (n / 2 ^ 55 ≠ 0 → n / 2 ^ 55 ≠ 511 → found (.error bad)) ∧
      ((n / 2 ^ 55 = 0 ∨ n / 2 ^ 55 = 511) → n < 2 ^ 64 - 2 ^ 24 →
        let oa := fun (e : Nat) => e / 2 ^ 9 % 2 ^ 39 * 2 ^ 9
        let reads := fun (tbl i e : Nat) => s.entryAt p (tbl + 8 * i) = .ok e
        let table := fun (e align : Nat) => e % 4 = 1 ∧ e / 4 % 2 ^ 7 = 0 ∧ e / 2 ^ 48 % 2 ^ 8 = 0 ∧ oa e % align = 0
        let leaf := fun (e size : Nat) => e % 4 = 3 ∧ e / 2 ^ 48 % 2 ^ 8 = 0 ∧ e.testBit 8 = false ∧ size ≠ 0 ∧ oa e % size = 0
        let broken := fun (e align size : Nat) => ¬ table e align ∧ ¬ leaf e size
        let maps := fun (e size : Nat) =>
          let ipa := oa e + n % size
          let refused := (e.testBit 2 = false ∧ (acc = .r ∨ acc = .rw ∨ e.testBit 3 = true)) ∨
            (e.testBit 3 = false ∧ (acc = .w ∨ acc = .rw)) ∨ (e.testBit 4 = false ∧ acc = .x) ∨
            (e.testBit 5 = false ∧ s.me.pl = .app)
          (refused → found (.error bad)) ∧
          (¬ refused →
            (∀ f, s.stage2 p ipa = .error f → found (.error f.place)) ∧
            (∀ l, s.stage2 p ipa = .ok l → ∃ s1, s1 = { s with tlb := s1.tlb } ∧
              (l.refuses acc false = true →
                (placeE va acc).run s = .ok (.error ⟨false, .s2 (BitVec.ofNat 48 ipa)⟩) s1) ∧
              (∀ pl, l.refuses acc false = false →
                s.region p ipa (l.oa + ipa % l.size) acc.writes (e.testBit 7) false = .ok pl →
                (placeE va acc).run s = .ok (.ok pl) s1) ∧
              (∀ f, l.refuses acc false = false →
                s.region p ipa (l.oa + ipa % l.size) acc.writes (e.testBit 7) false = .error f →
                (placeE va acc).run s = .ok (.error f.place) s1)))
        ∀ e0 e1 e2 e3 e4, reads (s.me.ptbase.toNat / 2 ^ 13 % 2 ^ 35 * 2 ^ 13) (x / 2 ^ 46) e0 →
          (broken e0 2048 0 → found (.error bad)) ∧
          (table e0 2048 → reads (oa e0) (x / 2 ^ 38 % 2 ^ 8) e1 →
            (broken e1 2048 0 → found (.error bad)) ∧
            (table e1 2048 → reads (oa e1) (x / 2 ^ 30 % 2 ^ 8) e2 →
              (broken e2 512 (2 ^ 30) → found (.error bad)) ∧
              (leaf e2 (2 ^ 30) → maps e2 (2 ^ 30)) ∧
              (table e2 512 → reads (oa e2) (x / 2 ^ 24 % 2 ^ 6) e3 →
                (broken e3 2048 (2 ^ 24) → found (.error bad)) ∧
                (leaf e3 (2 ^ 24) → maps e3 (2 ^ 24)) ∧
                (table e3 2048 → reads (oa e3) (x / 2 ^ 16 % 2 ^ 8) e4 →
                  let size := if e4.testBit 8 then 2 ^ 21 else 2 ^ 16
                  ((e4 % 4 ≠ 3 ∨ e4 / 2 ^ 48 % 2 ^ 8 ≠ 0 ∨ oa e4 % size ≠ 0) → found (.error bad)) ∧
                  (e4 % 4 = 3 → e4 / 2 ^ 48 % 2 ^ 8 = 0 → oa e4 % size = 0 → maps e4 size)))))))) ∧
  (∀ (s : State) (p : Part) (ipa : Nat),
    let bad : XErr := ⟨false, some ipa, false⟩
    let oa := fun (e : Nat) => e / 2 ^ 9 % 2 ^ 39 * 2 ^ 9
    let root := p.s2root.toNat / 2 ^ 13 % 2 ^ 35 * 2 ^ 13
    let reads := fun (tbl i e : Nat) => tbl + 8 * i + 8 ≤ s.hypSize ∧ s.natAt (s.hypAt (tbl + 8 * i)) 8 = e
    let table := fun (e align : Nat) => e % 4 = 1 ∧ e / 4 % 2 ^ 7 = 0 ∧ e / 2 ^ 48 % 2 ^ 8 = 0 ∧ oa e % align = 0
    let leaf := fun (e size : Nat) => e % 4 = 3 ∧ e / 2 ^ 5 % 2 ^ 3 = 0 ∧ e / 2 ^ 48 % 2 ^ 8 = 0 ∧ e.testBit 8 = false ∧ size ≠ 0 ∧
      oa e % size = 0
    let broken := fun (e align size : Nat) => ¬ table e align ∧ ¬ leaf e size
    let maps := fun (e size : Nat) => s.stage2 p ipa = .ok ⟨oa e, size, e.testBit 2, e.testBit 3, e.testBit 4, false, false, false⟩
    (s.hypSize < root + 8 * (ipa / 2 ^ 46 % 2 ^ 10) + 8 → s.stage2 p ipa = .error bad) ∧
    ∀ e0 e1 e2 e3 e4, reads root (ipa / 2 ^ 46 % 2 ^ 10) e0 →
      (broken e0 2048 0 → s.stage2 p ipa = .error bad) ∧
      (table e0 2048 → reads (oa e0) (ipa / 2 ^ 38 % 2 ^ 8) e1 →
        (broken e1 2048 0 → s.stage2 p ipa = .error bad) ∧
        (table e1 2048 → reads (oa e1) (ipa / 2 ^ 30 % 2 ^ 8) e2 →
          (broken e2 512 (2 ^ 30) → s.stage2 p ipa = .error bad) ∧
          (leaf e2 (2 ^ 30) → maps e2 (2 ^ 30)) ∧
          (table e2 512 → reads (oa e2) (ipa / 2 ^ 24 % 2 ^ 6) e3 →
            (broken e3 2048 (2 ^ 24) → s.stage2 p ipa = .error bad) ∧
            (leaf e3 (2 ^ 24) → maps e3 (2 ^ 24)) ∧
            (table e3 2048 → reads (oa e3) (ipa / 2 ^ 16 % 2 ^ 8) e4 →
              let size := if e4.testBit 8 then 2 ^ 21 else 2 ^ 16
              ((e4 % 4 ≠ 3 ∨ e4 / 2 ^ 5 % 2 ^ 3 ≠ 0 ∨ e4 / 2 ^ 48 % 2 ^ 8 ≠ 0 ∨ oa e4 % size ≠ 0) →
                s.stage2 p ipa = .error bad) ∧
              (e4 % 4 = 3 → e4 / 2 ^ 5 % 2 ^ 3 = 0 → e4 / 2 ^ 48 % 2 ^ 8 = 0 → oa e4 % size = 0 → maps e4 size)))))) ∧
  (∀ (s : State) (p : Part) (ipa out : Nat) (wr det : Bool),
    let bad : XErr := ⟨false, some ipa, false⟩
    let r := out / 2 ^ 46 % 4
    let pma := out % 2 ^ 46
    let home := p.bh (pma / 4096 % p.nb)
    (det = true → r ≠ 0 → s.region p ipa out wr det false = .error XErr.s1) ∧
    (r = 0 → 2 ^ 34 * p.nb ≤ pma → s.region p ipa out wr det false = .error bad) ∧
    (r = 0 → pma < 2 ^ 34 * p.nb →
      ((s.bh home).state = .owned → s.region p ipa out wr det false =
        .ok ⟨hbmAt home (pma / 4096 / p.nb * 4096 + pma % 4096), .pma, det⟩) ∧
      ((s.bh home).state ≠ .owned → s.region p ipa out wr det false = .error ⟨false, none, true⟩)) ∧
    (det = false → r = 1 →
      let off := out % 2 ^ 42
      let win := p.windows.find? (·.win == out / 2 ^ 42 % 16)
      (win = none → s.region p ipa out wr det false = .error bad) ∧
      ∀ w, win = some w →
        (w.len ≤ off → s.region p ipa out wr det false = .error bad) ∧
        (off < w.len → wr = true → w.wr = false → s.region p ipa out wr det false = .error ⟨true, some ipa, false⟩) ∧
        (off < w.len → (wr = true → w.wr = true) →
          (s.part? w.exp = none → s.region p ipa out wr det false = .error bad) ∧
          ∀ q, s.part? w.exp = some q →
            let at' := w.base + off
            let home := q.bh (at' / 4096 % q.nb)
            ((s.bh home).state = .owned → s.region p ipa out wr det false =
              .ok ⟨hbmAt home (at' / 4096 / q.nb * 4096 + at' % 4096), .win, false⟩) ∧
            ((s.bh home).state ≠ .owned → s.region p ipa out wr det false = .error ⟨false, none, true⟩))) ∧
    (det = false → r = 2 → s.region p ipa out wr det false = .ok ⟨hostAt pma, .host, false⟩) ∧
    (det = false → r = 3 → s.region p ipa out wr det false = .error bad))

/-- R204, R205: a store to the place of its address writes the low bytes of its data register there, little-endian, and
leaves every other byte of memory, every register and everything else alone, but the pc, what the translation cached, the
poison of a line it replaces whole, and what the model remembers of the store for other paths, for engines and for R12. -/
def Obligations.StoreResults : Prop :=
  ∀ (off : BitVec 11) (offL : BitVec 41), ∀ p ∈ anyStore off offL, ∀ (s s1 : State) (x b : SReg) (pl : Place),
    let (f, len, o, n) := p
    let ea := s.me.sreg b + o
    s.me.readable x → s.me.readable b → ea.toNat % n = 0 → (placeE ea .w).run s = .ok (.ok pl) s1 →
    s1.Inv → s1.settled pl.addr n → s1.plainAt pl.addr n →
      ∃ t, exec (f x b) s = .next t ∧
        t = { s1 with
          mem := t.mem, recent := t.recent, raced := t.raced, breached := t.breached, bad := t.bad
          me := { s1.me with pc := s.me.pc + wd len } } ∧
        (∀ i, i < n → t.byteAt (pl.addr + i) = (s.me.sreg x).extractLsb' (8 * i) 8) ∧
        ∀ a, (a < pl.addr ∨ pl.addr + n ≤ a) → t.byteAt a = s.byteAt a

/-- R114, R206: `ldsync` of a full granule of its scratch loads a dword, leaves F, and is an acquire; of an empty one it waits; `fclr` clears
F of the granule that holds its address and changes no data. Outside the aperture or at or above S they raise the load and
the store fault (below HYP; DEDUCED for service strands). A misaligned `ldsync` traps with cause 0x08 (R126). -/
def Obligations.FullBits : Prop :=
  ∀ (off : BitVec 11) (offL : BitVec 41) (s : State) (d b : SReg), s.me.readable b →
    ∀ p ∈ [((.ldsync d b off, .fclr b off, off.signExtend 64, 4) : Instr × Instr × Word × Nat),
      (.ldsyncL d b offL, .fclrL b offL, offL.signExtend 64, 8)],
    let (ldsync, fclr, o, len) := p
    let ea := s.me.sreg b + o
    (∀ a, inAperture ea = true → (scratchPlace ea).run s = .ok (some a) s →
      (ea.toNat % 8 = 0 → s.me.writable d → s.fullAt a = true → s.settled a 8 → s.resting a 8 → s.badAt a 8 = false →
        exec ldsync s = .next (s.acquire.retire len d (wd (s.natAt a 8)))) ∧
      (ea.toNat % 8 = 0 → s.fullAt a = false → exec ldsync s = .next s) ∧
      (ea.toNat % 8 ≠ 0 → exec ldsync s = .next (s.takeTrap ⟨8, ea, .sup⟩ false false)) ∧
      (exec fclr s = .next ({ s with full := s.full.filter (· != a / 64) }.skip len))) ∧
    ((∃ pid c q l, s.me.owner = .part pid c q l) →
      (inAperture ea = false ∨ (scratchPlace ea).run s = .ok none s) →
      (ea.toNat % 8 = 0 → exec ldsync s = .next (s.takeTrap ⟨6, ea, .sup⟩ false false)) ∧
      exec fclr s = .next (s.takeTrap ⟨7, ea, .sup⟩ false false))

/-- R207: an integer atomic on its place writes the new value, gives sd the old one, zero-extended for `minu` and `maxu` and
sign-extended otherwise, and changes no other byte and no other register; a `cas` that fails writes nothing. -/
def Obligations.AtomicResults : Prop :=
  ∀ p ∈ atomics, ∀ (s s1 : State) (d a b : SReg) (sc w : BitVec 2) (ar : BitVec 1) (pl : Place),
    let n := 2 ^ w.toNat
    let ea := s.me.sreg a
    let i := p.1 d a b sc w ar
    s.me.readable a → s.me.readable b → s.me.readable d → ea.toNat % n = 0 →
    (placeE ea .rw).run s = .ok (.ok pl) s1 → s1.Inv → pl.addr % n = 0 → s1.settled pl.addr n → s1.plainAt pl.addr n →
    s1.badAt pl.addr n = false →
      let old := s1.natAt pl.addr n
      let new := p.2 (8 * n) old ((s.me.sreg b).toNat % 2 ^ (8 * n)) ((s.me.sreg d).toNat % 2 ^ (8 * n))
      let res := if i = .amoMinu d a b sc w ar ∨ i = .amoMaxu d a b sc w ar then wd old else BitVec.ofInt 64 (toS (8 * n) old)
      ∃ t, exec i s = .next t ∧ t.me = { s1.me.setS d res with pc := s.me.pc + 4 } ∧
        (∀ k, k < n → t.byteAt (pl.addr + k) = BitVec.ofNat 8 (new.getD old >>> (8 * k))) ∧
        ∀ x, (x < pl.addr ∨ pl.addr + n ≤ x) → t.byteAt x = s.byteAt x

/-- R209, R208: `amo.fadd` on a plain page writes the sum rounded to nearest even and ORs its flags into the scalar set; sd
receives the old value. On a host page or a window it raises the store fault.
R66, R67, R68: `amo.fadd` to an element of a DET page that is active adds exactly to its accumulator and raises no flag;
sd receives the rounded value from just before the add; an f64 element raises the store fault, and so does an element that
is active in another format. -/
def Obligations.FloatAtomics : Prop :=
  (∀ (s s1 : State) (d a b : SReg) (sc w : BitVec 2) (ar : BitVec 1) (pl : Place),
     let fm := nth [bf16, f16, f32, f64] w.toNat f64
     let n := fm.n / 8
     let ea := s.me.sreg a
     s.me.readable a → s.me.readable b → s.me.writable d → ea.toNat % n = 0 →
     (placeE ea .rw).run s = .ok (.ok pl) s1 →
       ((pl.kind = .host ∨ pl.kind = .win) →
         exec (.amoFadd d a b sc w ar) s = .next (s.takeTrap ⟨7, ea, .sup⟩ false false)) ∧
       (pl.kind ≠ .host → pl.kind ≠ .win → pl.det = false → s1.Inv → pl.addr % n = 0 → s1.settled pl.addr n →
         s1.plainAt pl.addr n → s1.badAt pl.addr n = false →
         let old := s1.natAt pl.addr n
         let z := fAdd fm 0 old ((s.me.sreg b).toNat % 2 ^ (8 * n))
         ∃ t, exec (.amoFadd d a b sc w ar) s = .next t ∧
           t.me = { s1.me.setS d (wd old) with pc := s.me.pc + 4, fflags := s1.me.fflags ||| z.2 } ∧
           (∀ k, k < n → t.byteAt (pl.addr + k) = BitVec.ofNat 8 (z.1 >>> (8 * k))) ∧
           ∀ x, (x < pl.addr ∨ pl.addr + n ≤ x) → t.byteAt x = s.byteAt x)) ∧
  (∀ (s s1 : State) (d a b : SReg) (sc w : BitVec 2) (ar : BitVec 1) (pl : Place) (c : Accum),
     let n := nth [2, 2, 4, 8] w.toNat 8
     let ea := s.me.sreg a
     s.me.readable a → s.me.readable b → s.me.writable d → ea.toNat % n = 0 →
     (placeE ea .rw).run s = .ok (.ok pl) s1 → pl.kind = .pma → pl.det = true →
       (w = 3 → exec (.amoFadd d a b sc w ar) s = .next (s.takeTrap ⟨7, ea, .sup⟩ false false)) ∧
       (∀ k, detFmt w.toNat = some k → s1.accums.find? (·.meets pl.addr n) = some c →
         (¬ (c.addr = pl.addr ∧ c.fmt = k) →
           exec (.amoFadd d a b sc w ar) s = .next (s.takeTrap ⟨7, ea, .sup⟩ false false)) ∧
         (c.addr = pl.addr → c.fmt = k → s1.resting pl.addr n → s1.badAt pl.addr n = false →
           ∃ t, exec (.amoFadd d a b sc w ar) s = .next t ∧
             t.me = { s1.me.setS d (wd c.value) with pc := s.me.pc + 4 } ∧
             t.accums = s1.accums.map (fun y => if y.addr = pl.addr
               then c.add (unpack (accFmt k) ((s.me.sreg b).toNat % 2 ^ (8 * n))) else y) ∧
             t.mem = s1.mem)))

/-- R128, R210: a fence with no queued access of its predecessor classes retires. Of the stores that the strand made or observed by
a path in P, no other strand of the core misses any; of its own no path in S does: its scalar and vector accesses and its fetches;
no engine misses any at partition scope or wider, and none of its own cluster at cluster scope, for the calls of the strand itself with
e in S (R28). From v to v its vector path no longer goes behind what it has seen of another strand. From s to v it writes the dirty lines
of its core back: no vector access of the core misses a scalar store to HBM of a strand there. Memory and registers stay. -/
def Obligations.FenceResults : Prop :=
  ∀ (s : State) (succ pred : BitVec 4) (sc : BitVec 2), s.me.vq = [] →
    ∃ t, exec (.fence succ pred sc) s = .next t ∧
      t = { s with recent := t.recent, me := { s.me with pc := s.me.pc + 4 } } ∧
      (∀ x ∈ t.recent, ∃ y ∈ s.recent, x.addr = y.addr ∧ x.old = y.old ∧ x.uid = y.uid ∧ x.vector = y.vector ∧
        x.known = y.known) ∧
      (∀ x ∈ t.recent,
        (pred.getLsbD 0 = true ∧ x.heldBy s.me.uid false = true) ∨ (pred.getLsbD 1 = true ∧ x.heldBy s.me.uid true = true) →
          (∀ c, Viewer.sibS c ∉ x.hid ∧ Viewer.sibV c ∉ x.hid) ∧
          (x.uid = s.me.uid →
            (succ.getLsbD 0 = true → Viewer.scal ∉ x.hid ∧ Viewer.record ∉ x.hid) ∧
            (succ.getLsbD 1 = true → Viewer.vec ∉ x.hid ∧ Viewer.strip ∉ x.hid) ∧
            (succ.getLsbD 3 = true → Viewer.fetch ∉ x.hid)) ∧
          (succ.getLsbD 2 = true → x.uid = s.me.uid → Viewer.record ∉ x.hid) ∧
          (2 ≤ sc.toNat → ∀ l, Viewer.engines l ∉ x.hid ∧ (succ.getLsbD 2 = true → ∀ us, Viewer.calls us l ∉ x.hid)) ∧
          (sc.toNat = 1 → ∀ n l, s.strandCluster s.me = some n → (Viewer.engines l ∈ x.hid → n ∈ l) ∧
            (succ.getLsbD 2 = true → ∀ us, Viewer.calls us l ∈ x.hid → n ∈ l)) ∧
          (pred.getLsbD 1 = true → succ.getLsbD 1 = true → x.heldBy s.me.uid true = true → x.uid ≠ s.me.uid →
            (s.me.uid, true) ∈ x.fixed)) ∧
      ∀ x ∈ t.recent, ∀ c u, pred.getLsbD 0 = true → succ.getLsbD 1 = true → s.myCore = some c → x.vector = false →
        x.addr < 2 ^ 40 → s.strand? x.uid = some u → s.coreOf u = some c →
          Viewer.vec ∉ x.hid ∧ Viewer.sibV c ∉ x.hid

/-! ### Traps, levels, control registers -/

/-- R149, R151, R152: a trap whose level L = max(route, PL) has TRAPVEC.EN = 1 and a handler that can be fetched enters there:
the bank of L takes the pc, the cause with PPL and PIE, and the value, its vector and the other banks stay; PL becomes L and
IE 0, the pc goes to the handler (64 × cause beyond the base if VECT), the vector queue is held, and no register, no queue
entry and nothing outside the strand changes.
R150: a level with TRAPVEC.EN = 0 is passed over with the same cause and value, and its bank stays; a trap that would
pass MON kills the fault domain of the strand. A level whose handler cannot be fetched, or starts with a second word, passes the
trap up with cause 0x05 or 0x02 and the handler's address as value; so a trap of SUP code enters HYP with these. -/
def Obligations.TrapEntry : Prop :=
  (∀ (s : State) (c : Nat) (v : Word) (r : Route) (w : IWord),
     let L := Level.of (max r.level s.me.pl.num)
     let b := s.me.bank L
     let h := (b.vec &&& ~~~(0x3F : Word)) + (if b.vec.getLsbD 1 then wd (64 * c) else 0)
     c < 256 → b.vec.getLsbD 0 = true → s.peek L h = .word w → wordKind w ≠ 3 →
       let t := s.takeTrap ⟨c, v, r⟩ false false
       t = { s with me := t.me } ∧ (t.me.bank L).pc = s.me.pc ∧ (t.me.bank L).val = v ∧
       (t.me.bank L).cause = wd (c + s.me.pl.num * 2 ^ 10 + (if s.me.ie then 2 ^ 12 else 0)) ∧
       (t.me.bank L).vec = b.vec ∧ (t.me.bank L).vpc = (s.me.vq.head?.map (·.pc)).getD 0 ∧
       (∀ i, r = .s2 i → (t.me.bank L).ipa = i) ∧
       (∀ L', L' ≠ .app → L' ≠ L → t.me.bank L' = s.me.bank L') ∧
       t.me.pl = L ∧ t.me.ie = false ∧ t.me.pc = h ∧ t.me.vheld = !s.me.vq.isEmpty ∧ t.me.vq = s.me.vq ∧
       t.me.s = s.me.s ∧ t.me.v = s.me.v ∧ t.me.k = s.me.k ∧ t.me.fflags = s.me.fflags) ∧
  (∀ (s : State) (c : Nat) (v : Word) (async vec : Bool) (i : Option (BitVec 48)) (L : Level) (up : List Level),
     (s.me.bank L).vec.getLsbD 0 = false →
       s.trapUp async vec (L :: up) c v i = s.trapUp async vec up c v i ∧
       s.trapUp async vec [L] c v i = s.killDomain s.me.uid c) ∧
  (∀ (s : State) (c : Nat) (v : Word) (async vec : Bool) (i : Option (BitVec 48)) (L : Level) (up : List Level),
     let b := s.me.bank L
     let h := (b.vec &&& ~~~(0x3F : Word)) + (if b.vec.getLsbD 1 then wd (64 * c) else 0)
     c < 256 → b.vec.getLsbD 0 = true →
       (∀ r, (∀ j, r ≠ .s2 j) → s.peek L h = .fault r →
         s.trapUp async vec (L :: up) c v i = s.trapUp async vec up 5 h none) ∧
       (∀ j, s.peek L h = .fault (.s2 j) → s.trapUp async vec (L :: up) c v i = s.trapUp async vec up 5 h (some j)) ∧
       (∀ w, s.peek L h = .word w → wordKind w = 3 →
         s.trapUp async vec (L :: up) c v i = s.trapUp async vec up 2 h none)) ∧
  (∀ (s : State) (c k : Nat) (v : Word) (w : IWord),
     let h := (s.me.sup.vec &&& ~~~(0x3F : Word)) + (if s.me.sup.vec.getLsbD 1 then wd (64 * c) else 0)
     let hh := (s.me.hyp.vec &&& ~~~(0x3F : Word)) + (if s.me.hyp.vec.getLsbD 1 then wd (64 * k) else 0)
     c < 256 → s.me.pl.num ≤ 1 → s.me.sup.vec.getLsbD 0 = true → s.me.hyp.vec.getLsbD 0 = true →
     ((k = 5 ∧ ∃ r, s.peek .sup h = .fault r) ∨ (k = 2 ∧ ∃ x, s.peek .sup h = .word x ∧ wordKind x = 3)) →
     s.peek .hyp hh = .word w → wordKind w ≠ 3 →
       let t := s.takeTrap ⟨c, v, .sup⟩ false false
       t.me.pl = .hyp ∧ t.me.pc = hh ∧ t.me.hyp.pc = s.me.pc ∧ t.me.hyp.val = h ∧ t.me.sup = s.me.sup ∧
       t.me.hyp.cause = wd (k + s.me.pl.num * 2 ^ 10 + (if s.me.ie then 2 ^ 12 else 0)))

/-- R97, R99, R158: an illegal encoding raises cause 0x01 with its words in TRAPVAL, a second word as an entry point cause
0x02 with the pc, a fetch that fails cause 0x05 with its address.
R86, R99: below its level a privileged instruction traps with cause 0x04 and its words in TRAPVAL, and does nothing
else.
R98, R467: a messaging or engine-call instruction is illegal on a service strand, and of a masked group it traps to HYP
with cause 0x03.
R53, R98, R99: a reserved rounding mode in FRM under DYN is an illegal instruction, before a masked group 4 sends the
instruction to HYP with cause 0x03; TRAPVAL holds the instruction's words. -/
def Obligations.TrapCauses : Prop :=
  (∀ (s : State) (w1 w2 : IWord) (v : Word),
     exec (.illegalInstruction w1 w2) s =
       .next (s.takeTrap ⟨1, w1.setWidth 64 ||| (w2.setWidth 64 <<< 32), .sup⟩ false false) ∧
     exec .illegalEntry s = .next (s.takeTrap ⟨2, s.me.pc, .sup⟩ false false) ∧
     (∀ r, (faultEv v r).1 = .fetchFault ∧ exec .fetchFault { s with ev := (faultEv v r).2 } =
       .next ({ s with ev := (faultEv v r).2 }.takeTrap ⟨5, v, r⟩ false false))) ∧
  (∀ (s : State) (d a b : SReg), ∀ p ∈ privileged d a b, s.me.pl.num < p.2.num →
     exec p.1 s = .next (s.takeTrap ⟨4, Instr.words p.1, .sup⟩ false false)) ∧
  (∀ (s : State) (d a b : SReg) (n : BitVec 2), ∀ p ∈ grouped d a b n,
     (s.me.owner.pid? = none → exec p.1 s = .next (s.takeTrap ⟨1, Instr.words p.1, .sup⟩ false false)) ∧
     (∀ q, s.myPart? = some q → q.fmask.getLsbD p.2 = true →
       exec p.1 s = .next (s.takeTrap ⟨3, Instr.words p.1, .hyp⟩ false false))) ∧
  (∀ p ∈ fpArith, ∀ (s : State) (d a b : SReg) (f : BitVec 2) (r : BitVec 3),
     (s.me.mode? r = none →
       exec (p.1 d a b f r) s = .next (s.takeTrap ⟨1, Instr.words (p.1 d a b f r), .sup⟩ false false)) ∧
     (∀ m q, s.me.mode? r = some m → s.myPart? = some q → q.fmask.getLsbD 4 = true →
       exec (p.1 d a b f r) s = .next (s.takeTrap ⟨3, Instr.words (p.1 d a b f r), .hyp⟩ false false)))

/-- R219: `trap` raises cause 0x11 with the value of its register in TRAPVAL, `brk` cause 0x12 with 0; the resume address is
their own. -/
def Obligations.SoftwareTraps : Prop :=
  ∀ (s : State) (a : SReg),
    (s.me.readable a → exec (.trapSoft a) s = .next (s.takeTrap ⟨0x11, s.me.sreg a, .sup⟩ false false)) ∧
    exec .brk s = .next (s.takeTrap ⟨0x12, 0, .sup⟩ false false)

/-- R160, R154: `tret` below SUP traps with cause 0x04; at SUP or above it restores level, IE and pc from the bank of its level and
releases the held entries; a PPL above the level traps with cause 0x04, and else a pc that is no multiple of 4 with cause 0x08. -/
def Obligations.TrapReturn : Prop :=
  ∀ (s : State),
    let b := s.me.bank s.me.pl
    let ppl := b.cause.toNat / 2 ^ 10 % 4
    (s.me.pl = .app → exec .tret s = .next (s.takeTrap ⟨4, 0x00800078, .sup⟩ false false)) ∧
    (s.me.pl ≠ .app →
      (s.me.pl.num < ppl → exec .tret s = .next (s.takeTrap ⟨4, 0x00800078, .sup⟩ false false)) ∧
      (ppl ≤ s.me.pl.num → b.pc.toNat % 4 ≠ 0 → exec .tret s = .next (s.takeTrap ⟨8, b.pc, .sup⟩ false false)) ∧
      (ppl ≤ s.me.pl.num → b.pc.toNat % 4 = 0 →
        exec .tret s = .next { s with me := { s.me with
          pl := Level.of ppl, ie := b.cause.getLsbD 12, pc := b.pc, vheld := false, spend := sdMask s.me.vq
          strip := s.me.strip + 1 } }))

/-- R161, R220, R221: `ion` and `ioff` set and clear IE; `idle` retires and clears the completion mark once a condition holds
and waits until then; `yield` retires, and switches the strand out if work waits for its core. -/
def Obligations.InterruptControl : Prop :=
  ∀ (s : State),
    (s.me.pl ≠ .app →
      exec .ion s = .next { s with me := { s.me with ie := true, pc := s.me.pc + 4 } } ∧
      exec .ioff s = .next { s with me := { s.me with ie := false, pc := s.me.pc + 4 } } ∧
      (s.idleOver = true →
        exec .idle s = .next { s with me := { s.me with mark := false, idling := false, pc := s.me.pc + 4 } }) ∧
      (s.idleOver = false → exec .idle s = .next { s with me := { s.me with idling := true } })) ∧
    (s.yieldTo s.me = false → exec .yield s = .next (s.skip 4)) ∧
    (s.yieldTo s.me = true →
      exec .yield s = .next ({ s with agenda := .event .strandSwitchOut (ev1 s.me.uid) :: s.agenda }.skip 4))

/-- R156: what is pending for a strand stands in ascending order of cause: the watchdog for the strand itself (R157), the absent port
target and the scheduler request for the target strand of its partition, all while the strand takes asynchronous traps. The
lowest is taken first, with its pending bit cleared; the trap entry is that of R151.
R157: a watchdog that has run out is pending for its strand until the strand takes it. -/
def Obligations.AsyncTraps : Prop :=
  (∀ (s : State),
     let open' := (s.me.pl = .app ∨ s.me.ie = true) ∧ ∀ k ∈ s.cores, k.scanBy ≠ some s.me.uid
     let target := fun (due : Part → Prop) => ∃ p, s.myPart? = some p ∧ s.supTarget p = some s.me.uid ∧ due p
     s.pendingAsync.Pairwise (· < ·) ∧ (∀ c ∈ s.pendingAsync, c ∈ [0x0B, 0x13, 0x14]) ∧
     (0x0B ∈ s.pendingAsync ↔ open' ∧ target fun p => p.pta = true) ∧
     (0x13 ∈ s.pendingAsync ↔ open' ∧ s.me.wdgPend = true) ∧
     (0x14 ∈ s.pendingAsync ↔ open' ∧ target fun p => p.reqs ≠ [])) ∧
  (∀ (s : State),
     (s.pendingAsync.head? = some 0x13 →
       exec .asyncTrapEntry s =
         .next ({ s with me := { s.me with wdgPend := false } }.takeTrap ⟨0x13, 0, .sup⟩ true false)) ∧
     (∀ p : Part, s.pendingAsync.head? = some 0x0B → s.myPart? = some p →
       ∃ t : State, exec .asyncTrapEntry s = .next (t.takeTrap ⟨0x0B, p.ptaWord, .sup⟩ true false) ∧ t.me = s.me ∧
         t.mem = s.mem ∧ ∃ q, t.part? p.pid = some q ∧ q.pta = false ∧ q.reqs = p.reqs) ∧
     (∀ (p : Part) r rest, s.pendingAsync.head? = some 0x14 → s.myPart? = some p → p.reqs = r :: rest →
       let v := if p.reqLost then r.val ||| BitVec.ofNat 64 (2 ^ 63) else r.val
       ∃ t : State, exec .asyncTrapEntry s = .next (t.takeTrap ⟨0x14, v, .sup⟩ true false) ∧ t.me = s.me ∧
         t.mem = s.mem ∧ ∃ q, t.part? p.pid = some q ∧ q.reqs = rest ∧ q.reqLost = false) ∧
     (s.pendingAsync = [] → exec .asyncTrapEntry s = .next s)) ∧
  (∀ (s : State), s.ev.x = s.me.uid → s.me.live = true →
     exec .wdogExpiry s = .next { s with me := { s.me with wdgPend := true } })

/-- R85, R145, R213: a read of a control register that the level may read completes with the register's value; one of VSTART, VCOMMIT,
FFLAGS and POISON waits until the vector queue is empty or held, one of VLEN and VTYPE only for a queued `vldff` (R297). The values of
the registers. A register that nothing defines is illegal, one of the partition is illegal on a strand without one at every
level (R467, which names the hypervisor strand; strands at MON by log 27), and one above the level traps with cause 0x04. -/
def Obligations.ControlReads : Prop :=
  ∀ (s : State) (d : SReg) (c : BitVec 14), s.me.writable d →
    (∀ r w, regLevels c.toNat = some (r, w) → r.num ≤ s.me.pl.num → (hypReg c.toNat = true → s.me.owner = .hyp) →
      (partReg c.toNat = true → s.me.owner.pid?.isSome = true) → s.readsNow c.toNat →
        exec (.getc d c) s = .next (s.retire 4 d (wd (s.getReg c.toNat)))) ∧
    (c.toNat ∈ readWaits → s.me.vheld = false → s.me.vq ≠ [] → exec (.getc d c) s = .next s) ∧
    ((c.toNat = 0x010 ∨ c.toNat = 0x011) → s.me.vheld = false → s.me.ldffQueued = true → exec (.getc d c) s = .next s) ∧
    (∀ p ∈ ctlReads s, c.toNat = p.1 → wd (s.getReg c.toNat) = p.2) ∧
    (partReg c.toNat = true → s.me.owner.pid? = none →
      exec (.getc d c) s = .next (s.takeTrap ⟨1, Instr.words (.getc d c), .sup⟩ false false)) ∧
    (regLevels c.toNat = none → exec (.getc d c) s = .next (s.takeTrap ⟨1, Instr.words (.getc d c), .sup⟩ false false)) ∧
    (∀ r w, regLevels c.toNat = some (r, w) → s.me.pl.num < r.num →
      (partReg c.toNat = true → s.me.owner.pid?.isSome = true) →
      exec (.getc d c) s = .next (s.takeTrap ⟨4, Instr.words (.getc d c), .sup⟩ false false))

/-- R59, R141, R144-R146, R213, R235: a write of a register of the strand that the level may write changes its fields and
nothing else but the pc; one of VLEN, VTYPE, VSTART and VCOMMIT waits until the vector queue is empty or held. The rows of the
table that are such writes do the same with their value. SUPHOME and PEERTAB (R461) change for the partition; IPEND clears what
is written as 1, but no held request; FWCTL and FWHYP change until LOCK is 1 on a device that has booted (R447; before that nothing is
stated here). A write of a register that nothing defines is illegal, and one above the level traps. By the model's reading VLEN is
taken modulo 2^12 (log 29), a cleared PTA keeps the recorded context and word (log 30), and the rows are writes of the strand (log 31). -/
def Obligations.ControlWrites : Prop :=
  ∀ (s : State) (a : SReg) (c : BitVec 14), s.me.readable a →
    (∀ p ∈ ctlWrites (s.me.sreg a), c.toNat = p.1 → ∀ r w, regLevels c.toNat = some (r, w) → w.num ≤ s.me.pl.num →
      (c.toNat ∈ writeWaits → s.queueQuiet) → (c.toNat = 0x010 → s.me.vheld = true ∨ s.me.ldffQueued = false) →
        exec (.putc a c) s = .next ({ s with me := p.2 s.me }.skip 4)) ∧
    (∀ p ∈ ctlWrites s.ev.v, ∀ i ∈ ownRows, i.2 = p.1 → ∀ r w, regLevels i.2 = some (r, w) → w.num ≤ s.me.pl.num →
      (i.2 ∈ writeWaits → s.queueQuiet) → (i.2 = 0x010 → s.me.vheld = true ∨ s.me.ldffQueued = false) →
        exec i.1 s = .next ({ s with me := p.2 s.me }.skip 4)) ∧
    (∀ r w, c.toNat ∈ writeWaits → regLevels c.toNat = some (r, w) → w.num ≤ s.me.pl.num → s.me.vheld = false → s.me.vq ≠ [] →
      exec (.putc a c) s = .next s) ∧
    (∀ q, s.myPart? = some q → 1 ≤ s.me.pl.num →
      (∀ p ∈ partWrites (s.me.sreg a), c.toNat = p.1 → exec (.putc a c) s = .next ((s.modPart q.pid p.2).skip 4)) ∧
      (c.toNat = 0x109 → ∃ t u, exec (.putc a c) s = .next t ∧ t.part? q.pid = some u ∧
        u = { q with pta := q.pta && !(s.me.sreg a).getLsbD 0 } ∧ t.mem = s.mem ∧
        t.me = { s.me with wdgPend := s.me.wdgPend && !(s.me.sreg a).getLsbD 1, pc := s.me.pc + 4 })) ∧
    (s.me.pl = .mon →
      (s.fwlock = true → c.toNat = 0x330 ∨ c.toNat = 0x331 → exec (.putc a c) s = .next (s.skip 4)) ∧
      (s.fwlock = false → c.toNat = 0x330 → s.bootst ≠ 0 →
        exec (.putc a c) s =
          .next ({ s with pfen := (s.me.sreg a).getLsbD 0, fwlock := (s.me.sreg a).getLsbD 1 }.skip 4)) ∧
      (s.fwlock = false → c.toNat = 0x331 →
        exec (.putc a c) s = .next ({ s with
          fwbase := (s.me.sreg a).setWidth 11, fwsize := (s.me.sreg a >>> 16).setWidth 11 }.skip 4))) ∧
    (regLevels c.toNat = none → exec (.putc a c) s = .next (s.takeTrap ⟨1, Instr.words (.putc a c), .sup⟩ false false)) ∧
    (∀ r w, regLevels c.toNat = some (r, w) → s.me.pl.num < w.num →
      exec (.putc a c) s = .next (s.takeTrap ⟨4, Instr.words (.putc a c), .sup⟩ false false))

/-- R222: `end` with a vector queue that is empty or held removes the strand: it is live no longer, holds no slot, and no parked word
waits for it. Of a service strand nothing else in memory changes.
R188: it ORs the strand's flags into the completion word of its launch, counts it down, and sets ST to DONE at 0; the launch has
one strand less, and with the last it is final.
R123: `tlbi` and `tlbia` remove cached translations of the partition and change no register and no byte of memory, but that scalar
loads on their way take their values first (log 11):
`tlbia` all, `tlbi` those of the page that holds its address for its ASID and the global ones, each piece of a page that stage 2
cuts, and the non-leaf entries on the way.
R113, R223, R224: `swb` changes no value and never faults; `dfin` of an empty range does nothing, and of a range that
passes 2^64 raises the store fault; `test.scan` of an operand with a reserved bit answers 3, and of a core that is not
withdrawn 2.
R223, R224: `dfin` of a range inside one 4 KiB block collapses the active elements that the range meets, if its page is a DET page,
nothing in the host aperture and in the scratch aperture, and retires; `test.scan` of a withdrawn core that is drained starts the pattern and waits, gives COMPLETE with the signature once it
ends (when it ends is free), and ABORTED when the core has been given work. -/
def Obligations.SystemResults : Prop :=
  (∀ (s : State), (s.me.vheld = true ∨ s.me.vq = []) →
     ∃ t, exec .endStrand s = .next t ∧ t.me.uid = s.me.uid ∧ t.me.live = false ∧ t.me.place = none ∧
       (∀ o ∈ t.slots, o.uid ≠ s.me.uid) ∧ (s.me.owner.pid? = none → s.launchOf s.me = none → t.mem = s.mem) ∧
       (∀ p, s.myPart? = some p → ∃ q, t.part? p.pid = some q ∧ ∀ w ∈ q.parked, w.uid ≠ s.me.uid) ∧
       (∀ l, s.launchOf s.me = some l → ∃ l', t.launch? l.id = some l' ∧ l'.left = l.left - 1 ∧
         (l.left ≤ 1 → l'.stat = .final)) ∧
       (∀ l pl, s.launchOf s.me = some l → recBits l.record 320 64 % 8 = 0 → s.cwPlace l = some pl → s.Inv → s.plainAt pl.addr 8 →
         (∀ c ∈ s.calls, c.uid ≠ s.me.uid) →
           let old := wd (s.natAt pl.addr 8)
           let new := wd (t.natAt pl.addr 8)
           new.extractLsb' 32 32 = old.extractLsb' 32 32 - 1 ∧
           new.extractLsb' 8 5 = old.extractLsb' 8 5 ||| s.me.lanes.toList.foldl (· ||| ·) s.me.fflags ∧
           new.extractLsb' 0 3 = (if old.extractLsb' 32 32 = 1 then 2 else old.extractLsb' 0 3) ∧
           new.extractLsb' 13 19 = old.extractLsb' 13 19)) ∧
  (∀ (s : State) (a b : SReg) (p : Part), s.me.pl ≠ .app → s.me.vq = [] → s.myPart? = some p →
     (∃ s1 t, exec .tlbia s = .next t ∧ s.landsTo s1 ∧ (∀ x, x ∈ t.tlb ↔ x ∈ s1.tlb ∧ x.pid ≠ p.pid) ∧
       t = { s1 with tlb := t.tlb, recent := t.recent, me := { s1.me with pc := s1.me.pc + 4 } }) ∧
     (s.me.readable a → s.me.readable b →
       let va := (s.me.sreg a).toNat
       ∃ s1 t, exec (.tlbi a b) s = .next t ∧ s.landsTo s1 ∧
         t = { s1 with tlb := t.tlb, recent := t.recent, me := { s1.me with pc := s1.me.pc + 4 } } ∧
         ∀ x, x ∈ t.tlb ↔ x ∈ s1.tlb ∧ ¬ (x.pid = p.pid ∧
           (x.what.global = true ∨ x.asid = (s.me.sreg b).setWidth 16) ∧
           (∀ y, x.what = .page y → x.va / y.l1.size = va / y.l1.size) ∧
           (∀ i tb, x.what = .table i tb → x.va ≤ va ∧ va < x.va + x.size)))) ∧
  (∀ (s : State) (d a b : SReg), s.me.readable a → s.me.readable b → s.me.writable d →
     exec (.swb a b) s = .next (s.skip 4) ∧
     (s.me.sreg b = 0 → exec (.dfin a b) s = .next (s.skip 4)) ∧
     (2 ^ 64 < (s.me.sreg a).toNat + (s.me.sreg b).toNat →
       exec (.dfin a b) s = .next (s.takeTrap ⟨7, s.me.sreg a, .sup⟩ false false)) ∧
     (s.me.pl = .mon → (s.me.sreg a).toNat / 2 ^ 24 ≠ 0 → exec (.testScan d a) s = .next (s.retire 4 d 3)) ∧
     (s.me.pl = .mon → (s.me.sreg a).toNat < 2 ^ 18 → (s.me.sreg a).toNat / 2 ^ 13 % 8 = 0 →
       let c := physCore (s.me.sreg a).toNat
       c.col ≤ 8 → c.core ≤ 8 → (s.ctl c).wd = false → (s.ctl c).scanBy ≠ some s.me.uid →
         exec (.testScan d a) s = .next (s.retire 4 d 2))) ∧
  (∀ (s : State) (d a b : SReg), s.me.readable a → s.me.readable b → s.me.writable d →
     (∀ pl s1,
       let x := (s.me.sreg a).toNat
       let n := (s.me.sreg b).toNat
       n ≠ 0 → x % 4096 + n ≤ 4096 → x + n ≤ 2 ^ 64 →
       (inAperture (s.me.sreg a) = true → exec (.dfin a b) s = .next (s.skip 4)) ∧
       (inAperture (s.me.sreg a) = false → (dfinPlace (s.me.sreg a) (s.me.sreg a)).run s = .ok (some pl) s1 →
         exec (.dfin a b) s = .next (State.skip (if pl.det = true
           then (s1.accums.filter fun c => c.meets pl.addr n).foldl State.collapse s1 else s1) 4)) ∧
       (inAperture (s.me.sreg a) = false → (dfinPlace (s.me.sreg a) (s.me.sreg a)).run s = .ok none s1 →
         exec (.dfin a b) s = .next (s1.skip 4))) ∧
     (s.me.pl = .mon →
       let x := (s.me.sreg a).toNat
       let c := physCore x
       let k := s.ctl c
       x < 2 ^ 18 → x / 2 ^ 13 % 8 = 0 → c.col ≤ 8 → c.core ≤ 8 →
       (k.wd = true → s.drained c = true → k.scanBy = none →
         exec (.testScan d a) s = .next (s.modCtl c fun k => { k with scanBy := some s.me.uid })) ∧
       (k.scanBy = some s.me.uid → k.wd = false →
         exec (.testScan d a) s = .next ((s.modCtl c fun k => { k with scanBy := none }).retire 4 d 1)) ∧
       (k.scanBy = some s.me.uid → k.wd = true → Config.free s.tick s.draw % 2 = 1 →
         ∃ (t : State) (sig : BitVec 32), exec (.testScan d a) s = .next t ∧ t.me = (s.retire 4 d (wd (sig.toNat * 2 ^ 32))).me ∧
           (t.ctl c).scanBy = none ∧ (t.ctl c).sig = sig ∧ (t.ctl c).pat = x / 2 ^ 16 ∧ t.mem = s.mem) ∧
       (k.scanBy = some s.me.uid → k.wd = true → Config.free s.tick s.draw % 2 ≠ 1 →
         ∃ t : State, exec (.testScan d a) s = .next t ∧ t.me = s.me ∧ t.cores = s.cores ∧ t.mem = s.mem)))

/-! ### Messaging and engine calls -/

/-- R312, R317: `route` sets its ROUTE register, without the reserved bits; a word written to an enabled port goes to the
strand that ROUTE names if it holds a slot and its queue has room, waits while the queue is full, and is discarded while the
route is not valid and where the position is absent or has no such strand.
R315, R316: a word for a strand that is switched out is parked, and the target is recorded and pending for the supervisor; one for a
port with parked words is parked behind them; a full overflow store discards it and raises scheduler request 0x04.
R328, R329: `sem.sig` adds its signed operand to the count within 0 and 2^64 − 1; `sem.wait` retires once the count has
reached its operand and takes nothing; `sem.poll` reads the count; a number above 4095 is illegal, and one outside SEMLO to SEMHI
traps with cause 0x04. -/
def Obligations.MessagingResults : Prop :=
  (∀ (s : State) (a d r : SReg) (n : BitVec 2) (im : BitVec 14) (sh : BitVec 6) (hi : BitVec 19) (wide : BitVec 49) (p : Part),
     s.myPart? = some p → s.me.readable a →
     (s.allows 3 →
       exec (.route n a) s =
         .next ({ s with me := { s.me with routes := s.me.routes.setIfInBounds n.toNat (s.me.sreg a &&& routeMask) } }.skip 4)) ∧
     (s.me.isPort d = true → s.me.readable r →
       let x := nth s.me.routes.toList (d.toNat - 28) 0
       let pos := x.toNat / 2 ^ 16 % 2 ^ 11 % p.h * p.w + x.toNat % 2 ^ 11 % p.w
       let port := x.toNat / 2 ^ 32 % 4
       let num := x.toNat / 2 ^ 28 % 4
       ∀ w ∈ writers s.me d a r im sh hi wide,
       (x.getLsbD 63 = false ∨ p.coreAt s.me.owner.ctx pos = none ∨ s.strandAt p.pid s.me.owner.ctx pos num = none →
         exec w.1 s = .next (s.skip w.2.2)) ∧
       (∀ t, x.getLsbD 63 = true → (p.coreAt s.me.owner.ctx pos).isSome = true →
         s.strandAt p.pid s.me.owner.ctx pos num = some t →
         let q := nth t.ports.toList port []
         let behind := ∃ y ∈ p.parked, y.uid = t.uid ∧ y.port = port
         (t.place.isSome = true → ¬ behind → q.length < 16 →
           exec w.1 s = .next ((s.modStrand t.uid fun t =>
             { t with ports := t.ports.setIfInBounds port (q ++ [(w.2.1, s.me.taint)]) }).skip w.2.2)) ∧
         (t.place.isSome = true → ¬ behind → 16 ≤ q.length → exec w.1 s = .next s) ∧
         (t.place = none ∨ behind → p.parked.length < 65536 →
           ∃ u q, exec w.1 s = .next u ∧ u.part? p.pid = some q ∧ u.me = (s.skip w.2.2).me ∧ u.mem = s.mem ∧
             q.parked = p.parked ++ [⟨t.uid, port, w.2.1, s.me.taint⟩] ∧
             (t.place = none → q.pta = true ∧ (p.ptaWord.getLsbD 63 = false → q.ptaWord = x ∧ q.ptaCtx = t.owner.ctx) ∧
               (p.ptaWord.getLsbD 63 = true → q.ptaWord = p.ptaWord ∧ q.ptaCtx = p.ptaCtx)) ∧
             (t.place.isSome = true → q.pta = p.pta ∧ q.ptaWord = p.ptaWord ∧ q.ptaCtx = p.ptaCtx)) ∧
         (t.place = none ∨ behind → 65536 ≤ p.parked.length →
           exec w.1 s = .next ((s.request p.pid (4 + port * 2 ^ 8) (some t.owner.ctx)).skip w.2.2))))) ∧
  (∀ (s : State) (d a b : SReg) (p : Part), s.myPart? = some p → s.allows 3 → s.me.readable a → s.me.readable b →
     s.me.writable d → s.me.vq = [] →
     let n := (s.me.sreg a).toNat
     let e := p.eff s.me.owner.ctx s.me.owner.rcb
     (4096 ≤ n → ∀ i ∈ [(.semSig a b : Instr), .semWait a b, .semPoll d a],
       exec i s = .next (s.takeTrap ⟨1, Instr.words i, .sup⟩ false false)) ∧
     (n < 4096 → e.semlo ≤ n → n ≤ e.semhi →
       (∃ t q, exec (.semSig a b) s = .next t ∧ t.part? p.pid = some q ∧
         t = { s with recent := t.recent, parts := t.parts, me := { s.me with pc := s.me.pc + 4 } } ∧
         q.sem n = (min (max ((p.sem n : Int) + (s.me.sreg b).toInt) 0) (2 ^ 64 - 1)).toNat ∧ ∀ m, m ≠ n → q.sem m = p.sem m) ∧
       ((s.me.sreg b).toNat ≤ p.sem n → exec (.semWait a b) s = .next (s.acquire.skip 4)) ∧
       (p.sem n < (s.me.sreg b).toNat → exec (.semWait a b) s = .next s) ∧
       exec (.semPoll d a) s = .next (s.acquire.retire 4 d (wd (p.sem n)))) ∧
     (n < 4096 → ¬ (e.semlo ≤ n ∧ n ≤ e.semhi) → ∀ i ∈ [(.semSig a b : Instr), .semWait a b, .semPoll d a],
       exec i s = .next (s.takeTrap ⟨4, Instr.words i, .sup⟩ false false)))

/-- R319, R321-R323: an arrival of a member that has not arrived is recorded, starts the deadline if it is the first, and
releases the generation if it completes the population; `bar.wait` retires once its participant has not arrived; `bar.aw`
whose arrival releases the barrier retires, and one whose arrival does not waits; an arrival that is not counted traps with cause
0x0D, a marked participant with cause 0x0C; `bar.def` of another binding cancels a generation with arrivals and sets the binding context;
it binds a rectangle within the grid with a strand and no reserved bit, or takes the binding away (V = 0), and another word is illegal.
An id above 1023 is illegal, and one at or above BARQ traps with cause 0x04. -/
def Obligations.BarrierResults : Prop :=
  (∀ (s : State) (a b : SReg) (p : Part), s.myPart? = some p → s.allows 3 → s.me.readable a → s.me.readable b →
    let id := (s.me.sreg a).toNat
    ∀ i ∈ [(.barDef a b : Instr), .barArr a, .barWait a, .barAw a],
      (1024 ≤ id → exec i s = .next (s.takeTrap ⟨1, Instr.words i, .sup⟩ false false)) ∧
      (id < 1024 → (p.eff s.me.owner.ctx s.me.owner.rcb).barq ≤ id →
        exec i s = .next (s.takeTrap ⟨4, Instr.words i, .sup⟩ false false)) ∧
      (id < 1024 → id < (p.eff s.me.owner.ctx s.me.owner.rcb).barq → (p.bar id).marked.contains s.me.participant = true →
        ∃ t : State, exec i s = .next (t.takeTrap ⟨0x0C, wd id, .sup⟩ false false) ∧ t.me = s.me)) ∧
  (∀ (s : State) (a b : SReg) (p : Part), s.myPart? = some p → s.allows 3 → s.me.readable a → s.me.vq = [] →
    let id := (s.me.sreg a).toNat
    let x := p.bar id
    let me := s.me.participant
    id < (p.eff s.me.owner.ctx s.me.owner.rcb).barq → id < 1024 → x.marked.contains me = false →
      (x.arrived.contains me = false →
        exec (.barWait a) s = .next { s.acquire with me := { s.me with waitBar := none, pc := s.me.pc + 4 } }) ∧
      (x.arrived.contains me = true → exec (.barWait a) s = .next { s with me := { s.me with waitBar := some id } }) ∧
      (x.v = true → (p.population x).contains me = true → x.arrived.contains me = false →
        ∃ t q, exec (.barArr a) s = .next t ∧ t.part? p.pid = some q ∧ t.mem = s.mem ∧ t.me.pc = s.me.pc + 4 ∧
          t.me.s = s.me.s ∧
          ((p.population x).all (fun m => (me :: x.arrived).contains m) = true →
            (q.bar id).arrived = [] ∧ (q.bar id).gen = x.gen + 1) ∧
          ((p.population x).all (fun m => (me :: x.arrived).contains m) = false →
            (q.bar id).arrived = me :: x.arrived ∧ (q.bar id).gen = x.gen ∧
            (x.arrived = [] → (q.bar id).deadline = s.time.toNat + 2 ^ s.me.barExp))) ∧
      (x.v = true → (p.population x).all (fun m => (me :: x.arrived).contains m) = true →
        (p.population x).contains me = true → x.arrived.contains me = false → x.awp.contains me = false →
        ∃ t q, exec (.barAw a) s = .next t ∧ t.part? p.pid = some q ∧ t.me.pc = s.me.pc + 4 ∧ (q.bar id).arrived = [] ∧
          (q.bar id).gen = x.gen + 1 ∧ t.mem = s.mem) ∧
      (x.v = true → (p.population x).all (fun m => (me :: x.arrived).contains m) = false →
        (p.population x).contains me = true → x.arrived.contains me = false → x.awp.contains me = false →
        ∃ t q, exec (.barAw a) s = .next t ∧ t.part? p.pid = some q ∧ t.me = { s.me with waitBar := some id } ∧
          (q.bar id).arrived = me :: x.arrived ∧ (q.bar id).awp = me :: x.awp ∧ (q.bar id).gen = x.gen ∧ t.mem = s.mem) ∧
      ((x.v = false ∨ (p.population x).contains me = false ∨ x.arrived.contains me = true) →
        exec (.barArr a) s = .next (s.takeTrap ⟨0x0D, wd id, .sup⟩ false false)) ∧
      (s.me.readable b →
        let n := (s.me.sreg b).toNat
        let legal := n / 2 ^ 63 = 0 ∨ (n / 2 ^ 11 % 2 ^ 5 = 0 ∧ n / 2 ^ 27 % 2 ^ 5 = 0 ∧ n / 2 ^ 43 % 2 ^ 5 = 0 ∧
          n / 2 ^ 32 % 2 ^ 11 < p.w ∧ n / 2 ^ 48 % 2 ^ 11 < p.h ∧ n / 2 ^ 59 % 2 ^ 4 ≠ 0)
        (¬ legal → exec (.barDef a b) s = .next (s.takeTrap ⟨1, Instr.words (.barDef a b), .sup⟩ false false)) ∧
        (legal → ∃ t q, exec (.barDef a b) s = .next t ∧ t.part? p.pid = some q ∧ (q.bar id).binding = s.me.sreg b ∧
          (x.binding ≠ s.me.sreg b → (q.bar id).ctx = s.me.owner.ctx) ∧
          (x.arrived = [] ∨ x.binding = s.me.sreg b → t.me = { s.me with pc := s.me.pc + 4 } ∧ t.mem = s.mem ∧
            (q.bar id).gen = x.gen ∧ (q.bar id).arrived = x.arrived) ∧
          (x.arrived ≠ [] → x.binding ≠ s.me.sreg b → (q.bar id).arrived = []))))

/-- R22, R24, R226: a `post` to an engine whose bulkhead is up takes the lowest free slot of the call table, gives its ticket
to sd, and appends one call with the 64 bytes of its record to the engine's calls; one to an ill-formed engine address, or beyond an
ENGQ cap, takes a slot that is a FAULT at once. Memory stays. A full queue gives BUSY with NW = 1; else the post waits if a slot is
free, and with a table of FAULT and RESET slots alone it traps with cause 0x10 and code 2. -/
def Obligations.PostResults : Prop :=
  ∀ (s s1 : State) (d a b : SReg) (p : Part) (pl : Place) (i : Nat), s.myPart? = some p → s.allows 2 →
    s.me.readable a → s.me.readable b → s.me.writable d → (s.me.sreg b).toNat % 64 = 0 →
    (placeE (s.me.sreg b) .r).run s = .ok (.ok pl) s1 → s1.settled pl.addr 64 → s1.resting pl.addr 64 →
    s1.badAt pl.addr 64 = false → pl.addr % 8 = 0 →
    let ea := s.me.sreg a
    let eng := s1.engOf p s.me.owner.ctx (eaKind ea) (ownIndex s.me ea)
    (eaOk p s.me ea false = true → s1.queueFull (eaKind ea) eng (eaQueue ea) p.pid s.me.owner.ctx = true →
      (eaNw ea = true → exec (.postCall d a b) s = .next (s1.retire 4 d (BitVec.allOnes 64))) ∧
      (eaNw ea = false → (s.me.calls.findIdx? (·.isNone)).isSome = true → exec (.postCall d a b) s = .next s) ∧
      (eaNw ea = false → (∀ o ∈ s.me.calls, ∃ x : Slot, o = some x ∧ (x.stat = .fault ∨ x.stat = .reset)) →
        exec (.postCall d a b) s = .next (s.takeTrap ⟨0x10, 2, .sup⟩ false false))) ∧
    ((s.me.calls.findIdx? (·.isNone)) = some i →
    (eaOk p s.me ea false = false →
      ∃ t sl, exec (.postCall d a b) s = .next t ∧ t.me.calls = s.me.calls.set i (some sl) ∧ sl.stat = .fault ∧
        sl.record = faultRecord 1 (eaKind ea) (eaQueue ea) 0 ∧ t.calls = s.calls ∧ t.mem = s.mem ∧
        t.me.sreg d = if d = 0 then 0 else wd (sl.ticket i)) ∧
    (eaOk p s.me ea false = true → s1.queueFull (eaKind ea) eng (eaQueue ea) p.pid s.me.owner.ctx = false →
      s1.engqOver p s.me.owner.ctx s.me.owner.rcb = true →
      ∃ t sl, exec (.postCall d a b) s = .next t ∧ t.me.calls = s.me.calls.set i (some sl) ∧ sl.stat = .fault ∧
        sl.record = faultRecord 8 (eaKind ea) (eaQueue ea) 0 ∧ t.calls = s.calls ∧ t.mem = s.mem ∧
        t.me.sreg d = if d = 0 then 0 else wd (sl.ticket i)) ∧
    (eaOk p s.me ea false = true →
      (∀ rs k, callReturns ea = some (rs, k) → s.me.returnsBusy false rs k = false ∧ (rs = [] ∨ s.me.tiles = [])) →
      s1.queueFull (eaKind ea) eng (eaQueue ea) p.pid s.me.owner.ctx = false →
      s1.engqOver p s.me.owner.ctx s.me.owner.rcb = false → (s.bh (engBh (eaKind ea) eng)).state = .owned →
      (s.bh (engBh (eaKind ea) eng)).lost = false →
      ∃ t sl c, exec (.postCall d a b) s = .next t ∧ t.me.calls = s.me.calls.set i (some sl) ∧ sl.stat = .pending ∧
        t.calls = s.calls ++ [c] ∧ c.record = BitVec.ofNat 512 (s1.natAt pl.addr 64) ∧ c.kind = eaKind ea ∧
        c.queue = eaQueue ea ∧ c.eng = eng ∧ c.uid = s.me.uid ∧ c.slot = i ∧ c.seq = sl.seq ∧ c.started = false ∧
        t.mem = s.mem ∧ t.me.pc = s.me.pc + 4 ∧ t.me.sreg d = if d = 0 then 0 else wd (sl.ticket i)))

/-- R23, R25, R227, R228: `await` of a ticket whose slot is DONE or RESET gives its status and frees the slot, and DONE is an acquire
(R132); of one that is
pending it waits; a FAULT frees the slot and traps with cause 0x10 and the fault record; the BUSY ticket gives 4, and one whose slot is
free or whose SEQ, KIND, QUEUE or INDEX is not its slot's is stale and gives 5; where another strand holds that ticket, R27 has been
broken, which the model remembers for R12 (log 23).
`probe` never waits and never traps on a status: it gives 0 to 5 and frees a final slot. -/
def Obligations.TicketResults : Prop :=
  ∀ (s : State) (d a : SReg) (p : Part), s.myPart? = some p → s.allows 2 → s.me.readable a → s.me.writable d →
    let x := s.me.sreg a
    let free := fun (k : Nat) => { s with me := { s.me with calls := s.me.calls.set k none } }
    let told := if s.others.any fun t => t.live && t.holds x then s.breach p.pid s.me.owner.ctx s.me.pl else s
    let n := x.toNat
    let i := n % 64
    (n = 2 ^ 64 - 1 → s.me.look x = .code 4) ∧
    (n ≠ 2 ^ 64 - 1 → s.me.calls.getD i none = none → s.me.look x = .code 5) ∧
    (∀ sl, n ≠ 2 ^ 64 - 1 → s.me.calls.getD i none = some sl → sl.kind < 16 → sl.queue < 16 →
      let match' := n / 2 ^ 6 % 2 ^ 16 = sl.seq.toNat ∧ n / 2 ^ 22 % 16 = sl.kind ∧ n / 2 ^ 26 % 16 = sl.queue ∧ n / 2 ^ 30 = sl.index
      (match' → s.me.look x = .slot i sl) ∧ (¬ match' → s.me.look x = .code 5)) ∧
    (s.me.look x = .code 4 →
      exec (.awaitCall d a) s = .next (s.retire 4 d 4) ∧ exec (.probeCall d a) s = .next (s.retire 4 d 4)) ∧
    (s.me.look x = .code 5 →
      exec (.awaitCall d a) s = .next (told.retire 4 d 5) ∧ exec (.probeCall d a) s = .next (told.retire 4 d 5)) ∧
    (∀ k sl, s.me.look x = .slot k sl →
      (sl.stat = .pending → exec (.awaitCall d a) s = .next s ∧ exec (.probeCall d a) s = .next (s.retire 4 d 0)) ∧
      (sl.stat = .fault ∨ sl.stat = .reset → exec (.probeCall d a) s = .next ((free k).retire 4 d (wd sl.stat.code))) ∧
      (sl.stat = .reset → exec (.awaitCall d a) s = .next ((free k).retire 4 d 3)) ∧
      (sl.stat = .done → exec (.awaitCall d a) s = .next ((free k).acquire.retire 4 d 1) ∧
        exec (.probeCall d a) s = .next ((free k).acquire.retire 4 d 1)) ∧
      (sl.stat = .fault → exec (.awaitCall d a) s = .next ((free k).takeTrap ⟨0x10, sl.record, .sup⟩ false false)))

/-- R229: `otok` gives the count of sequence a[7:0] with the sequence number above it and the count goes on modulo 2^32, the other
sequences and memory stay; on a strand without a partition it is illegal (R467 for the hypervisor strand, log 27 for strands at MON). -/
def Obligations.TokenResults : Prop :=
  (∀ (s : State) (d a : SReg) (p : Part), s.myPart? = some p → s.allows 2 → s.me.readable a → s.me.writable d →
    let n := (s.me.sreg a).toNat % 256
    ∃ t q, exec (.otok d a) s = .next t ∧ t.me = (s.retire 4 d (wd (p.otok n + n * 2 ^ 32))).me ∧ t.mem = s.mem ∧
      t.part? p.pid = some q ∧ q.otok n = (p.otok n + 1) % 2 ^ 32 ∧ ∀ m, m ≠ n → q.otok m = p.otok m) ∧
  (∀ (s : State) (d a : SReg), s.me.owner.pid? = none →
    exec (.otok d a) s = .next (s.takeTrap ⟨1, Instr.words (.otok d a), .sup⟩ false false))

/-! ### Vector instructions -/

/-- R237, R238: with a vector unit that lags behind, a vector instruction only enters the queue: the entry with what it
captures is last, its scalar destination is pending, and the pc moves past it. `postv` needs a partition (R467). -/
def Obligations.VectorIssue : Prop :=
  ∀ (s : State) (d a b c : VReg) (x y e : SReg) (dk ak k : KReg) (rm : BitVec 3) (tg : BitVec 4) (g : BitVec 8)
    (h z : BitVec 2) (q : BitVec 3) (p : BitVec 4) (l : BitVec 16) (f r : BitVec 1),
    s.me.eager = false → s.me.vheld = false → s.vown s.me = true → s.me.vq.length < 64 → s.me.ldffQueued = false →
    s.me.readable x → s.me.readable y → s.me.writable e →
    ∀ w ∈ issuesArith s.me d a b c x y e dk ak k rm tg g f ++ issuesMemory s.me d b c x y e k h z q p l f r,
      s.allows w.2.2.2 → (w.2.2.2 = 2 → s.myPart?.isSome = true) → exec w.1 s = .next (s.issued w.1 w.2.1 w.2.2.1)

/-- R159, R234, R239-R240, R252-R271: an element-wise vector instruction whose tags its row allows gives each active element
of its destination the result of its row, sets the tags, ORs the flags into the lane sets, and changes nothing else. -/
def Obligations.VectorElements : Prop :=
  ∀ (s : State) (d a b c : VReg) (x : SReg) (k : KReg) (rm : BitVec 3) (m : Nat) (tg : BitVec 4) (sat : Bool),
    s.me.mode? rm = some m →
    ∀ y ∈ s.me.binRows d a b x k ++ s.me.unRows d a k ++ s.me.mixRows d a b c k rm m tg sat ++ s.me.moveRows d a b x k ++
        s.me.carryRows d a x k,
      y.i.wf = true → y.ok → s.vecReady 0 y.named → (∀ r ∈ y.scalars, s.me.readable r) →
        ∃ u, exec y.i s = .next u ∧ s.fills u y

/-- R262, R267: a compare and a mask operation write the active bits of their mask register and no other bit, register or
memory byte; the flags of a compare go to the lane sets.
R241, R268: `mif` pushes CM AND kc, `melse` makes the top its parent AND NOT itself, `mend` pops and `mbrk` clears bits of
CM; they change nothing else. A push beyond 16 entries and a change of an empty stack are queued traps of cause 0x0E. -/
def Obligations.MaskResults : Prop :=
  (∀ (s : State) (dk ak bk : KReg) (a b : VReg) (k : KReg),
     let ta := s.me.vtagOf a.toNat
     let el := fun (r : VReg) e => s.me.elemAt r.toNat (widthOf ta) e
     (s.vecReady 0 [a.toNat, b.toNat] → s.me.vtagOf b.toNat = ta → ta < 12 → ∀ p ∈ vecCmp,
       ∃ u, exec (p.1 dk a b k) s = .next u ∧ s.masks u 4 dk (s.me.kreg k.toNat) (vlmax ta) fun e =>
         if ta < 8 then (p.2.1 ((ifmtOfTag ta).val (el a e)) ((ifmtOfTag ta).val (el b e)), 0)
         else p.2.2 (tagFmt ta) (el a e) (el b e)) ∧
     (s.vecReady 0 [] → ∀ p ∈ maskLogic dk ak bk,
       ∃ u, exec p.1 s = .next u ∧ s.masks u 4 dk allOnes 2048 fun e =>
         (p.2 ((s.me.kreg ak.toNat).getLsbD e) ((s.me.kreg bk.toNat).getLsbD e), 0))) ∧
  (∀ (s : State) (c : KReg), s.vecReady 0 [] → s.me.place.isSome = true → ∀ p ∈ maskStack c,
     let (i, op, push, f) := p
     let st := s.me.mstack
     let parent := (st.dropLast.getLast?).getD allOnes
     let ok := if push then st.length < 16 else st ≠ []
     (ok → ∃ q, exec i s = .next (s.executed 4 [] q fun t => { t with
       mstack := (if push then st else st.dropLast) ++ f s.me.cm parent (s.me.kreg c.toNat) })) ∧
     (¬ ok → exec i s = .next ((s.issued i op 4).inStrip.takeTrap ⟨0x0E, if push then 0 else 1, .sup⟩ false true)))

/-- R274, R275: the reductions leave in element 0 of vd the scalar combined with the active elements: `vred.o` in ascending
order, `vred.r` for integers their sum, `vredmax` and `vredmin` the largest and the smallest. -/
def Obligations.Reductions : Prop :=
  ∀ (s : State) (d a : VReg) (x : SReg) (k : KReg),
    let ta := s.me.vtagOf a.toNat
    let w := widthOf ta
    let c := (s.me.sreg x).toNat % 2 ^ w
    let l := (s.me.actives (s.me.kreg k.toNat) (vlmax ta)).map (s.me.elemAt a.toNat w)
    let all := (s.me.actives allOnes (vlmax ta)).map (s.me.elemAt a.toNat w)
    let fold := fun (f : Nat → Nat → FRes) (l : List Nat) =>
      l.foldl (fun (z : FRes) y => ((f z.1 y).1, z.2 ||| (f z.1 y).2)) (c, (0 : FSet))
    s.vecReady 0 [d.toNat, a.toNat] → s.me.readable x → ta < 12 →
      (∃ u, exec (.vredO d a x k) s = .next u ∧ s.reduced u 4 d.toNat w ta (fold (addOf ta s.me.frm.toNat) l)) ∧
      (∃ u z, exec (.vredR d a x k) s = .next u ∧ s.reduced u 4 d.toNat w ta z ∧
        (ta < 8 → z = (l.foldl (· + ·) c % 2 ^ w, 0)) ∧ (l = [] → z = (c, 0))) ∧
      (∃ u, exec (.vredmax d a x) s = .next u ∧ s.reduced u 8 d.toNat w ta (fold (pickOf true ta) all)) ∧
      (∃ u, exec (.vredmin d a x) s = .next u ∧ s.reduced u 8 d.toNat w ta (fold (pickOf false ta) all))

/-- R235, R236, R269, R272, R273: `vsetl` sets length and tag, gives the length and opens a strip; `vtag` changes one tag; `vext` gives one
element, sign-extended for a signed tag, or 0 beyond the length; `vins` writes one active element; `mpopc` and `mfirst` count and
find active selected elements; `vcompress` packs them. -/
def Obligations.VectorScalars : Prop :=
  ∀ (s : State) (d a : VReg) (e x y : SReg) (k : KReg) (tg : BitVec 4),
    s.me.readable x → s.me.readable y → s.me.writable e →
    let ta := s.me.vtagOf a.toNat
    let td := s.me.vtagOf d.toNat
    let i := (s.me.sreg x).toNat
    let vl := min (min i (vlmax tg.toNat)) s.me.gvl.toNat
    let sel := (s.me.actives allOnes 2048).filter fun j => (s.me.kreg k.toNat).getLsbD j
    (s.vecReady 0 [] →
      (∃ q, exec (.vsetl e x tg) s = .next (State.executed { s with me := { s.me.setS e (wd vl) with
        vl := BitVec.ofNat 12 vl, vtag := tg, strip := s.me.strip + 1 } } 4 [] q id)) ∧
      (∃ q, exec (.vtag d tg) s = .next (s.executed 4 [d.toNat] q fun t => { t with tags := t.tags.setIfInBounds d.toNat tg })) ∧
      (∃ q, exec (.mpopc e k) s = .next (s.executed 8 [] q fun t => t.setS e (wd sel.length))) ∧
      ∃ q, exec (.mfirst e k) s = .next (s.executed 8 [] q fun t => t.setS e ((sel.head?.map wd).getD (BitVec.allOnes 64)))) ∧
    (s.vecReady 0 [a.toNat] →
      let z := s.me.elemAt a.toNat (widthOf ta) i
      ∃ q, exec (.vext e a x) s = .next (s.executed 4 [a.toNat] q fun t => t.setS e
        (if min s.me.vl.toNat (vlmax ta) ≤ i then 0
         else if ta < 8 ∧ ta % 2 = 1 then BitVec.ofInt 64 (toS (widthOf ta) z) else wd z))) ∧
    (s.vecReady 0 [d.toNat] →
      let j := (s.me.sreg y).toNat
      ∃ q, exec (.vins d x y) s = .next (s.executed 8 [d.toNat] q fun t =>
        if s.me.isActive allOnes (vlmax td) j then t.putElem d.toNat (widthOf td) j (i % 2 ^ widthOf td) else t)) ∧
    (s.vecReady 0 [d.toNat, a.toNat] → d ≠ a →
      let w := widthOf ta
      let l := (s.me.actives allOnes (vlmax ta)).filter fun j => (s.me.kreg k.toNat).getLsbD j
      ∃ u, exec (.vcompress d a k) s = .next u ∧
        u = s.executed 8 [a.toNat, d.toNat] u.me.deps (fun t => { t with v := u.me.v, tags := t.tags.setIfInBounds d.toNat (BitVec.ofNat 4 ta), res := u.me.res }) ∧
        (∀ j, j < l.length → u.me.elemAt d.toNat w j = s.me.elemAt a.toNat w (nth l j 0)) ∧
        (∀ j, l.length ≤ j → u.me.elemAt d.toNat w j = s.me.elemAt d.toNat w j) ∧
        ∀ r, r < 64 → r ≠ d.toNat → u.me.vreg r = s.me.vreg r ∧ u.me.vres r = s.me.vres r)

/-- R98, R243, R278-R281: `vmop.o` adds the outer product of eight elements of va and the active elements of vb to its tile,
fused; `vmop.r` leaves it as a contribution of an open tile; `vmzero` clears a tile and `vmrd` merges its contributions, for
integers their exact sum. -/
def Obligations.TileResults : Prop :=
  ∀ (s : State) (d a b : VReg) (k : KReg) (g : BitVec 8),
    let ta := s.me.vtagOf a.toNat
    let w := widthOf ta
    let tile := group d 8
    let i := g.toNat
    let el := fun (r : VReg) e => s.me.elemAt r.toNat w e
    let act := s.me.isActive (s.me.kreg k.toNat) (vlmax ta)
    let fused := fun p q r : Nat => if ta < 8 then ((p * q + r) % 2 ^ w, (0 : FSet)) else fFma (tagFmt ta) s.me.frm.toNat p q r false false
    let frame := fun (u : State) (t : Strand) => u = { s.inStrip with draw := u.draw, me := { t with
      running := s.me.strip, pc := s.me.pc + 8, vcommit := s.me.vcommit + 1, vseq := s.me.vseq + 1, deps := u.me.deps
      stamp := u.me.stamp, v := u.me.v, res := u.me.res, lanes := u.me.lanes } } ∧
      ∀ r, r < 64 → r ∉ tile → u.me.vreg r = s.me.vreg r
    d.toNat % 8 = 0 →
    (s.vecReady 1 ([a.toNat, b.toNat] ++ tile) → a.toNat ∉ tile → b.toNat ∉ tile → s.me.vtagOf b.toNat = ta → ta < 12 →
      (∀ r ∈ tile, s.me.vtagOf r = ta) → 8 * i + 7 < vlmax ta →
      (∃ u, exec (.vmopO d a b k g) s = .next u ∧ frame u s.me ∧ ∀ r e, r < 8 → e < vlmax ta →
        u.me.elemAt (d.toNat + r) w e = if act e then (fused (el a (8 * i + r)) (el b e) (s.me.elemAt (d.toNat + r) w e)).1
          else s.me.elemAt (d.toNat + r) w e) ∧
      (∃ u p, exec (.vmopR d a b k g) s = .next u ∧ frame u { s.me with tiles := [⟨d.toNat, [p]⟩] } ∧ u.me.v = s.me.v ∧
        p.rows = (below 8).map (fun r => el a (8 * i + r)) ∧ p.cols = s.me.vreg b.toNat ∧
        (∀ e, e < vlmax ta → p.act.getLsbD e = act e) ∧ p.frm = s.me.frm)) ∧
    (s.vecReady 1 tile →
      ∃ u, exec (.vmzero d) s = .next u ∧ frame u s.me ∧ ∀ r ∈ tile, u.me.vreg r = 0) ∧
    (∀ p : TilePart, s.me.tiles = [⟨d.toNat, [p]⟩] → State.vecReady { s with me := { s.me with tiles := [] } } 1 tile →
      ∃ u, exec (.vmrd d) s = .next u ∧ frame u { s.me with tiles := [] } ∧
        (s.me.vtagOf d.toNat < 8 → ∀ r e, let w := widthOf (s.me.vtagOf d.toNat)
          r < 8 → e < 8192 / w → u.me.elemAt (d.toNat + r) w e =
            if p.act.getLsbD e then (nth p.rows r 0 * elem w e p.cols.toNat + s.me.elemAt (d.toNat + r) w e) % 2 ^ w
            else s.me.elemAt (d.toNat + r) w e))

/-- R287-R296, R298: a vector load whose elements all have a place gives each active element the data there, sets the tag of vd
to TAG and changes no other element, register or byte of memory; `vldff` that fails beyond its first element keeps what it has
loaded and makes VL the number of the element that failed. -/
def Obligations.VectorLoads : Prop :=
  ∀ (s q1 : State) (d b : VReg) (x y : SReg) (k : KReg) (h : BitVec 2) (l : List Placed),
    s.me.readable x → s.me.readable y → ∀ p ∈ vecLoads s.me d b x y k h,
      let (i, m, ff, len) := p
      let w := widthOf s.me.vtag.toNat
      let base := s.me.sreg x
      let q := s.issued i (.ld d base m ff k) len
      let es := s.elements m base w k
      let got := fun (u : State) (l : List Placed) =>
        (∀ z ∈ l, ∀ pl ∈ z.2, u.me.elemAt d.toNat w z.1.e =
          (q1.natAt pl.addr z.1.size >>> (if w = 4 then 4 * (z.1.e % 2) else 0)) % 2 ^ w) ∧
        (∀ e, (∀ z ∈ l, z.1.e ≠ e) → u.me.elemAt d.toNat w e = s.me.elemAt d.toNat w e) ∧
        (∀ r, r < 64 → r ≠ d.toNat → u.me.vreg r = s.me.vreg r ∧ u.me.vtagOf r = s.me.vtagOf r) ∧
        u.me.vtagOf d.toNat = s.me.vtag.toNat ∧ u.mem = s.mem ∧ u.me.s = s.me.s ∧ u.me.k = s.me.k ∧
        u.me.pc = s.me.pc + wd len ∧ u.me.vcommit = s.me.vcommit + 1 ∧ u.me.vq = [] ∧ u.me.vstart = 0
      s.vecReady 0 (d.toNat :: m.names) → m.allows s.me w → m.fits s.me d w →
      (q.inStrip.reaches .r noExtra es l q1 → q1.quiet l → ∃ u, exec i s = .next u ∧ got u l ∧ u.me.vl = s.me.vl) ∧
      (∀ f : EltFault, ff = true → takeChunk [] es = (es, []) → (checkChunk .r noExtra es).run q.inStrip = .ok (l, some f) q1 →
        f.trims = true → (es.head?.map (·.e)) ≠ some f.e → q1.quiet l →
          ∃ u, exec i s = .next u ∧ got u l ∧ u.me.vl = BitVec.ofNat 12 f.e)

/-- R61, R62, R294, R295, R298, R299, R302: a vector store writes each active element to its place (4-bit elements to half a
byte), of the elements that `vstxo` sends to one address the last; `vplane` writes the scale and plane bytes of its blocks. No
other byte of memory and no register changes. -/
def Obligations.VectorStores : Prop :=
  ∀ (s q1 : State) (v b : VReg) (x y : SReg) (k : KReg) (h : BitVec 2) (pm1 : BitVec 4) (l : List Placed),
    s.me.readable x → s.me.readable y →
    let tv := s.me.vtagOf v.toNat
    let w := widthOf tv
    let base := s.me.sreg x
    let frame := fun (u : State) (len : Nat) =>
      (∀ a, (∀ z ∈ l, ∀ pl ∈ z.2, a < pl.addr ∨ pl.addr + z.1.size ≤ a) → u.byteAt a = s.byteAt a) ∧
      u.me.s = s.me.s ∧ u.me.v = s.me.v ∧ u.me.k = s.me.k ∧ u.me.tags = s.me.tags ∧
      u.me.pc = s.me.pc + wd len ∧ u.me.vcommit = s.me.vcommit + 1 ∧ u.me.vq = [] ∧ u.me.vstart = 0
    (∀ p ∈ vecStores s.me v b x y k h,
      let (i, m, ord, len) := p
      s.vecReady 0 (v.toNat :: m.names) → m.allows s.me w →
      (s.issued i (.st v base m ord k) len).inStrip.reaches .w noExtra (s.elements m base w k) l q1 → q1.quiet l → q1.Inv → apart l →
      (ord = false → ∀ z ∈ l, ∀ z' ∈ l, z ≠ z' → w ≠ 4 → z.1.at' ≠ z'.1.at') →
        ∃ u, exec i s = .next u ∧ frame u len ∧ u.me.lanes = s.me.lanes ∧
          ∀ z ∈ l, (∀ z' ∈ l, z'.1.at' = z.1.at' → w ≠ 4 → z'.1.e ≤ z.1.e) → ∀ pl ∈ z.2,
            (u.natAt pl.addr z.1.size >>> (if w = 4 then 4 * (z.1.e % 2) else 0)) % 2 ^ w = s.me.elemAt v.toNat w z.1.e) ∧
    (let n := min s.me.vl.toNat (vlmax tv)
     let act := s.me.isActive (s.me.kreg k.toNat) (vlmax tv)
     let p := pm1.toNat + 1
     let nblk := (n + 7) / 8
     let es := ((below nblk).filter fun j => (below 8).any fun i => act (8 * j + i)).map fun j =>
       (⟨8 * j, (base + wd j) :: (below p).map fun i => base + wd (nblk * (1 + i) + j), 1⟩ : Elt)
     s.vecReady 0 [v.toNat] → tv ≠ 15 → (s.issued (.vplane v x k pm1) (.plane v base k p) 8).inStrip.reaches .w noExtra es l q1 →
     q1.quiet l → q1.Inv → apart l →
     (∀ z ∈ l, ∀ i j, i < z.2.length → j < z.2.length → i ≠ j →
        (nth z.2 i ⟨0, .svc, false⟩).addr ≠ (nth z.2 j ⟨0, .svc, false⟩).addr) →
       ∃ u, exec (.vplane v x k pm1) s = .next u ∧ frame u 8 ∧ ∀ z ∈ l,
         let blk := sbpBlock p ((below 8).map fun i =>
           if act (z.1.e + i) then tagVal tv (s.me.elemAt v.toNat w (z.1.e + i)) else .num false 0 0)
         ∀ j pl, z.2[j]? = some pl → u.natAt pl.addr 1 = if j = 0 then blk.1 else planeByte (j - 1) blk.2.1)

/-- R300: a vector atomic whose elements have different places writes the new value of each active one and, with ret = 1, leaves
the old ones in vd with the tag of vc; no other byte and no other register changes. `vamo.fadd` adds with one rounding, to
nearest even, on plain pages. -/
def Obligations.VectorAtomicResults : Prop :=
  ∀ (s q1 : State) (d b c : VReg) (x : SReg) (k : KReg) (h z : BitVec 2) (ar ret : BitVec 1) (l : List Placed),
    s.me.readable x →
    let tc := s.me.vtagOf c.toNat
    let w := widthOf tc
    let base := s.me.sreg x
    let m := VAddr.index b h.toNat
    let done := fun (i : Instr) (op : AmoOp) (new : Nat → Nat → Nat) (extra : Place → Word → M Bool) =>
      (s.issued i (.amo op d base b h.toNat c k z.toNat (ar == 1) (ret == 1)) 8).inStrip.reaches .rw extra
        (s.elements m base w k) l q1 →
      q1.quiet l → (∀ p ∈ l, ∀ pl ∈ p.2, pl.addr % p.1.size = 0) → q1.Inv → apart l → (∀ p ∈ l, ∀ p' ∈ l, p ≠ p' → p.1.at' ≠ p'.1.at') →
        ∃ u, exec i s = .next u ∧
          (∀ p ∈ l, ∀ pl ∈ p.2, let old := q1.natAt pl.addr p.1.size
            u.natAt pl.addr p.1.size = new old (s.me.elemAt c.toNat w p.1.e) ∧
            (ret = 1 → u.me.elemAt d.toNat w p.1.e = old)) ∧
          (∀ a, (∀ p ∈ l, ∀ pl ∈ p.2, a < pl.addr ∨ pl.addr + p.1.size ≤ a) → u.byteAt a = s.byteAt a) ∧
          (ret = 0 → u.me.v = s.me.v ∧ u.me.tags = s.me.tags) ∧ (ret = 1 → u.me.vtagOf d.toNat = tc) ∧
          (∀ r, r < 64 → r ≠ d.toNat → u.me.vreg r = s.me.vreg r) ∧ u.me.s = s.me.s ∧ u.me.k = s.me.k ∧
          u.me.pc = s.me.pc + 8 ∧ u.me.vcommit = s.me.vcommit + 1 ∧ u.me.vq = []
    s.vecReady 0 ((if ret = 1 then [d.toNat] else []) ++ [b.toNat, c.toNat]) → s.me.vtagOf b.toNat < 8 → (ret = 1 → m.fits s.me d w) →
      (∀ p ∈ vecAtomics, tc < p.2.2.2 → done (p.1 d x b c k h z ar ret) p.2.1 (fun o v => p.2.2.1 w o v) noExtra) ∧
      (8 ≤ tc → tc < 12 → (∀ p ∈ l, ∀ pl ∈ p.2, pl.det = false) →
        done (.vamoFadd d x b c k h z ar ret) .fadd (fun o v => (fAdd (tagFmt tc) 0 o v).1) (faddCheck tc))

/-- Of a vector unit that executes entries as they are issued (log 10), but for what issue itself refuses.
R98, R142, R153, R159, R234, R242, R289, R298, R314, R467: a vector instruction is illegal while the queue is held, with a
port as scalar destination, and if it is an engine call on a strand without a partition, and traps to HYP if its group is masked;
operands whose tags differ are a type mismatch with both tags in TRAPVAL, an index register that is loaded over with data of
another width is illegal, a poisoned source is a poison trap, and an element without a place a fault at that element, with VSTART
there: traps of the queue, its entry still in it. -/
def Obligations.VectorTraps : Prop :=
  ∀ (s : State) (d a b c : VReg) (x y e : SReg) (dk ak k : KReg) (rm : BitVec 3) (tg : BitVec 4) (g : BitVec 8)
    (h z : BitVec 2) (q : BitVec 3) (p : BitVec 4) (l : BitVec 16) (f r : BitVec 1),
    (∀ w ∈ issuesArith s.me d a b c x y e dk ak k rm tg g f ++ issuesMemory s.me d b c x y e k h z q p l f r,
      (s.me.vheld = true → exec w.1 s = .next (s.takeTrap ⟨1, Instr.words w.1, .sup⟩ false false)) ∧
      (s.me.vheld = false → ∀ t, w.2.1.sd = some t → s.me.isPort t = true →
        exec w.1 s = .next (s.takeTrap ⟨1, Instr.words w.1, .sup⟩ false false)) ∧
      (s.me.vheld = false → (∀ t, w.2.1.sd = some t → s.me.isPort t = false) → w.2.2.2 = 2 → s.myPart? = none →
        exec w.1 s = .next (s.takeTrap ⟨1, Instr.words w.1, .sup⟩ false false)) ∧
      (s.me.vheld = false → (∀ t, w.2.1.sd = some t → s.me.isPort t = false) →
        ∀ u, s.myPart? = some u → u.fmask.getLsbD w.2.2.2 = true →
          exec w.1 s = .next (s.takeTrap ⟨3, Instr.words w.1, .hyp⟩ false false))) ∧
    (s.me.place.isSome = true → s.vecReady 0 [d.toNat, a.toNat, b.toNat] → s.me.vtagOf a.toNat ≠ s.me.vtagOf b.toNat →
      exec (.vadd d a b k) s = .next ((s.issued (.vadd d a b k) (.bin .add d a (.reg b) k) 4).inStrip.takeTrap
        ⟨9, wd (s.me.vtagOf a.toNat + 16 * s.me.vtagOf b.toNat), .sup⟩ false true)) ∧
    (s.me.place.isSome = true → s.vecReady 0 [d.toNat] → s.me.readable x → widthOf (s.me.vtagOf d.toNat) ≠ widthOf s.me.vtag.toNat →
      let i := Instr.vldx d x d k h
      exec i s = .next ((s.issued i (.ld d (s.me.sreg x) (.index d h.toNat) false k) 8).inStrip.takeTrap ⟨1, Instr.words i, .sup⟩ false true)) ∧
    (s.me.place.isSome = true → s.me.vpoison.getLsbD a.toNat = true → s.me.actives (s.me.kreg k.toNat) (vlmax (s.me.vtagOf a.toNat)) ≠ [] →
      State.vecReady { s with me := { s.me with vpoison := 0 } } 0 [] →
      exec (.vmv d a k) s = .next ((s.issued (.vmv d a k) (.un .mv d a k) 4).inStrip.takeTrap
        ⟨0x0F, wd (1 + 4 * a.toNat), .sup⟩ false true)) ∧
    (∀ (q1 : State) (n : EltFault), s.me.place.isSome = true → s.vecReady 0 [d.toNat] → s.me.readable x →
      let w := widthOf (s.me.vtagOf d.toNat)
      let q := s.issued (.vst d x k) (.st d (s.me.sreg x) .unit false k) 4
      let es := s.elements .unit (s.me.sreg x) w k
      (checkChunk .w noExtra (takeChunk [] es).1).run q.inStrip = .ok ([], some n) q1 →
        exec (.vst d x k) s = .next (State.takeTrap { q1 with me := { q1.me with vstart := BitVec.ofNat 12 n.e } } n.trap false true))

/-- Of a vector unit that executes entries as they are issued (log 10).
R303-R305, R307: `vpop` takes the oldest vector of its port, its active elements and TAG, poisoned if its data is in error, and
`vpush` appends one; with
nothing to take, or no room, or no binding, the entry waits; the bounded forms report 0 for a vector that moved and 1 for none.
A limit that is reached retires the entry with 1. A `vpop` or `vpop.nw` of a port bound for departure, and a `vpush` or `vpush.nw` of
one bound for arrival, is illegal, a trap of the queue.
R306, R307: `postv` without an active element is DONE at once and sends nothing; with one it takes the lowest free slot and
appends a call with its record registers, their tags, VLEN and the activity map. -/
def Obligations.StreamResults : Prop :=
  (∀ (s : State) (d : VReg) (q : BitVec 3) (e : SReg) (k : KReg) (lim : BitVec 16), s.vecReady 0 [d.toNat] → s.me.writable e →
     let port := s.me.sport q.toNat
     let w := widthOf s.me.vtag.toNat
     let act := s.me.isActive (s.me.kreg k.toNat) (8192 / w)
     let tv := s.me.vtagOf d.toNat
     let n := min s.me.vl.toNat (vlmax tv)
     let retired := fun (u : State) (len : Nat) => u.me.pc = s.me.pc + wd len ∧ u.me.vq = [] ∧ u.me.vcommit = s.me.vcommit + 1 ∧
       u.mem = s.mem ∧ u.me.k = s.me.k ∧ (∀ r, r < 64 → r ≠ d.toNat → u.me.vreg r = s.me.vreg r)
     let popped := fun (u : State) (x : SVec) (rest : List SVec) => (u.me.sport q.toNat).fifo = rest ∧
       (∀ i, i < 8192 / w → u.me.elemAt d.toNat w i = if act i then
         (if (i + 1) * w ≤ 8 * x.count ∨ w = 4 ∧ i / 2 < x.count then elem w i x.data.toNat else 0)
         else s.me.elemAt d.toNat w i) ∧ u.me.vtagOf d.toNat = s.me.vtag.toNat ∧ u.me.vpoison.getLsbD d.toNat = x.bad
     let pushed := fun (u : State) => u.me.v = s.me.v ∧ u.me.tags = s.me.tags ∧
       ∃ x : SVec, (u.me.sport q.toNat).fifo = port.fifo ++ [x] ∧ x.tag = BitVec.ofNat 4 tv ∧
         x.count = (n * widthOf tv + 7) / 8 ∧ x.pushed = true ∧ x.bad = false ∧
         x.data.toNat = (s.me.vreg d.toNat).toNat % 2 ^ (8 * x.count)
     (q.toNat < s.me.sports.length → ∀ x rest, port.bind ≠ .departure → port.fifo = x :: rest →
       (∃ u, exec (.vpop d q k) s = .next u ∧ retired u 4 ∧ popped u x rest ∧ u.me.s = s.me.s) ∧
       (∃ u, exec (.vpopNw d q e k lim) s = .next u ∧ retired u 8 ∧ popped u x rest ∧ u.me.s = (s.me.setS e 0).s)) ∧
     (q.toNat < s.me.sports.length → port.bind = .departure → port.fifo.length < 4 →
       (∃ u, exec (.vpush d q k) s = .next u ∧ retired u 4 ∧ pushed u ∧ u.me.s = s.me.s) ∧
       (∃ u, exec (.vpushNw d q e k lim) s = .next u ∧ retired u 8 ∧ pushed u ∧ u.me.s = (s.me.setS e 0).s)) ∧
     (port.bind ≠ .departure → port.fifo = [] →
       exec (.vpop d q k) s = .next (s.issued (.vpop d q k) (.pop d q.toNat k) 4) ∧
       (∃ z, exec (.vpopNw d q e k 0) s = .next (s.executed 8 [d.toNat] z fun t => t.setS e 1)) ∧
       (lim ≠ 0 → exec (.vpopNw d q e k lim) s = .next (s.issued (.vpopNw d q e k lim) (.popNw d q.toNat k e lim.toNat) 8))) ∧
     (port.bind = .departure ∧ 4 ≤ port.fifo.length ∨ port.bind = .unbound →
       exec (.vpush d q k) s = .next (s.issued (.vpush d q k) (.push d q.toNat k) 4) ∧
       (∃ z, exec (.vpushNw d q e k 0) s = .next (s.executed 8 [d.toNat] z fun t => t.setS e 1)) ∧
       (lim ≠ 0 → exec (.vpushNw d q e k lim) s = .next (s.issued (.vpushNw d q e k lim) (.pushNw d q.toNat k e lim.toNat) 8))) ∧
     (∀ w ∈ [((.vpop d q k, .pop d q.toNat k, 4) : Instr × VOp × Nat), (.vpopNw d q e k lim, .popNw d q.toNat k e lim.toNat, 8)],
       port.bind = .departure →
         exec w.1 s = .next ((s.issued w.1 w.2.1 w.2.2).inStrip.takeTrap ⟨1, Instr.words w.1, .sup⟩ false true)) ∧
     (∀ w ∈ [((.vpush d q k, .push d q.toNat k, 4) : Instr × VOp × Nat), (.vpushNw d q e k lim, .pushNw d q.toNat k e lim.toNat, 8)],
       port.bind = .arrival →
         exec w.1 s = .next ((s.issued w.1 w.2.1 w.2.2).inStrip.takeTrap ⟨1, Instr.words w.1, .sup⟩ false true)) ∧
     (∀ t, port.bind = .departure ∧ 4 ≤ port.fifo.length ∨ port.bind = .unbound → s.ev.x = s.me.uid → lim ≠ 0 →
       t = s.issued (.vpushNw d q e k lim) (.pushNw d q.toNat k e lim.toNat) 8 →
       ∃ u, exec .boundedStreamLimit t = .next u ∧ u.me.s = (s.me.setS e 1).s ∧ u.me.vq = [] ∧ u.me.v = s.me.v ∧
         u.me.sports = s.me.sports ∧ u.me.vcommit = s.me.vcommit + 1) ∧
     (∀ t, port.bind ≠ .departure → port.fifo = [] → s.ev.x = s.me.uid → lim ≠ 0 →
       t = s.issued (.vpopNw d q e k lim) (.popNw d q.toNat k e lim.toNat) 8 →
       ∃ u, exec .boundedStreamLimit t = .next u ∧ u.me.s = (s.me.setS e 1).s ∧ u.me.vq = [] ∧ u.me.v = s.me.v ∧
         u.me.vcommit = s.me.vcommit + 1)) ∧
  (∀ (s : State) (e x : SReg) (va : VReg) (nm1 : BitVec 4) (k : KReg) (p : Part) (i : Nat),
     let regs := group va (nm1.toNat + 1)
     let ea := s.me.sreg x
     let eng := s.engOf p s.me.owner.ctx (eaKind ea) (ownIndex s.me ea)
     let act := s.me.isActive (s.me.kreg k.toNat) 2048
     s.vecReady 2 regs → s.me.readable x → s.me.writable e → s.myPart? = some p → va.toNat + nm1.toNat ≤ 63 →
     (s.me.calls.findIdx? (·.isNone)) = some i → eaOk p s.me ea true = true →
     let common := fun (u : State) (sl : Slot) => exec (.postv e x va nm1 k) s = .next u ∧
       u.me.calls = s.me.calls.set i (some sl) ∧ u.mem = s.mem ∧ u.me.pc = s.me.pc + 8 ∧ u.me.vq = [] ∧
       u.me.sreg e = (if e = 0 then 0 else wd (sl.ticket i)) ∧ u.me.v = s.me.v
     ((∀ j, j < 2048 → act j = false) → ∃ u sl, common u sl ∧ sl.stat = .done ∧ u.calls = s.calls) ∧
     ((∃ j, j < 2048 ∧ act j = true) → s.queueFull (eaKind ea) eng (eaQueue ea) p.pid s.me.owner.ctx = false →
       s.engqOver p s.me.owner.ctx s.me.owner.rcb = false → (s.bh (engBh (eaKind ea) eng)).state = .owned →
       (s.bh (engBh (eaKind ea) eng)).lost = false →
         ∃ u sl c, common u sl ∧ sl.stat = .pending ∧ u.calls = s.calls ++ [c] ∧ c.kind = eaKind ea ∧ c.queue = eaQueue ea ∧
           c.eng = eng ∧ c.uid = s.me.uid ∧ c.slot = i ∧ c.vl = s.me.vl.toNat ∧ (∀ j, j < 2048 → c.act.getLsbD j = act j) ∧
           c.regs = regs.map fun r => ⟨BitVec.ofNat 4 (s.me.vtagOf r), s.me.vreg r⟩))

/-! ### System registers, the monitor, the device, the host -/

/-- R136, R154, R168, R175, R180, R181, R432, R440, R460: the register writes with rows of their own, at SUP or above in a partition:
the backing areas, the queue drop, the launch queues and their doorbell, reload and kill of an RCB, the report, grants and the
host's interrupt. By the model's reading a write of LQBASE closes every queue and LQDOOR drops what waits of a closed one (log 44), a
queue drop keeps pending marks as log 14 says, and a change of VBACK drops what log 28 says. -/
def Obligations.RegisterWrites : Prop :=
  ∀ (s : State) (p : Part), 1 ≤ s.me.pl.num → s.myPart? = some p →
    let v := s.ev.v
    let n := v.toNat
    let only := fun (i : Instr) (q : Part) => ∃ t, exec i s = .next t ∧ t.part? p.pid = some q ∧ t.mem = s.mem ∧
      t.me = { s.me with pc := s.me.pc + 4 }
    let fault := fun (i : Instr) (a : Nat) => exec i s = .next (s.takeTrap ⟨7, wd a, .sup⟩ false false)
    (let area := n / 2 ^ 17 % 2 ^ 31 * 2 ^ 17
     v.getLsbD 0 = true →
      (∀ a, s.unmapped p area 131072 = some a → fault .vbackWrite a) ∧
      (s.unmapped p area 131072 = none → s.me.vback.getLsbD 0 = false → (s.me.vheld = true ∨ s.me.vq = []) → s.me.tiles = [] →
        exec .vbackWrite s = .next (State.skip { s with me := {
          (if s.me.vback.toNat / 2 ^ 17 % 2 ^ 31 * 2 ^ 17 = area then s.me else s.me.dropResident) with vback := wd (1 + area) } } 4))) ∧
    (∀ e rest, s.me.vheld = true → s.me.vq = e :: rest → exec .vqctlDrop s = .next (State.skip { s with me := { s.me with
      vq := rest, vheld := !rest.isEmpty, vcommit := s.me.vcommit + 1, vstart := 0, spend := sdMask rest } } 4)) ∧
    (s.me.vheld = false → exec .vqctlDrop s = .next (s.skip 4)) ∧
    (s.entriesUsed p = true → exec .detBackingWrite s = .next (s.skip 4)) ∧
    (s.entriesUsed p = false →
      (s.ev.flag = false → only .detBackingWrite { p with detbase := wd (n / 2 ^ 16 % 2 ^ 32 * 2 ^ 16) }) ∧
      (s.ev.flag = true → s.unmapped p p.detbase.toNat (48 * (n % 2 ^ 24)) = none →
        only .detBackingWrite { p with detcnt := wd (n % 2 ^ 24) }) ∧
      (s.ev.flag = true → ∀ a, s.unmapped p p.detbase.toNat (48 * (n % 2 ^ 24)) = some a → fault .detBackingWrite a)) ∧
    (let base := n / 2 ^ 12 % 2 ^ 36 * 2 ^ 12
     ((v.getLsbD 0 = false ∨ s.unmapped p base 4096 = none) → only .lqbaseWrite { p with
        lqbase := wd (n % 2 + base), queues := p.queues.map fun q => { q with isOpen := false } }) ∧
     (v.getLsbD 0 = true → ∀ a, s.unmapped p base 4096 = some a → fault .lqbaseWrite a)) ∧
    (let q := n % 64
     let x := p.queue q
     ∀ l, p.lqbase.getLsbD 0 = true → q < p.queues.length → s.ipaBytes p (p.descIpa q) 40 = some l →
      ∃ t p', exec .lqdoor s = .next t ∧ t.me = { s.me with pc := s.me.pc + 4 } ∧ t.part? p.pid = some p' ∧
        (p'.queue q).word0 = wd (dwordAt l 0) ∧ (p'.queue q).ring = wd (dwordAt l 1) ∧ (p'.queue q).failed = false ∧
        (p'.queue q).tail = BitVec.ofNat 32 (dwordAt l 2) ∧ (p'.queue q).isOpen = (dwordAt l 0).testBit 0 ∧
        ((dwordAt l 0).testBit 0 = true → x.isOpen = false →
          (p'.queue q).head = BitVec.ofNat 32 (dwordAt l 3) ∧ (p'.queue q).replay = (p'.queue q).head ∧
          (p'.queue q).restore = [] ∧
          ∀ z ∈ t.launches, ¬ (z.pid = p.pid ∧ z.queue = some q ∧ z.stat = .waiting)) ∧
        (x.isOpen = true → (p'.queue q).head = x.head ∧ (p'.queue q).replay =
          if (dwordAt l 0).testBit 0 = true ∧ (dwordAt l 0).testBit 3 = false then x.head else x.replay)) ∧
    (p.lqbase.getLsbD 0 = false → exec .lqdoor s = .next (s.skip 4)) ∧
    (s.me.vq = [] →
      (let ipa := n / 2 ^ 7 % 2 ^ 41 * 2 ^ 7
       s.rcbValid p ipa = true →
        (n % 4 = 0 → ∀ r, p.rcb? ipa = some r → ∃ t p', exec .reloadRcb s = .next t ∧ t.part? p.pid = some p' ∧
          t.mem = s.mem ∧ t.me = { s.me with pc := s.me.pc + 4 } ∧
          p'.rcb? ipa = some ((s.rawRcb p ipa).getD { r with killed := false }) ∧
          ∀ z ∈ p.rcbs, z.ipa ≠ ipa → ¬ (z.bits.toNat % 8 = 3 ∧ rcbParent z.bits.toNat = ipa) → z ∈ p'.rcbs) ∧
        (n % 4 = 1 → ∃ t p', exec .killRcb s = .next t ∧ t.part? p.pid = some p' ∧
          (∀ u ∈ t.strands, u.live = true → u.under p.pid ipa = false) ∧
          (∀ c ∈ t.calls, c.pid = p.pid → under ipa c.ctx c.rcb = false) ∧
          (∀ r ∈ p'.rcbs, r.ipa = ipa → r.killed = true) ∧ (∃ r ∈ p'.rcbs, r.ipa = ipa) ∧
          (p'.reqLost = true ∨ ∃ r ∈ p'.reqs, r.val = wd (3 + ipa / 128 * 2 ^ 16)))) ∧
      (let buf := n / 2 ^ 6 % 2 ^ 42 * 2 ^ 6
       (∀ a, s.unmapped p buf 1024 = some a → fault .attest a) ∧
       (∀ nonce, s.unmapped p buf 1024 = none → s.ipaBytes p (buf + 24) 64 = some nonce →
        exec .attest s = .next (State.skip { ((s.settleAll.putIpa p buf (s.report p nonce ++
          idSign (sha512 (s.report p nonce)) (Config.free s.tick s.draw) ++ List.replicate 228 0)).1) with
            draw := s.draw + 1 } 4))) ∧
      (let p' := { p with xgrant := wd (n % 2 + n / 2 ^ 6 % 2 ^ 42 * 2 ^ 6) }
       let u := s.settleAll.modPart p.pid fun _ => p'
       (∀ q ∈ s.parts, q.pid = p.pid → q = p) → s.onTime →
       ∃ t, exec .xgrant s = .next t ∧ t.me = { s.me with pc := s.me.pc + 4 } ∧ t.mem = s.mem ∧
        (∀ q ∈ t.parts, q.pid = p.pid → q.xgrant = p'.xgrant) ∧
        (∀ q ∈ t.parts, ∀ w ∈ q.windows, w.exp = p.pid → u.grant p' w.grant = some (some w.grantData)) ∧
        ∀ q ∈ s.parts, ∀ w ∈ q.windows, w.exp ≠ p.pid → ∃ q' ∈ t.parts, q'.pid = q.pid ∧ w ∈ q'.windows) ∧
      exec .vfirq s = .next (State.skip { s.settleAll with outs := s.outs ++
        (if Config.irqEnabled p.pid (n % 32) then [Out.irq p.pid (n % 32)] else []) } 4))

/-- R197, R417-R421, R425-R429, R431-R434, R449, R450: a request of the hypervisor strand whose block passes its tests has its
effect and status 0 in HMSTAT; a bulkhead reset and a power-on go on until they are complete.
R42, R224, R451-R454: a test orchestrator withdraws a core of its die, returns it, or, once it is drained, removes it for
good; a name that it may not use leaves RES 1 and changes no core, but is the one last named (log 74). The memory of a new partition reads
0, which R429 leaves unspecified (log 1). -/
def Obligations.MonitorRequests : Prop :=
  (∀ (s : State) (x : List Byte) (op pid : Nat), s.me.owner = .hyp → 2 ≤ s.me.pl.num → s.me.vq = [] → s.named → s.onTime →
     s.reqBlock (s.ev.v.toNat / 2 ^ 6 % 2 ^ 42 * 2 ^ 6) = some (op, x, pid) → dwordAt x 0 / 2 ^ 13 = 0 →
     let w1 := dwordAt x 1
     let answered := fun (i : Instr) (f : State → Prop) => ∃ t, exec i s = .next t ∧ t.me.pc = s.me.pc + 4 ∧
       t.me.hmStat = 0 ∧ t.me.hmDetail = 0 ∧ t.me.s = s.me.s ∧ t.hmReq = none ∧ f t
     let waits := fun (i : Instr) (b : Nat) (f : State → Prop) => ∃ t, exec i s = .next t ∧ t.me = s.me ∧ t.hmReq = some (op, b) ∧ f t
     let zero := fun (i : Nat) => restZero x i = true
     let part := fun (i : Instr) (q : Part) => answered i fun t => t.part? pid = some q ∧ t.mem = s.mem
     (op = 1 → s.part? pid = none → allZero (leNat x) createReserved = true →
       let bhs := maskBhs (w1 % 2 ^ 32)
       let w := dwordAt x 2 % 2 ^ 12
       let len := dwordAt x 6 / 2 ^ 6 % 2 ^ 15
       bhs ≠ [] → (∀ b ∈ bhs, b < s.bhs.length ∧ (s.bh b).state = .free) → 0 < w → w % 8 = 0 → w ≤ 2048 →
       64 * bhs.length % w = 0 → 0 < len → len ≤ 16384 → partRcbOk (leNat (slice x 64 128)) = true →
       (∃ z ∈ s.policies, z.version.toNat = dwordAt x 4 % 2 ^ 32) →
       ∀ img room, s.hypImage (dwordAt x 5) (64 * len) = some img → s.svcRoom (64 * len) = some room → s.Inv →
         answered .createPart fun t => t.part? pid = some (newPart pid (w1 % 2 ^ 32) w x img room) ∧
           (∀ b ∈ bhs, (t.bh b).state = .owned ∧ (t.bh b).owner = some pid ∧
             ∀ a, a < 2 ^ 34 → Mem.read t.mem (hbmAt b a) = 0) ∧
           ∀ i, i < img.length → Mem.read t.mem (svcAt room + i) = nth img i 0) ∧
     (∀ p, s.part? pid = some p →
       (op = 2 → zero 8 → answered .destroyPart fun t => t.part? pid = none ∧
         (∀ u ∈ t.others, u.live = true → u.owner.pid? ≠ some pid) ∧ (∀ e ∈ t.tlb, e.pid ≠ pid) ∧
         ∀ b ∈ maskBhs p.bhmask.toNat, b < s.bhs.length → (s.bh b).lost = false →
           (t.bh b).state = .scrub ∧ (t.bh b).owner = none) ∧
       (op = 3 → zero 8 → answered .preset fun t => ∃ p', t.part? pid = some p' ∧ p'.otoks = [] ∧ p'.bars = [] ∧
         p'.parked = [] ∧ p'.pools = [] ∧ p'.killed = false ∧ (∀ c ∈ t.calls, c.pid ≠ pid) ∧
         (∀ u ∈ t.others, u.live = true → u.owner.pid? ≠ some pid) ∧
         ((∀ q ∈ p.queues, (q.isOpen && q.rpl) = false) → p'.sems = [])) ∧
       (op = 6 → zero 24 → allZero w1 [(9, 3), (17, 47)] = true → 64 ≤ dwordAt x 2 → dwordAt x 2 ≤ 1048576 →
         ∀ q l, s.part? (w1 / 16 % 32) = some q → s.grant q (w1 / 2 ^ 12 % 16) = some (some l) →
           let g := leNat l
           let len := g / 2 ^ 144 % 2 ^ 27
           let pma := s.pmaOf q (g / 2 ^ 80 % 2 ^ 32 * 2 ^ 16)
           g / 2 ^ 8 % 32 = p.pid → (w1.testBit 16 = true → g.testBit 1 = true) →
           (∀ r ∈ s.parts, ∀ w ∈ r.windows, w.exp = w1 / 16 % 32 → w.grant = w1 / 2 ^ 12 % 16 → r.pid = p.pid ∧ w.win = w1 % 16) →
           s.contiguous q (w1.testBit 16) len (g / 2 ^ 80 % 2 ^ 32 * 2 ^ 16) pma = true →
             part .winopen { p with windows := ⟨w1 % 16, w1 / 16 % 32, w1 / 2 ^ 12 % 16, w1.testBit 16, pma, len * 65536,
               dwordAt x 2, l⟩ :: p.windows.filter (·.win != w1 % 16) }) ∧
       (op = 7 → zero 16 → w1 < 16 → part .winclose { p with windows := p.windows.filter (·.win != w1) }) ∧
       (op = 8 → zero 24 → dwordAt x 2 < 2 → answered .s2inv fun t => t.mem = s.mem ∧ t.parts = s.parts ∧
         t.tlb = s.tlb.filter fun e => !(decide (e.pid = p.pid) && (dwordAt x 2 == 1 || e.restsOn w1))) ∧
       (op = 9 → (slice x 8 56).all (· == 0) = true → partRcbOk (leNat (slice x 64 128)) = true →
         answered .setrcb fun t => ∃ p', t.part? pid = some p' ∧ p'.rcb = BitVec.ofNat 1024 (leNat (slice x 64 128)) ∧
           p'.create = p.create.take 56 ++ slice x 64 128 ∧ p'.killed = false ∧ t.mem = s.mem)) ∧
     (pid = 0 →
       let b := w1 % 32
       (op = 4 → zero 16 → w1 < 32 → b < s.bhs.length →
         ((s.bh b).state = .owned → s.hmReq ≠ some (4, b) → (∀ c, s.coreOf s.me = some c → s.coreBh c ≠ some b) →
           waits .bhreset b fun t => (t.bh b).state = .reset ∧ (∀ c ∈ t.calls, engBh c.kind c.eng ≠ b) ∧
             ∀ z ∈ t.splits, z.cluster / 8 ≠ b) ∧
         (s.hmReq = some (4, b) → (s.bh b).state ≠ .reset → answered .bhreset fun t => t.bhs = s.bhs)) ∧
       (op = 5 → zero 16 → allZero w1 [(5, 3), (9, 55)] = true → s.bhen.testBit b = true → b < s.bhs.length →
         (s.hmReq = some (5, b) → (s.bh b).rising = false → answered .bhpower fun t => t.bhs = s.bhs) ∧
         (s.hmReq ≠ some (5, b) → w1.testBit 8 = true → (s.bh b).state = .off → (s.bh b).lost = false →
           waits .bhpower b fun t => t.bh b = { s.bh b with rising := true }) ∧
         (s.hmReq ≠ some (5, b) → w1.testBit 8 = false → (s.bh b).state = .free →
           answered .bhpower fun t => t.bh b = Bulkhead.dark)) ∧
       (∀ img, zero 24 → s.newImage x = .ok img →
         (op = 10 → imageVersion s.monImage < imageVersion img →
           (∀ r ∈ s.svcRanges, 0 < r.1 → 0 < r.2 → img.length ≤ r.1) →
           ((∀ k ∈ s.cores, k.scanBy = none) → s.Inv → answered .monupd fun t => t.monImage = img ∧
             t.flash = { s.flash with monitor := img, monCounter := imageVersion img } ∧
             (∀ i, i < img.length → Mem.read t.mem (svcAt i) = nth img i 0) ∧
             ∀ c, s.roleCore 1 = some c → ∀ u ∈ t.strands, u.live = true → u.owner = .mon → u.place = some (c, 0) →
               u.pc = 0 ∧ u.pl = .mon ∧ u.vq = []) ∧
           ((∃ k ∈ s.cores, k.scanBy.isSome = true) → exec .monupd s = .next s)) ∧
         (op = 11 → (∀ z ∈ s.policies, z.version.toNat ≠ imageVersion img) → s.policies.length < 16 →
           ∀ a, s.svcRoom img.length = some a → s.Inv → answered .poladd fun t =>
             t.policies = s.policies ++ [⟨BitVec.ofNat 32 (imageVersion img), img, a⟩] ∧
             ∀ i, i < img.length → Mem.read t.mem (svcAt a + i) = nth img i 0)) ∧
       (op = 12 → zero 16 → w1 < 2 ^ 32 → (∀ q ∈ s.parts, q.pver.toNat ≠ w1) → (∃ z ∈ s.policies, z.version.toNat = w1) →
         answered .poldel fun t => t.policies = s.policies.filter fun z => z.version.toNat != w1))) ∧
  (∀ (s : State), s.me.pl = .mon →
     let x := s.ev.v.toNat
     let c := physCore x
     let op := x / 2 ^ 20 % 4
     let k := s.ctl c
     let res := fun (t : State) (r : BitVec 3) => t.me = { s.me with pc := s.me.pc + 4, cwTarget := some c, cwRes := r }
     (s.cwTargetOk c x = true →
       (op = 0 → ∃ t, exec .withdrawCore s = .next t ∧ res t 0 ∧ t.mem = s.mem ∧
         t.ctl c = { k with core := (t.ctl c).core, wd := true, aprio := BitVec.ofNat 3 (x / 2 ^ 16) } ∧ ∀ c', c' ≠ c → t.ctl c' = s.ctl c') ∧
       (op = 1 → k.scanBy = none → ∃ t, exec .returnCore s = .next t ∧ res t 0 ∧ t.mem = s.mem ∧ (t.ctl c).wd = false ∧
         ∀ c', c' ≠ c → t.ctl c' = s.ctl c') ∧
       (op = 1 → k.scanBy.isSome = true → exec .returnCore s = .next (State.skip { s with me := { s.me with
         cwTarget := some c, cwRes := 3 } } 4)) ∧
       (op = 2 → k.scanBy = none → (k.wd = false ∨ s.drained c = false) → exec .removeCore s = .next (State.skip { s with
         me := { s.me with cwTarget := some c, cwRes := 2 } } 4)) ∧
       (op = 2 → k.scanBy = none → k.wd = true → s.drained c = true → ∃ t r, exec .removeCore s = .next t ∧ res t 0 ∧
         (t.ctl c).removed = true ∧ (t.ctl c).wd = false ∧ t.flash = { s.flash with removals := s.flash.removals ++ [r] } ∧
         r.core = c ∧ r.pat = k.pat ∧ r.sig = k.sig ∧ r.time = s.time ∧ r.version = s.tabVersion ∧
         r.mac = idSign (sha512 r.bytes) (Config.free s.tick s.draw) ∧
         t.subs = s.subs ++ [(c, if bits (s.clusOf c) 9 4 = 15 then none else some (bits (s.clusOf c) 9 4))] ∧
         (clusIndex c < s.clus.length → bits (t.clusOf c) 9 4 = 15) ∧
         ∀ q ∈ t.parts, ∀ r ∈ q.rcbs, ∀ e ∈ r.cmap, mapCore e ≠ some c)) ∧
     (s.cwTargetOk c x = false → ∀ p ∈ [((.withdrawCore, 0) : Instr × Nat), (.returnCore, 1), (.removeCore, 2)], op = p.2 →
       exec p.1 s = .next (State.skip { s with me := { s.me with cwTarget := some c, cwRes := 1 } } 4)))

/-- R182: `launch` on a queue that does not exist, whose descriptor has EN = 0 or PUSH = 0, or that an APP strand may not use,
gives 2; at a full one it gives 1; else it writes the 64 bytes of the record at sa into the slot behind TAIL and TAIL + 1 into the
descriptor, changes no other byte of memory, and gives 0. A record that is not aligned traps.
R164-R167, R177, R184, R186, R187, R190, R196, R315, R321, R324: what the dispatchers do: a selection decides and moves
nothing; a ready record leaves its ring and becomes the waiting launch; a launch that fits starts whole, with one strand for each
present position and strand number on the position's core; a strand is switched out, resumed and its vector state saved; an
exhausted pool holds no resident strand; a period starts anew; a parked word moves in; a barrier at its deadline is cancelled, and
a strand that waits on it takes barrier timeout. -/
def Obligations.DispatcherSteps : Prop :=
  (∀ (s : State) (d a b : SReg) (p : Part), s.myPart? = some p → s.me.readable a → s.me.readable b → s.me.writable d →
     let q := (s.me.sreg b).toNat
     let ea := s.me.sreg a
     let s1 := (s.refresh p.pid q false).1
     ((64 ≤ q ∨ p.lqbase.getLsbD 0 = false) → exec (.launch d a b) s = .next (s.retire 4 d 2)) ∧
     (q < 64 → p.lqbase.getLsbD 0 = true →
       (s.ipaBytes p (p.descIpa q) 40 = none → exec (.launch d a b) s = .next (s1.retire 4 d 2)) ∧
       (∀ l p1, s.ipaBytes p (p.descIpa q) 40 = some l → q < p.queues.length → s1.part? p.pid = some p1 →
         let w0 := dwordAt l 0
         let x := p1.queue q
         ((w0.testBit 0 = false ∨ w0.testBit 1 = false ∨ (s.me.pl = .app ∧ w0.testBit 2 = false)) →
           exec (.launch d a b) s = .next (s1.retire 4 d 2)) ∧
         (w0.testBit 0 = true → w0.testBit 1 = true → (s.me.pl = .app → w0.testBit 2 = true) →
           (x.full = true → exec (.launch d a b) s = .next (s1.retire 4 d 1)) ∧
           (x.full = false → s.me.vq = [] → ea.toNat % 64 ≠ 0 →
             exec (.launch d a b) s = .next (s.takeTrap ⟨8, ea, .sup⟩ false false)) ∧
           (∀ pl s2, x.full = false → s.me.vq = [] → ea.toNat % 64 = 0 →
             (placeE ea .r).run (s1.order (· ≤ 1) (· = 0) 2) = .ok (.ok pl) s2 →
             s2.settled pl.addr 64 → s2.resting pl.addr 64 → s2.badAt pl.addr 64 = false →
             (∀ e, s2.ipaPlace p1 (x.slotIpa x.tail.toNat) .w true = .error e →
               exec (.launch d a b) s = .next ((s2.request p.pid (2 + q * 2 ^ 8)).retire 4 d 2)) ∧
             (∀ slot desc, s2.ipaPlace p1 (x.slotIpa x.tail.toNat) .w true = .ok slot →
               (s2.putDev slot.addr (s2.bytesAt pl.addr 64)).ipaPlace p1 (p1.descIpa q + 16) .w true = .ok desc →
               s2.Inv → s2.plainAt slot.addr 64 → s2.plainAt desc.addr 8 →
               (slot.addr + 64 ≤ desc.addr ∨ desc.addr + 8 ≤ slot.addr) →
               ∃ t p', exec (.launch d a b) s = .next t ∧ t.part? p.pid = some p' ∧
                 (p'.queue q).tail = x.tail + 1 ∧ (p'.queue q).head = x.head ∧
                 t.me = { s2.me.setS d 0 with pc := s.me.pc + 4 } ∧
                 (∀ i, i < 64 → t.byteAt (slot.addr + i) = s1.byteAt (pl.addr + i)) ∧
                 (∀ i, i < 8 → t.byteAt (desc.addr + i) = BitVec.ofNat 8 ((x.tail + 1).toNat >>> (8 * i))) ∧
                 ∀ z, (z < slot.addr ∨ slot.addr + 64 ≤ z) → (z < desc.addr ∨ desc.addr + 8 ≤ z) →
                   t.byteAt z = s1.byteAt z)))))) ∧
  (∀ (s : State), s.named →
     let x := s.ev.x
     let y := s.ev.y
     (∀ p l v, s.ev.y = 0 → (s.trimDc x).part? x = some p → (s.trimDc x).supWork p = some (l, v) →
       let r := (s.trimDc x).reopen ((s.trimDc x).planCores p ⟨[], [], v, some l.id⟩)
       (r.2 = true → exec .dispatchSelection s = .next { r.1 with
         agenda := v.map (fun u => .event .strandSwitchOut (ev1 u)) ++ .event .launchStart (ev1 l.id) :: r.1.agenda }) ∧
       (r.2 = false → exec .dispatchSelection s = .next r.1)) ∧
     (∃ t l, exec .dispatchSelection s = .next t ∧ t.mem = s.mem ∧ t.me = s.me ∧ t.others = s.others ∧ t.launches = s.launches ∧
       t.agenda = l ++ s.agenda) ∧
     (∀ p, s.part? x = some p → y < p.queues.length →
       (∀ r, s.headRecord p y = some (some r) → s.recReady p y r (s.recKind p r) = true →
         (s.recKind p r ≠ .fence → ∃ t p' l, exec .launchRecordTake s = .next t ∧ t.me = s.me ∧ t.part? x = some p' ∧
           (p'.queue y).head = (p.queue y).head + 1 ∧ l ∈ t.launches ∧ l.record = r ∧ l.queue = some y ∧
           l.index = (p.queue y).head.toNat ∧ l.stat = if s.recKind p r = .launch then .waiting else .final) ∧
         (s.recKind p r = .fence → ∃ t p', exec .fenceRecord s = .next t ∧ t.me = s.me ∧ t.part? x = some p' ∧
           (p'.queue y).head = (p.queue y).head + 1 ∧ (p'.queue y).replay = (p.queue y).head + 1 ∧ t.launches = s.launches)) ∧
       (∀ r, s.headRecord p y = some (some r) → s.recReady p y r (s.recKind p r) = false →
         exec .launchRecordTake s = .next s ∧ exec .fenceRecord s = .next s)) ∧
     (∀ p l, s.launch? x = some l → s.part? l.pid = some p → s.eligible p l = true →
       s.fits p l (p.eff l.ctx l.rcb).prio (-1) = some [] →
       (p.present l = [] → ∃ t l', exec .launchStart s = .next t ∧ t.launch? x = some l' ∧ l'.stat = .final ∧
         t.me = s.me ∧ t.others = s.others) ∧
       (∀ c, p.present l ≠ [] → p.rcb? l.ctx = some c → ((p.present l).map fun z => p.coreAt l.ctx z.1).Nodup →
         (∀ u ∈ s.strands, u.uid < s.nextId) →
         let count := (p.present l).length * (recSpcm1 l.record + 1)
         ∃ t l', exec .launchStart s = .next t ∧ t.me = s.me ∧ t.launch? x = some l' ∧ l'.stat = .started ∧ l'.left = count ∧
           (t.others.filter fun u => decide (s.nextId ≤ u.uid)).length = count ∧
           (∀ n dx dy, (n, dx, dy) ∈ p.present l → ∀ j, j ≤ recSpcm1 l.record → ∃ u ∈ t.others, s.nextId ≤ u.uid ∧ u.pos = n ∧
             u.num = BitVec.ofNat 2 (recSbase l.record + j) ∧ u.place.map (·.1) = p.coreAt l.ctx n ∧
             u.s.toList.getD 5 0 = wd (dx + dy * 2 ^ 16 + j * 2 ^ 32)) ∧
           ∀ u ∈ t.others, s.nextId ≤ u.uid → u.live = true ∧ u.place.isSome = true ∧ u.pc = wd (recEntry l.record) ∧
             u.pl = l.level ∧ u.s.toList.getD 4 0 = wd (recArg l.record) ∧ u.owner = .part p.pid l.ctx l.rcb l.id)) ∧
     (∀ u, s.strand? x = some u → u.resident = true → u.owner.pid?.isSome = true → u.vback.getLsbD 0 = true →
       ∃ t u', exec .strandSwitchOut s = .next t ∧ t.strand? x = some u' ∧
         u' = { u with place := none, idling := false, waitBar := none, bankAt := u'.bankAt } ∧ t.slots = s.slots) ∧
     (∀ u p c, s.strand? x = some u → u.owner.pid?.bind s.part? = some p → s.resumable p u = some c → s.freeSlots c ≠ [] →
       (∀ o ∈ s.slots, o.uid ≠ x) →
       ∃ t u' k, exec .strandResume s = .next t ∧ t.strand? x = some u' ∧ u'.place = some (c, k) ∧ k ∈ s.freeSlots c ∧
         u'.s = u.s ∧ u'.pc = u.pc ∧ u'.v = u.v) ∧
     (∀ u, s.strand? x = some u → u.live = true → u.place = none → s.vown u = true → u.vback.getLsbD 0 = true → u.tiles = [] →
       ∃ t u', exec .forcedSave s = .next t ∧ (∀ o ∈ t.slots, o.uid ≠ x) ∧ t.strand? x = some u' ∧ u'.vsaved = true ∧
         (∀ r, r < 64 → (u'.vres r).inSlot = false) ∧ u'.v = u.v) ∧
     (∀ p, s.part? x = some p → p.exhausted s.time y = true →
       ∃ t, exec .poolExhausted s = .next t ∧ ∀ u ∈ t.strands, u.uid ∈ s.poolStrands p y → u.resident = false) ∧
     (∀ p, s.part? x = some p → ∃ t, exec .periodBoundary s = .next t ∧ t.part? x = some { p with
       pools := p.pools.filter fun z => z.rcb != y || z.period = p.period s.time z.rcb } ∧ t = { s with parts := t.parts }) ∧
     (∀ u p w, s.strand? x = some u → u.owner.pid?.bind s.part? = some p → u.resident = true →
       p.parked.find? (fun w => w.uid = x && w.port = y) = some w → (nth u.ports.toList y []).length < 16 → y < 4 →
       ∃ t u' p', exec .parkedWordMoveIn s = .next t ∧ t.strand? x = some u' ∧
         nth u'.ports.toList y [] = nth u.ports.toList y [] ++ [(w.word, w.bad)] ∧ u'.s = u.s ∧ t.part? p.pid = some p' ∧
         p'.parked = p.parked.erase w ∧ t.mem = s.mem) ∧
     (∀ p, s.part? x = some p → (p.bar y).arrived ≠ [] → (p.bar y).deadline ≤ s.time.toNat →
       let waits := fun (u : Strand) => u.resident = true ∧ u.owner.pid? = some x ∧ u.waitBar = some y ∧
         (u.participant ∈ (p.bar y).marked ∨ u.participant ∈ (p.bar y).arrived)
       let cancelled := fun (t : State) (gone : List (Nat × Nat)) => t = { s with parts := t.parts } ∧ ∃ p', t.part? x = some p' ∧
         (p'.bar y).arrived = [] ∧ (p'.bar y).gen = (p.bar y).gen + 1 ∧
         ∀ m, m ∈ (p'.bar y).marked ↔ (m ∈ (p.bar y).marked ∨ m ∈ (p.bar y).arrived) ∧ m ∉ gone
       ((∀ u ∈ s.strands, ¬ waits u) → ∃ t, exec .barrierTimeout s = .next t ∧ cancelled t []) ∧
       ((∀ u ∈ s.others, ¬ waits u) → waits s.me → ∃ t, cancelled t [s.me.participant] ∧
         exec .barrierTimeout s = .next (t.takeTrap ⟨0x0C, wd y, .sup⟩ false false))))

/-- R417-R421, R441, R443-R445, R448, R466: the life of a bulkhead and of the device: an error takes a bulkhead that is not off into
reset, which ends its calls and clears its scratch splits, accumulators and TLBs; its completion brings it back to its owner, to the
scrub where it has none, with every core in its map again (R452), or, where it cannot recover, out of service; power brings SCRUB and the scrub FREE; a device reset
boots as the flash allows, and where it cannot no service core runs and every bulkhead has power with its gates closed (the model's
choice for a table that cannot be read, log 82); a fault of a service core is met as its role says. -/
def Obligations.DeviceSteps : Prop :=
  ∀ (s : State),
    let b := s.ev.x
    let bh := s.bh b
    (b < s.bhs.length → ∀ i ∈ [Instr.railPllFault, .bulkheadUncorrectableError, .dispatcherWatchdog],
      (bh.state ≠ .off → bh.state ≠ .reset →
        ∃ t, exec i s = .next t ∧ (t.bh b).state = .reset ∧ (t.bh b).dying = s.ev.flag ∧ (t.bh b).owner = bh.owner ∧
          (∀ c ∈ t.calls, engBh c.kind c.eng ≠ b) ∧ (∀ z ∈ t.splits, z.cluster / 8 ≠ b) ∧
          (∀ c ∈ t.accums, c.addr / 2 ^ 34 ≠ b) ∧
          (∀ e ∈ t.tlb, (∀ c, e.place = .core c → s.coreBh c ≠ some b) ∧ ∀ n, e.place = .cluster n → n / 8 ≠ b) ∧
          ∀ b', b' ≠ b → t.bh b' = s.bh b') ∧
      (bh.state = .reset → ∃ t, exec i s = .next t ∧ t = { s with bhs := t.bhs } ∧
        t.bh b = { bh with dying := bh.dying || s.ev.flag }) ∧
      (bh.state = .off → exec i s = .next s)) ∧
    (b < s.bhs.length → bh.state = .reset → ∃ t, exec .bulkheadResetComplete s = .next t ∧
      (bh.dying = false → t.bh b = { bh with state := if bh.owner = none then .scrub else .owned }) ∧
      (bh.dying = true → t.bh b = { bh with state := .off, lost := bh.owner.isSome, dying := false }) ∧
      (bh.dying = false → bh.owner = none → ∀ k ∈ t.cores, s.coreBh k.core = some b → k.wd = false) ∧
      ∀ p, bh.owner = some p → (s.part? p).isSome = true →
        ∀ u ∈ t.others, u.live = true → u.owner.pid? ≠ some p) ∧
    (b < s.bhs.length → bh.rising = true → ∃ t, exec .powerOnComplete s = .next t ∧
      t.bh b = { bh with rising := false, state := .scrub } ∧
      ∀ r o, r < 8 → o < 2 ^ 22 → Mem.read t.mem (stashAt (8 * b + r) o) = 0) ∧
    (b < s.bhs.length → bh.state = .scrub → ∃ t, exec .scrubComplete s = .next t ∧ t = { s with bhs := t.bhs } ∧
      t.bh b = { bh with state := .free } ∧ ∀ b', b' ≠ b → t.bh b' = s.bh b') ∧
    (bh.state ≠ .scrub → exec .scrubComplete s = .next s) ∧
    (∃ t, exec .deviceReset s = .next t ∧ t.others = [] ∧ t.parts = [] ∧ t.calls = [] ∧ t.agenda = [] ∧
      (s.flash.monitor.length ≤ 2 ^ 27 → ∀ c ∈ s.mem, 2 ^ 47 ≤ c.1 → c ∈ t.mem) ∧
      let f := s.flash
      let stops := fun (code : BitVec 4) => t.bootst = code ∧ t.me.live = false ∧ t.roles = [] ∧
        ∀ b, b < 32 → (t.bh b).state = .free
      (Config.pufWorks = false → stops 6 ∧ t.flash = f) ∧
      (Config.pufWorks = true → tableSigned f.table = false → stops 2 ∧ t.flash = f) ∧
      (Config.pufWorks = true → tableSigned f.table = true →
        (tableVersion f.table < f.counter → stops 4 ∧ t.flash = f) ∧
        (f.counter ≤ tableVersion f.table → t.flash = { f with counter := tableVersion f.table } ∧
          (tableOk f.table = false → stops 5) ∧
          (tableOk f.table = true →
            ((imageSigned f.monitor = false ∨ imageVersion f.monitor < f.monCounter) → stops 3) ∧
            (imageSigned f.monitor = true → f.monCounter ≤ imageVersion f.monitor →
              ((∃ r ∈ f.removals, sigValid idPoint (sha512 r.bytes) r.mac = false) → stops 2) ∧
              (f.removals = [] → t.bootst = 0 ∧ t.me.live = true ∧ t.me.pl = .mon ∧ t.me.pc = 0 ∧ t.monImage = f.monitor ∧
                ∀ b, b < 32 → (t.bh b).state = if s.bhen.testBit b then .free else .off)))))) ∧
    (let role := (nth s.roles b 15).toNat
     let spare := (below 72).any fun i => nth s.roles (72 * (b / 72) + i) 15 == 0
     (role % 16 = 0 → exec .serviceCoreError s = .next { s with roles := s.roles.set b 15 }) ∧
     ((role % 16 = 1 ∨ role % 16 = 2 ∨ role % 16 = 4) → exec .serviceCoreError s = .next s.resetDevice) ∧
     (role % 16 = 15 → exec .serviceCoreError s = .next s) ∧
     (role % 16 = 3 → let z := 8 * (b / 72) + role / 16
       z < s.bhs.length → (s.bh z).state ≠ .off → (s.bh z).state ≠ .reset →
        ∃ t, exec .serviceCoreError s = .next t ∧ (t.bh z).state = .reset ∧ (spare = false → (t.bh z).dying = true) ∧
         (b < s.roles.length → nth t.roles b 0 = 15)) ∧
     (role % 16 = 5 → (spare = false ∨ s.bootst ≠ 1) → ∃ t, exec .serviceCoreError s = .next t ∧
       (b < s.roles.length → nth t.roles b 0 = 15) ∧
       ∀ u ∈ t.strands, u.live = true → u.place.map (·.1) ≠ some ⟨b / 72, nth s.scol (b / 72) 9, b % 72 / 9, b % 9⟩))

/-- R447, R456-R459: what the host does: a virtual function without a partition answers nothing; its IPA window reads and writes
region 00 alone, and nothing beyond the 48 bits of an IPA; the firewall lets the physical function reach HYP memory while PFEN is 1,
by its window and its doorbell, and counts what it drops; doorbells;
a supervisor record while strands are live is refused as busy, one that cannot be read or is not valid with its reason (which reason a
fence record and an unreadable one get is log 41), one that is well formed becomes a launch at SUP.
R348, R462: an inbound put of an element that a peer entry matches is written, or added, and answered 0; one without
a partition or an entry is answered 0x17, one that the target refuses with its code; the loss of a link ends the put in flight
there with 0x17 at an element that has not been written. -/
def Obligations.HostSteps : Prop :=
  (∀ (s : State),
     let x := s.ev.x
     let off := s.ev.v.toNat
     let out := fun (o : Out) => { s with outs := s.outs ++ [o] }
     let dropped := fun (i : Instr) => ∃ t, exec i s = .next t ∧ t.outs = s.outs ++ [.unsupported] ∧ t.mem = s.mem ∧
       t.strands = s.strands ∧ t.fwdrop = if s.fwdrop = BitVec.allOnes 32 then s.fwdrop else s.fwdrop + 1
     (s.part? x = none → exec .hostIpaAccess s = .next (out .unsupported) ∧ exec .vfdoor s = .next (out .unsupported) ∧
       exec .vfsup s = .next (out .unsupported)) ∧
     (∀ p, s.part? x = some p →
       (hostWindow ≤ off → 2 ^ 48 < off - hostWindow + (if s.ev.flag then s.ev.data.length else s.ev.z) →
         exec .hostIpaAccess s = .next (out .unsupported)) ∧
       (hostWindow ≤ off → s.ev.flag = false →
         (∀ a k, s.hostPlaces p (off - hostWindow) s.ev.z .r = some [(a, k)] →
           exec .hostIpaAccess s = .next ((s.touch a k).emit (.data ((s.touch a k).bytesAt a k))) ∧
           (s.resting a k → exec .hostIpaAccess s = .next (out (.data (s.bytesAt a k))))) ∧
         (s.hostPlaces p (off - hostWindow) s.ev.z .r = none → exec .hostIpaAccess s = .next (out .unsupported))) ∧
       (hostWindow ≤ off → s.ev.flag = true →
         (∀ a, s.hostPlaces p (off - hostWindow) s.ev.data.length .w = some [(a, s.ev.data.length)] →
           s.Inv → s.plainAt a s.ev.data.length →
           ∃ t, exec .hostIpaAccess s = .next t ∧ t.me = s.me ∧ t.bytesAt a s.ev.data.length = s.ev.data ∧
             ∀ z, (z < a ∨ a + s.ev.data.length ≤ z) → t.byteAt z = s.byteAt z)) ∧
       (off = 16 → s.ev.flag = false →
         exec .hostIpaAccess s = .next (out (.data (leBytes 8 (p.vfstat.toNat + 2 ^ 8 * p.vfreason.toNat))))) ∧
       exec .vfdoor s = .next (s.doorbell x (off % 64)) ∧
       (s.ev.v.getLsbD 0 = false → exec .vfsup s = .next s) ∧
       (s.ev.v.getLsbD 0 = true →
         let rec' := s.ipaNat p (off / 2 ^ 6 % 2 ^ 42 * 2 ^ 6) 64
         let refused := fun (why : Nat) => ∃ t p', exec .vfsup s = .next t ∧ t.part? x = some p' ∧ p'.vfstat = 2 ∧
           p'.vfreason = BitVec.ofNat 8 why ∧ t.launches = s.launches
         ((∃ u ∈ s.strands, u.live = true ∧ u.owner.pid? = some x) → exec .vfsup s = .next (s.modPart x fun p => { p with
           vfstat := 3, vfreason := 0 })) ∧
         ((∀ u ∈ s.strands, u.live = true → u.owner.pid? ≠ some x) →
           (rec' = none → refused 0x0B) ∧
           ∀ n, rec' = some n →
             (recFence (BitVec.ofNat 512 n) = true → refused 1) ∧
             (recFence (BitVec.ofNat 512 n) = false → s.reason p .sup (BitVec.ofNat 512 n) ≠ 0 →
               refused (s.reason p .sup (BitVec.ofNat 512 n))) ∧
             (recFence (BitVec.ofNat 512 n) = false → s.reason p .sup (BitVec.ofNat 512 n) = 0 →
               ∃ t l p', exec .vfsup s = .next t ∧ t.launches = s.launches ++ [l] ∧ l.record = BitVec.ofNat 512 n ∧
                 l.queue = none ∧ l.level = .sup ∧ l.stat = .waiting ∧ l.pid = x ∧ t.part? x = some p' ∧ p'.vfstat = 1 ∧
                 p'.vfreason = 0 ∧ t.mem = s.mem)))) ∧
     (let n := if s.ev.flag then s.ev.data.length else s.ev.z
      let a := off - hostWindow
      hostWindow ≤ off →
       ((s.pfen && decide (a + n ≤ s.hypSize)) = false → dropped .pfHypAccess) ∧
       (s.pfen = true → a + n ≤ s.hypSize →
         (s.ev.flag = false → s.resting (s.hypAt a) n → exec .pfHypAccess s = .next (out (.data (s.bytesAt (s.hypAt a) n)))) ∧
         (s.ev.flag = true → s.Inv → s.plainAt (s.hypAt a) n → ∃ t, exec .pfHypAccess s = .next t ∧ t.me = s.me ∧
           t.bytesAt (s.hypAt a) n = s.ev.data ∧ ∀ z, (z < s.hypAt a ∨ s.hypAt a + n ≤ z) → t.byteAt z = s.byteAt z))) ∧
     (off = 0 → s.ev.flag = false → exec .pfHypAccess s = .next (out (.data (leBytes 8 s.bootst.toNat)))) ∧
     ((s.pfen && decide (8 ≤ s.hypSize)) = false → dropped .pfdoor) ∧
     (s.pfen = true → 8 ≤ s.hypSize → s.Inv → s.plainAt (s.hypAt 0) 8 →
       ∃ t, exec .pfdoor s = .next t ∧ t.natAt (s.hypAt 0) 8 = off ∧
        (∀ u ∈ t.strands, u.owner = .hyp → u.live = true → u.mark = true) ∧
        ∀ z, (z < s.hypAt 0 ∨ s.hypAt 0 + 8 ≤ z) → t.byteAt z = s.byteAt z)) ∧
  (∀ (s : State),
     let e := s.ev
     let b := 2 ^ bits e.z 5 2
     let aop := bits e.z 7 3
     let answer := fun (s : State) (n : Nat) => { s with outs := s.outs ++ [.answer n] }
     (s.part? e.x = none → exec .inboundPut s = .next (answer s 0x17)) ∧
     (∀ p, s.part? e.x = some p →
       (s.inbound p e.y (bits e.z 0 5) e.flag = none → exec .inboundPut s = .next (answer s 0x17)) ∧
       (∀ w, s.inbound p e.y (bits e.z 0 5) e.flag = some w →
         let c := inboundCall p w
         (∀ s1, (inboundBody c e.flag aop b e.v.toNat e.data).run s = .ok () s1 → exec .inboundPut s = .next (answer s1 0)) ∧
         (∀ f s1, (inboundBody c e.flag aop b e.v.toNat e.data).run s = .error f s1 →
           exec .inboundPut s = .next (answer s1 (if f.code = 0x17 ∨ f.code = 0x1A then f.code else 0x16))) ∧
         (e.data.length = b → e.v.toNat % b = 0 → ∀ pl s1, (operand c e.v (if e.flag then .rw else .w)).run s = .ok pl s1 →
           (e.flag = true → pl.kind = .host → exec .inboundPut s = .next (answer s1 0x1A)) ∧
           ((e.flag = true → pl.kind ≠ .host ∧ (aop = 4 ∨ pl.det = false)) → s1.Inv → s1.plainAt pl.addr b →
             ∃ t, exec .inboundPut s = .next t ∧ t.outs = s.outs ++ [.answer 0] ∧ t.me = s.me ∧
               t.bytesAt pl.addr b =
                 (if e.flag then leBytes b (addedTo aop b (s1.natAt pl.addr b) (leNat e.data)) else e.data) ∧
               ∀ z, (z < pl.addr ∨ pl.addr + b ≤ z) → t.byteAt z = s.byteAt z)))) ∧
     let flying := s.calls.filter fun c => c.kind = 1 && c.started && (c.peer.map (·.1)) = some e.x
     (flying = [] → exec .linkLoss s = .next s) ∧
     (∀ c, flying = [c] → c.todo ++ c.held.map Prod.fst ≠ [] → ∃ n ∈ c.todo ++ c.held.map Prod.fst,
       exec .linkLoss s = .next (s.callFault c 0x17 ((tjob c.record.toNat).dstOf n))))

/-! ### Engines -/

/-- R334-R339, R341: the matrix job that its engine works on, the one whose tiles are all written or else the one that it selects, is
taken up: any other job that has begun on the engine is then suspended, and its own resumption counts. It ends FAULT with the code of
its first failed check; a job that passes them computes its next tile and writes nothing outside the scratch of its launch. A step after
the last tile it adds the report and the full bits and is DONE; an error in a later tile leaves the earlier ones written. An ordered element is the ordered sum of R64 through R336, and the report
holds the flags and the time of R338, with 64 clk for each suspension. -/
def Obligations.MatrixResults : Prop :=
  (∀ (s : State) (c : Call), s.serves c 0 0 → s.jobsOn c = true →
    let j := mjob c.record.toNat
    let t := s.takeUp c
    let d : Call := { c with
      started := true, suspended := false, suspensions := if c.suspended then c.suspensions + 1 else c.suspensions }
    (t = { s with calls := t.calls } ∧ t.call? c.id = some d ∧ ∀ e ∈ s.calls, e.id ≠ c.id → e.kind = 0 → e.eng = c.eng →
      e.queue = 0 → e.started = true → { e with suspended := true } ∈ t.calls) ∧
    (∀ code, j.start c s = .error code → exec .matrixJob s = .next (t.callFault c code 0)) ∧
    (∀ x, j.start c s = .ok x →
      let outside := fun (a : Nat) =>
        ∀ u ∈ x.units, ¬ (stashAt x.cluster (u * 65536) ≤ a ∧ a < stashAt x.cluster (u * 65536) + 65536)
      (∀ ti tj, j.tiles[c.moved]? = some (ti, tj) →
        (s.bad = [] → ∃ fl s1, (j.tile d x ti tj).run t = .ok fl s1 ∧
          s1.strands = s.strands ∧ s1.parts = s.parts ∧ (s.accums = [] → ∀ a, outside a → s1.byteAt a = s.byteAt a) ∧
          exec .matrixJob s = .next (s1.modCall c.id fun e => { e with moved := c.moved + 1, flags := c.flags ||| fl })) ∧
        (∀ f s1, (j.tile d x ti tj).run t = .error f s1 → exec .matrixJob s = .next (s1.callFault d f.code f.va))) ∧
      (j.tiles[c.moved]? = none →
        exec .matrixJob s = .next ((j.finish d x c.flags t).callDone d) ∧
        (s.accums = [] → ∀ a, outside a → (j.finish d x c.flags t).byteAt a = s.byteAt a)))) ∧
  (∀ (s : State) (j : MJob) (start sc : Nat) (parts : List FRes), j.ord = true →
    let acc := parts.foldl (fun a p => (fAdd f32 0 a p.1).1) start
    ∃ fl, (j.element start parts sc).run s = .ok
      ((if j.csc then (match mulV (unpack f32 acc) (unpack f32 sc) with
          | none => j.fmt.nan
          | some v => (roundV j.fmt 0 v j.sat).1)
        else if j.ofmt = 0 then acc else (fToF f32 j.fmt 0 acc j.sat).1), fl) s) ∧
  (∀ (j : MJob) (r : Nat) (fl : FSet), j.report r fl % 2 ^ 32 = fl.toNat ∧ j.report r fl / 2 ^ 32 = j.time r % 2 ^ 32 ∧
    j.time r = 64 + (j.m + 31) / 32 * ((j.n + 31) / 32) * ((j.kb + 15) / 16 * ((j.pa + 1) / 2) * ((j.pb + 7) / 8) + 8) +
      (if j.ord then 40 else 24) + 64 * r)

/-- R346, R348-R350, R352: a transfer that may run starts when it passes its checks, with every element to move, and else ends FAULT
with the code of the first that fails. Then it goes on in steps: where the engine serves no other call and a step does all that is left,
every element is read and written in order (an element that does not resolve ends it FAULT, with 0x17 where its scratch is gone), the
granules that it wrote become full, and it is DONE; an element of scratch is read in the call's turn (R355), as memory holds it; one that was read reaches its place in scratch, and the last makes the call DONE and the granule
full; one to a peer leaves, and is taken or ends the call with the peer's refusal.
R303, R347, R349: a feed whose checks pass and whose launch has storage for its port binds the port; then it moves one vector
at a time: in, while the FIFO has room, the bytes of its row with its count and tag; out, the bytes of the active elements of
the oldest vector that was pushed, unless an earlier feed may still write one of them (R353); after the last one the port is unbound
and the call DONE. -/
def Obligations.TransferResults : Prop :=
  (∀ (s : State) (c : Call) (p : Part), s.part? c.pid = some p → s.teMay c = true → ∀ z ∈ transfers, s.serves c 1 z.2.1 →
     bits c.record.toNat 0 4 = z.2.2 →
     let j := tjob c.record.toNat
     (c.started = false →
       (∀ code, s.teCheck p c j = .error code → exec z.1 s = .next (s.callFault c code 0)) ∧
       (∀ x, s.teCheck p c j = .ok x → exec z.1 s = .next (s.modCall c.id fun d => { d with
         started := true, peer := x.peer, todo := below (j.n0 * j.n1 * j.n2) }))) ∧
     (∀ src dsts, c.started = true → s.spacesNow p c j = (src, dsts) → c.grans = [] → s.unwritten p c = [] →
       j.clash c ⟨src, dsts, c.peer⟩ s = [] →
       let alone := s.teTurn c = true ∧ (s.teRing c.eng).length ≤ 1
       (∀ e l, alone → c.held = [] → c.todo = e :: l → src = .nack → z.2.2 ≠ 2 →
         ∃ t, exec z.1 s = .next t ∧ (Config.free s.tick (s.draw + 1) % 3 = 0 →
           t = State.callFault { s with draw := s.draw + 2 } c 0x17 (j.srcOf e (j.rowOf e)))) ∧
       (alone → c.held = [] → ∀ u, (moveAll c j ⟨src, dsts, c.peer⟩ c.todo).run { s with draw := s.draw + 2 } = .ok () u →
         ∃ t, exec z.1 s = .next t ∧ (Config.free s.tick (s.draw + 1) % 3 = 0 →
           t = (u.fillGrans c (((u.call? c.id).map (·.grans)).getD [])).callDone c)) ∧
       (alone → c.held = [] → ∀ f u, (moveAll c j ⟨src, dsts, c.peer⟩ c.todo).run { s with draw := s.draw + 2 } = .error f u →
         ∃ t, exec z.1 s = .next t ∧ (Config.free s.tick (s.draw + 1) % 3 = 0 → t = u.callFault c f.code f.va)) ∧
       (∀ y e m, src = .scr y → z.2.2 ≠ 2 → c.todo = [e] → c.held = [] →
         y.spots (j.srcOf e (j.rowOf e)) j.b = [(m, j.b)] → j.srcOf e (j.rowOf e) + j.b ≤ y.scr * 65536 →
         s.badAt m j.b = false → s.resting m j.b → (∀ r ∈ s.recent, meets m j.b r.addr 8 = false) →
         ∃ t, exec z.1 s = .next t ∧ (Config.free s.tick (s.draw + 1) % 3 = 1 →
           (s.teTurn c = false → t = { s with draw := t.draw }) ∧
           (s.teTurn c = true → ∃ o, t = { s.serve c o with draw := t.draw } ∨
             t = { (s.serve c o).modCall c.id fun d => { d with
               todo := d.todo.filter (· != e), held := d.held ++ [(e, s.bytesAt m j.b)] } with draw := t.draw }))) ∧
       (∀ y e l m, dsts = [.scr y] → c.peer = none → z.2.2 ≠ 5 → c.todo = [] → c.held = [(e, l)] → l.length = j.b →
         y.spots (j.dstOf e) j.b = [(m, j.b)] → j.dstOf e + j.b ≤ y.scr * 65536 → s.Inv → s.plainAt m j.b →
         ∃ t, exec z.1 s = .next t ∧ (t = { s with draw := t.draw, served := t.served } ∨
           ∃ u : State, t = u.callDone c ∧ u.bytesAt m j.b = l ∧ (j.fb = true → u.fullAt m = true) ∧
             ∀ a, (a < m ∨ m + j.b ≤ a) → u.byteAt a = s.byteAt a)) ∧
       (∀ dev rpid e l, c.peer = some (dev, rpid) → c.todo = [] → c.held = [(e, l)] →
         ∃ t, exec z.1 s = .next t ∧ (t = { s with draw := t.draw, served := t.served } ∨
           ∃ u : State, u.mem = s.mem ∧ u.strands = s.strands ∧ u.outs = s.outs ++ [.put s.slid c.pid (BitVec.ofNat 16 dev) rpid
               (z.2.2 = 5) (BitVec.ofNat 3 j.aop) (BitVec.ofNat 2 j.esz) (wd (j.dstOf e)) l] ∧
             (t = u.callDone c ∨ ∃ code ∈ [0x16, 0x17, 0x1A], (code = 0x1A → z.2.2 = 5) ∧
               t = u.callFault c code (j.dstOf e)))))) ∧
  ((∀ (s : State) (c : Call) (p : Part) (t : Strand), s.serves c 1 2 → s.part? c.pid = some p →
     s.strand? c.uid = some t → t.live = true →
     let j := tjob c.record.toNat
     let port := c.feedPort
     (∀ z ∈ feeds, bits c.record.toNat 0 4 = z.2.1 → s.feedMay c = true →
       (∀ code, s.teCheck p c j = .error code → exec z.1 s = .next (s.callFault c code 0)) ∧
       (∀ x, s.teCheck p c j = .ok x →
         (((t.sport port).held || s.portRoom t.owner.lid t.clu) = true → exec z.1 s = .next
           ((s.modStrand t.uid fun u => u.modSport port fun y => { y with bind := z.2.2, held := true }).modCall c.id
             fun c => { c with started := true })) ∧
         (((t.sport port).held || s.portRoom t.owner.lid t.clu) = false → exec z.1 s = .next (s.callFault c 0x19 0)))) ∧
     (c.started = true →
       let next := fun (s2 : State) => if c.moved + 1 = j.n1 then (s2.unbindPort c.uid port).callDone c
         else s2.modCall c.id fun c => { c with moved := c.moved + 1 }
       (j.type = 6 → 4 ≤ (t.sport port).fifo.length → exec .feedVectorMove s = .next s) ∧
       (j.type = 7 → (∀ v ∈ (t.sport port).fifo, v.pushed = false) → exec .feedVectorMove s = .next s) ∧
       (∀ v, j.type = 7 → (t.sport port).fifo.find? (·.pushed) = some v → s.feedWaits p c v = true →
         exec .feedVectorMove s = .next s) ∧
       (∀ src dsts, s.teMay c = true → s.spacesNow p c j = (src, dsts) →
         (∀ l f s1, j.type = 6 → (t.sport port).fifo.length < 4 →
           (src.read c (addr64 (j.src + c.moved * j.ss1)) (j.n0 * j.b)).run (s.serve c none) = .ok (l, f) s1 →
           exec .feedVectorMove s = .next (next (s1.modStrand c.uid fun u => u.modSport port fun y => { y with
             fifo := y.fifo ++ [⟨BitVec.ofNat 8192 (leNat l), j.n0 * j.b, BitVec.ofNat 4 (bits j.x 4 4), 0, false, false⟩] }))) ∧
         (∀ v s2, j.type = 7 → (t.sport port).fifo.find? (·.pushed) = some v → s.feedWaits p c v = false →
           (feedOut c j ⟨src, dsts, none⟩ c.moved v).run (s.serve c none) = .ok () s2 → exec .feedVectorMove s = .next (next s2)) ∧
         (∀ v, j.type = 7 → (t.sport port).fifo.find? (·.pushed) = some v → s.feedWaits p c v = false → v.bad = true →
           exec .feedVectorMove s = .next (((s.serve c none).unbindPort c.uid port).callFault c 7 0))))) ∧
   (∀ (v : SVec) (t : Nat), t ∈ v.writes ↔ t < v.count ∧
     ∃ e, v.act.getLsbD e = true ∧ e * widthOf v.tag.toNat < 8 * t + 8 ∧ 8 * t < (e + 1) * widthOf v.tag.toNat))

/-- R359-R362, R364: the sort that its engine works on, the one inside its last pass or else the one that it selects, is taken up, and ends FAULT with the code of its first failed check; one of no
elements is DONE at once; segment bounds that breach R360 end it 0x13; else it keeps the bounds and goes on pass by pass, and a
fault in a pass ends it. What the last pass writes is, segment by segment, the keys and then the values in the order of their compare
keys, and every byte goes where the record says. The order is a permutation of the segment, ascending by key and stable; the key of
a signed integer follows its value, and DESC turns it round. -/
def Obligations.SortResults : Prop :=
  (∀ (s : State) (c : Call), s.serves c 3 0 → s.sortsOn c = true →
    let j := sjob c.record.toNat
    let t := s.takeUp c
    (c.started = false →
      (∀ code, t.seCheck c j = some code → exec .seSort s = .next (t.callFault c code 0)) ∧
      (t.seCheck c j = none → j.n = 0 → exec .seSort s = .next (t.callDone c)) ∧
      (∀ starts kb vb s1 s2 s3, t.seCheck c j = none → j.n ≠ 0 →
        (if j.seg then readOp c j.sega (4 * j.nseg) else pure []).run t = .ok starts s1 →
        (readOp c j.kin (j.n * j.ks)).run s1 = .ok kb s2 → (readOp c j.vin (j.n * j.vs)).run s2 = .ok vb s3 →
        (j.bounds starts = none → exec .seSort s = .next (s3.callFault c 0x13 0)) ∧
        (∀ bs, j.bounds starts = some bs → ∃ marks : List Byte, marks.length = bs.length ∧
          (j.seg = false → ∀ m ∈ marks, m = 0) ∧ exec .seSort s = .next (s3.modCall c.id fun d => { d with
            held := ((d.held.filter (fun (y : Nat × List Byte) => y.1 != 0) ++ [(0, starts)]).filter fun y => y.1 != 3) ++
              [(3, marks)] })))) ∧
    (c.started = true →
      (∀ fin s1, (digitPass c j).run t = .ok fin s1 → exec .seSort s = .next (if fin then s1.callDone c else s1)) ∧
      (∀ f s1, (digitPass c j).run t = .error f s1 → ∃ s2, exec .seSort s = .next (State.callFault s2 c f.code f.va)))) ∧
  (∀ (s : State) (c : Call) (j : SJob) (bs : List (Nat × Nat)), j.bounds (c.kept 0) = some bs →
    (c.kept 3).length = bs.length → (∀ m ∈ c.kept 3, m = 0) →
    let keys := slotsOf j.n j.ks (c.kept 1)
    let vals := slotsOf j.n j.vs (c.kept 2)
    let order := bs.flatMap fun x => j.order keys x.1 x.2
    (j.outputs c).run s = .ok ((order.flatMap fun i => leBytes j.ks (nth keys i 0)) ++
      order.flatMap fun i => leBytes j.vs (nth vals i 0)) s) ∧
  (∀ (s s1 : State) (c : Call) (va : Nat) (l : List Byte) (pl : Place), l ≠ [] → va % 4096 + l.length ≤ 4096 →
    (operand c (wd va) .w).run s = .ok pl s1 → (∀ i, i < l.length → s1.rivalAt c (pl.addr + i) = false) →
    (putOut c va l).run s = .ok () (s1.putBy c.id pl.addr l)) ∧
  (∀ (j : SJob) (keys : List Nat) (a b : Nat),
    let o := j.order keys a b
    o.Perm ((below b).drop a) ∧ o.Pairwise fun x y =>
      j.key (nth keys x 0) < j.key (nth keys y 0) ∨ (j.key (nth keys x 0) = j.key (nth keys y 0) ∧ x < y)) ∧
  (∀ (j : SJob) (x y : Nat), j.kt = 1 → j.kbits = j.w → x < 2 ^ j.w → y < 2 ^ j.w →
    (j.key x ≤ j.key y ↔ if j.desc then toS j.w y ≤ toS j.w x else toS j.w x ≤ toS j.w y))

/-- R368, R369: the first raster call of its queue, with a record that passes its checks and triangles that read, is DONE and
returns for each of the 256 positions the identity of triangle LAYER among those that cover its sample, or all ones, and the mask
of the positions that have one; a sample on an edge that two triangles share from either side lies inside exactly one.
R388-R391: the first sample call of its queue whose checks pass and whose lanes all sample is DONE: a return register that
a channel has takes the channel of each sampled lane and keeps its other elements; the taps of a lane have weights that add to
one. -/
def Obligations.RasterResults : Prop :=
  ((∀ (s s1 : State) (c : Call) (l : List Byte), s.serves c 4 0 → s.isFirst c = true → s.engqPast c = false →
     let r := c.record.toNat
     let n := bits r 32 17
     fieldsZero r [(5, 11), (24, 8), (49, 15), (192, 320)] = true → bits r 0 4 = 1 → 1 ≤ n → n ≤ 65536 →
     bits r 128 64 % 32 = 0 → (readOp c (bits r 128 64) (32 * n)).run s = .ok l s1 →
       ∃ v : VBits, ∃ k : MBits,
         (let s2 := c.rets.foldl (fun s d => s.returnV c.uid d v 4) s1
          exec .rbeRaster s = .next ((match c.rk with
            | some d => s2.returnK c.uid d k
            | none => s2).callDone c)) ∧
         (∀ q, q < 256 →
           let hit := (hitsAt l n (sampleAt (bit r 4) (toS 16 (bits r 64 16)) (toS 16 (bits r 80 16)) q))[bits r 16 8]?
           elem 32 q v.toNat = (match hit with
             | some i => (bits r 96 32 + i) % 2 ^ 32
             | none => 0xFFFFFFFF) ∧ k.getLsbD q = hit.isSome) ∧
         ∀ q, 256 ≤ q → k.getLsbD q = false) ∧
   (∀ a b p : Pt, a ≠ b → inEdge a b p = !inEdge b a p)) ∧
  ((∀ (s s1 s2 : State) (c : Call) (f : Filter) (x : Tex) (lanes : List (Nat × List Nat)) (u : Strand),
     s.serves c 2 0 → (∀ d ∈ s.queued 2 c.eng 0, c.id ≤ d.id) → s2.named → (checkSample c).run s = .ok (f, x) s1 →
     (c.lanes.mapM fun q => do return (q, ← sampleLane c f x q)).run s1 = .ok lanes s2 →
     s2.strand? c.uid = some u → c.rets.Nodup → (∀ d ∈ c.rets, d < 64) →
       ∃ t, exec .txuSample s = .next t ∧ (∀ z ∈ t.calls, z.id ≠ c.id) ∧
         ∃ u', t.strand? c.uid = some u' ∧ u'.s = u.s ∧ u'.pc = u.pc ∧
           ∀ p ∈ c.rets.zipIdx, u'.vpend.getLsbD p.1 = false ∧
             (p.2 < x.chans → u'.vtagOf p.1 = 10 ∧ ((u.vres p.1).inSlot = true →
               (∀ z ∈ lanes, elem 32 z.1 (u'.vreg p.1).toNat = nth z.2 p.2 0 % 2 ^ 32) ∧
               ∀ q, q < 256 → q ∉ c.lanes → elem 32 q (u'.vreg p.1).toNat = elem 32 q (u.vreg p.1).toNat)) ∧
             (x.chans ≤ p.2 → u'.vreg p.1 = u.vreg p.1)) ∧
   (∀ (f : Filter) (t : Tex) (u v lod du dv : Nat) (l : List Tap), 1 ≤ f.n → f.taps t u v lod du dv = some l →
     0 < (weightSum l).d ∧ (weightSum l).n = (weightSum l).d))

/-- R372, R375-R379: a slot opens with its program, planes and tokens; a batch whose token is the slot's next commits and is
DONE, one that is ahead waits in the window, one too far ahead or spent ends FAULT; a waiting batch commits once its turn comes;
the gap timer moves NEXT to the lowest token that waits; CANCEL spends a token; CLOSE waits for its ENDTOK and then frees the
slot; SEQRESET needs a sequence that no slot uses. A commit counts one batch and leaves every position without a fragment, and every
stopped one, as it was. -/
def Obligations.BlendResults : Prop :=
  (∀ (s : State) (c : Call) (q : Nat), s.serves c 4 q →
    let r := c.record.toNat
    let tok := c.token
    (∀ x, q = 1 → s.isNext c = true → (checkBatch c).run s = .ok x s →
      let d := x.ahead tok
      let usable := d < 2 ^ 31 ∧ x.cancelled.contains tok = false ∧ x.waiting.any (·.token == tok) = false
      (¬ usable → exec .fragmentBatch s = .next (s.callFault c 0x19 0)) ∧
      (usable → d = 0 → exec .fragmentBatch s =
        .next ((s.modRbe c.eng x.slot fun x => x.commit s.time.toNat c).callDone c)) ∧
      (usable → 4096 ≤ d → exec .fragmentBatch s = .next (s.callFault c 0x18 0)) ∧
      (usable → 0 < d → d < 4096 → s.windowLoad c.eng + c.fragments.length ≤ 512 → exec .fragmentBatch s =
        .next (((s.startTimer c.eng x.slot).modRbe c.eng x.slot fun x => { x with
          waiting := x.waiting ++ [⟨tok, c⟩] }).modCall c.id fun c => { c with started := true }))) ∧
    (q = 2 → s.isNext c = true → (checkControl c).run s = .ok () s →
      (c.ctlType = 1 → (s.rbeSlot? c.eng c.ctlSlot).isSome = true → exec .rbeOpen s = .next (s.callFault c 0x13 0)) ∧
      (∀ blk init s1 s2, c.ctlType = 1 → s.rbeSlot? c.eng c.ctlSlot = none → s.engqPast c = false →
        (readOp c (bits r 128 64) 128).run s = .ok blk s1 →
        let nw := bits r 24 3 + 1
        let prog := (below (bits r 28 4 + 1)).map fun i => BitVec.ofNat 32 (leNat (slice blk (4 * i) 4))
        prog.all (fun w => (microOp w).ok nw) = true →
        (if bit r 27 then readOp c (bits r 192 64) (1024 * nw) else pure []).run s1 = .ok init s2 →
        ∃ x : RbeSlot, exec .rbeOpen s = .next ({ s2 with rbe := s2.rbe ++ [x] }.callDone c) ∧ x.eng = c.eng ∧ x.slot = c.ctlSlot ∧
          x.pid = c.pid ∧ x.ctx = c.ctx ∧ x.prog = prog ∧ x.planes.length = nw ∧ (bit r 27 = false → ∀ y ∈ x.planes, y = 0) ∧
          x.next = c.ctlTok ∧ x.base = c.ctlTok ∧ x.committed = 0 ∧ x.waiting = [] ∧ x.cancelled = [] ∧ x.stopped = 0) ∧
      (s.engqPast c = true → s.rbeSlot? c.eng c.ctlSlot = none → c.ctlType = 1 →
        exec .rbeOpen s = .next (s.callFault c 0x08 0)) ∧
      (∀ x, s.rbeSlot? c.eng c.ctlSlot = some x → x.pid = c.pid → x.ctx = c.ctx → s.engqPast c = false →
        (c.ctlType = 3 → x.ahead c.ctlTok ≤ 4095 → x.cancelled.contains c.ctlTok = false → x.waiting = [] →
          exec .rbeCancel s = .next ((s.modRbe c.eng c.ctlSlot fun x => { x.cancelTok s.time.toNat c.ctlTok with
            ncancel := x.ncancel + 1 }).callDone c)) ∧
        (c.ctlType = 2 → x.closes c.ctlTok = false → exec .rbeClose s =
          .next ((s.startTimer c.eng c.ctlSlot).modCall c.id fun c => { c with started := true })) ∧
        (∀ s1, c.ctlType = 2 → x.closes c.ctlTok = true → (finishClose c x false).run s = .ok () s1 →
          exec .rbeClose s = .next (s1.callDone c))) ∧
      (c.ctlType = 4 →
        ((∃ x ∈ s.rbe, x.eng = c.eng ∧ x.seq = bits r 16 8) → exec .rbeSeqreset s = .next (s.callFault c 0x15 0)) ∧
        ((∀ x ∈ s.rbe, x.eng = c.eng → x.seq ≠ bits r 16 8) → s.engqPast c = false → exec .rbeSeqreset s =
          .next ((s.modPart c.pid fun p => p.setOtok (bits r 16 8) 0).callDone c))))) ∧
  (∀ (s : State) (x : RbeSlot), s.rbeSlot? s.ev.x s.ev.y = some x →
    (∀ w, x.waiting.find? (fun w => w.token = x.next) = some w → exec .batchCommit s =
      .next ((s.modRbe x.eng x.slot fun x => x.commit s.time.toNat w.call).callDone w.call)) ∧
    ((∀ w ∈ x.waiting, w.token ≠ x.next) → exec .batchCommit s = .next s) ∧
    (s.gapDue x = false → exec .gapTimeout s = .next s) ∧
    (∀ d, s.gapDue x = true → s.lowestWait x = some d → x.cancelled = [] → ∃ t x', exec .gapTimeout s = .next t ∧
      t.rbeSlot? s.ev.x s.ev.y = some x' ∧ t = { s with rbe := t.rbe } ∧ x'.next = x.next + BitVec.ofNat 32 d ∧
      x'.expired = x.expired + d ∧ x'.planes = x.planes ∧ x'.waiting = x.waiting)) ∧
  (∀ (x : RbeSlot) (now : Nat) (c : Call),
    let y := x.commit now c
    y.committed = x.committed + 1 ∧ (x.cancelled = [] → y.next = x.next + 1) ∧
    ∀ q, q < 256 → (q ∉ c.fragments ∨ x.stopped.getLsbD q = true) →
      ∀ w, elem 32 q (y.planes.getD w 0).toNat = elem 32 q (x.planes.getD w 0).toNat)

/-- R397-R407: BIND and UNBIND set and remove a binding that no ray uses; DROP discards the parked rays of a set; a trace with
rays that can hit creates their set and flies them, and a reply resumes or ends the rays that it decides, one whose results are
unspecified (R413) with any; a buffered group goes
when it holds 32 rays or its oldest is 2,048 clk old. A hit is an exact point of the segment and of the closed triangle. -/
def Obligations.RayResults : Prop :=
  (∀ (s : State) (c : Call) (q : Nat), s.serves c 5 q → s.isNext c = true →
    let r := c.record.toNat
    let num := bits r 4 3
    (q = 2 → (checkRayControl c).run s = .ok () s →
      (c.ctlType = 1 → s.bindBusy c num = true → exec .rtBind s = .next (s.callFault c 0x13 0)) ∧
      (c.ctlType = 1 → s.bindBusy c num = false → ((s.unbound c num).filter (·.eng == c.eng)).length < 64 → s.engqPast c = false →
        ∃ b : RayBind, exec .rtBind s = .next ({ s with binds := s.unbound c num ++ [b] }.callDone c) ∧ b.eng = c.eng ∧
          b.pid = c.pid ∧ b.ctx = c.ctx ∧ b.num = num ∧ b.root = wd (bits r 64 64) ∧ b.ommb = wd (bits r 128 64)) ∧
      (c.ctlType = 2 → (s.bind? c.eng c.pid c.ctx num).isSome = true → s.bindBusy c num = false → s.engqPast c = false →
        exec .rtUnbind s = .next ({ s with binds := s.unbound c num }.callDone c)) ∧
      (c.ctlType = 3 → s.liveSet c (bits r 16 16) = none → exec .rtDrop s = .next (s.callFault c 0x18 0)) ∧
      (∀ x, c.ctlType = 3 → s.liveSet c (bits r 16 16) = some x → (∀ z ∈ x.rays, z.stat ≠ .flying) → s.engqPast c = false →
        exec .rtDrop s = .next ({ s with raysets := s.raysets.filter fun y => y.rays.any Ray.live && y != x }.callDone c))) ∧
    (q = 0 → (checkTrace c).run s = .ok () s →
      let comp := fun p => (below 8).map fun i => BitVec.ofNat 32 (c.word (i + 1) p)
      let new := (c.lanes.filter fun p => (rayOf (comp p)).isSome).length
      0 < new → s.rayLoad c.eng (fun _ => true) + new ≤ 4096 →
      ∃ t x, exec .rtTrace s = .next t ∧ x ∈ t.raysets ∧ x.eng = c.eng ∧ x.uid = c.uid ∧ x.bind = bits (c.word 0 0) 0 3 ∧
        x.rays.map (·.comp) = c.lanes.map comp ∧ (∀ z ∈ x.rays, z.stat = .flying ↔ (rayOf z.comp).isSome = true) ∧
        (∀ y ∈ s.raysets, y.rays.any Ray.live = true → y ∈ t.raysets) ∧ t.mem = s.mem ∧ t.strands = s.strands ∧
        t.calls = s.calls.map fun d => if d.id = c.id then { d with started := true } else d) ∧
    (q = 1 → ∀ x p h z, (checkReply c).run s = .ok x s → c.lanes = [p] →
      (s.raysets.find? fun y => y.eng = x.eng && y.pid = x.pid && y.ctx = x.ctx && y.uid = x.uid && y.rsid = x.rsid) = some x →
      x.rays.find? (·.idx == c.word 1 p) = some z → z.stat = .parked h →
      let final := s.modRay x z.idx fun r => { r with stat := .final }
      let done := fun (s : State) => ((s.modCall c.id fun c => { c with started := true }).pruneSets).finishRays c
      let ends := fun (t : State) => (z.loose = false → t = final.laneResult c.id p 1 (some h) x.rsid) ∧
        ∃ r : LaneRes, r.cid = c.id ∧ r.lane = p ∧ t = { final with laneRes := s.laneRes ++ [r] }
      let flies := fun (best : Option Hit) => s.modRay x z.idx fun r => { r with
        stat := .flying, cid := c.id, lane := p, since := s.time.toNat, best := best
        decided := h.addr :: r.decided }
      (c.word 2 p = 0 → exec .rtReply s = .next (done (flies z.best))) ∧
      (c.word 2 p = 1 → x.flags.getLsbD 3 = true → exec .rtReply s = .next (done (flies (some h)))) ∧
      (c.word 2 p = 1 → x.flags.getLsbD 3 = false → ∃ t, exec .rtReply s = .next (done t) ∧ ends t) ∧
      (c.word 2 p = 2 → ∃ t, exec .rtReply s = .next (done t) ∧ ends t))) ∧
  (∀ (s : State),
    let l := s.buffered s.ev.x s.ev.v.toNat fun x h => h = s.ev.y && x.bind = s.ev.z
    let due := 32 ≤ l.length ∨ ∃ g ∈ l, 2048 ≤ s.time.toNat - g.2.2.since
    (¬ due → exec .rayBatchRelease s = .next s) ∧
    (∀ h x r, l = [(h, x, r)] → due → x ∈ s.raysets → r ∈ x.rays → exec .rayBatchRelease s = .next (s.flyRay x r))) ∧
  (∀ (g : RayQ) (v0 v1 v2 : Vec3) (t b1 b2 den f : Int), g.hitTri v0 v1 v2 = some (t, b1, b2, den, f) →
    0 < den ∧ 0 ≤ b1 ∧ 0 ≤ b2 ∧ b1 + b2 ≤ den ∧
    den * g.o.x + t * g.d.x = (den - b1 - b2) * v0.x + b1 * v1.x + b2 * v2.x ∧
    den * g.o.y + t * g.d.y = (den - b1 - b2) * v0.y + b1 * v1.y + b2 * v2.y ∧
    den * g.o.z + t * g.d.z = (den - b1 - b2) * v0.z + b1 * v1.z + b2 * v2.z)

/-- R408-R410, R230: a collection opens on an unbound port; a deposit joins its records in lane order, or waits while the unit
is full; CLOSE ends the collection and unbinds its port once its vectors are pushed, and an old batch is released; `xflush` flushes
an engine that the strand's earlier calls have reached, and does nothing for an address that names none. -/
def Obligations.ReorderResults : Prop :=
  (∀ (s : State) (c : Call) (x : Coll), s.serves c 6 0 → s.isNext c = true →
    (∀ t s1, c.rouControl = true → bits c.rouHeader 0 4 = 1 → (checkColl c).run s = .ok () s → s.strand? c.uid = some t →
      (t.sport (bits c.rouHeader 4 3)).bind = .unbound → s.coll? c.eng c.uid = none →
      s.engqPast c = false → s.bindPort t (bits c.rouHeader 4 3) .arrival = some s1 →
      ∃ z : Coll, exec .collectionOpen s = .next ({ s1 with colls := s1.colls ++ [z] }.callDone c) ∧ z.eng = c.eng ∧ z.uid = c.uid ∧
        z.port = bits c.rouHeader 4 3 ∧ z.w = bits c.rouHeader 8 5 + 1 ∧ z.lmax = bits c.rouHeader 16 12 ∧ z.recs = [] ∧
        z.out = [] ∧ z.closing = none) ∧
    (c.rouControl = false → (checkDeposit c).run s = .ok x s →
      (4096 < s.recLoad c.eng (fun _ => true) + c.lanes.length → exec .rouDeposit s = .next s) ∧
      (s.recLoad c.eng (fun _ => true) + c.lanes.length ≤ 4096 → exec .rouDeposit s = .next (((s.modColl c.eng c.uid fun x =>
        c.records.foldl (fun x r => x.join c s.time.toNat r) x).pushColl c.eng c.uid).callDone c))) ∧
    (∀ t, c.rouControl = true → c.started = false → bits c.rouHeader 0 4 = 2 → (checkColl c).run s = .ok () s →
      (s.coll? c.eng c.uid = none → exec .collectionClose s = .next (s.callFault c 0x12 0)) ∧
      (s.coll? c.eng c.uid = some x → x.closing = none → x.recs = [] → x.out = [] → s.strand? c.uid = some t → s.engqPast c = false →
        ∃ u, exec .collectionClose s = .next u ∧ (∀ z ∈ u.colls, ¬ (z.eng = c.eng ∧ z.uid = c.uid)) ∧ u.mem = s.mem ∧
          ∀ z ∈ u.calls, z.id ≠ c.id))) ∧
  (∀ (s : State) (x : Coll), s.coll? s.ev.x s.ev.y = some x →
    (x.recs ≠ [] → 2048 ≤ s.time.toNat - x.since →
      exec .rouBatchRelease s = .next ((s.modColl x.eng x.uid Coll.release).pushColl x.eng x.uid)) ∧
    (s.time.toNat - x.since < 2048 → exec .rouBatchRelease s = .next (s.pushColl x.eng x.uid))) ∧
  (∀ (x : Coll) (c : Call) (now : Nat), x.recs.length + c.records.length < x.lmax →
    let y := c.records.foldl (fun x r => x.join c now r) x
    y.recs = x.recs ++ c.records ∧ y.out = x.out ∧ y.batch = x.batch) ∧
  (∀ (x : Coll) (v : SVec) (j e : Nat), x.recs.length ≤ 256 → j < x.w → x.vectors[j + 1]? = some v → e < x.recs.length →
    v.count = 4 * x.recs.length ∧ elem 32 e v.data.toNat = (nth (nth x.recs e []) j 0).toNat) ∧
  (∀ (s : State) (a : SReg) (p : Part), s.myPart? = some p → s.allows 2 → s.me.readable a → s.me.vq = [] →
    let x := s.me.sreg a
    let kind := eaKind x
    let valid := x.toNat < 2 ^ 32 ∧ (kind = 5 ∨ kind = 6) ∧ ownIndex s.me x < p.engines kind
    let eng := s.engOf p s.me.owner.ctx kind (ownIndex s.me x)
    (¬ valid → exec (.xflush a) s = .next (s.skip 4)) ∧
    (valid → (∀ c ∈ s.calls, c.uid = s.me.uid → c.kind = kind → c.eng = eng → c.queue = 2 ∨ c.started = true) →
      exec (.xflush a) s = .next ((s.flush kind eng p.pid s.me.owner.ctx).skip 4)))

/-! ### Encoding, steps, reset -/

/-- R73-R97: every well-formed instruction of the instruction words, with every operand at every value, decodes from its encoding,
and what follows is left. -/
def Obligations.RoundTrip : Prop :=
  ∀ (i : Instr) (rest : List Byte), i.encodable = true → i.wf = true → decode (encodeBytes i ++ rest) = .ok (i, rest)

/-- R73-R75, R97: what the decoder answers is well formed, and its encoding gives back every bit that was read; a word of kind 10
is reserved, one of kind 11 is no start, and one of kind 01 needs a word of kind 11 behind it. -/
def Obligations.StrictDecoding : Prop :=
  (∀ (bs rest : List Byte) (i : Instr), decode bs = .ok (i, rest) →
    i.wf = true ∧ i.encodable = true ∧ encodeBytes i ++ rest = bs) ∧
  (∀ (w w2 : IWord) (rest : List Byte),
    let bs := bytesOfNat 4 w.toNat ++ (bytesOfNat 4 w2.toNat ++ rest)
    (wordKind w = 2 → decode bs = .error .kindReserved) ∧ (wordKind w = 3 → decode bs = .error .secondWord) ∧
    (wordKind w = 1 → wordKind w2 ≠ 3 → decode bs = .error .noSecond))

/-- The words that the spec's examples work out decode to the instructions that they stand for (R85, R100, R160, R161, R203, R205,
R209, R210, R212, R217, R284, R302). -/
def Obligations.DecodeWords : Prop :=
  ∀ p ∈ ([(0x009CC504, .sub 5 6 7), (0x020CC520, .srai 5 6 3), (0x00024524, .lhi 5 0x12), (0xFFFCC51C, .sltiu 5 6 (-1)),
      (0x01884744, .sw 7 2 12), (0xD89D4648, .amoAdd 6 10 7 2 3 1), (0x55194048, .amoFadd 0 10 6 2 2 0),
      (0x0084004C, .fence 2 1 0), (0x090C004C, .fence 4 3 2), (0x00020168, .jal 1 16), (0x25D8C5AC, .fcvt 5 6 1 6 0 1),
      (0x01400570, .getc 5 0x050), (0x0084C074, .putc 6 0x021), (0x00800078, .tret), (0x05000078, .ion), (0x05800078, .ioff),
      (0x000281A0, .vld 1 10 0)] : List (Nat × Instr)), decodeTableWord 32 p.1 = some p.2

/-- R73, R99: when the bytes at the pc of the strand that moves decode to an instruction, one word or two, and no trap is pending,
the step is that instruction's meaning in the state after the fetch, and then time passes; a service strand fetches its word from
service memory. Where scalar loads of the strand are still to take their values (log 11), the instruction executes with their registers
pending if it may pass them, touches none of their bytes and goes on; else the oldest of them takes its value. -/
def Obligations.StepRunsDecoded : Prop :=
  ∀ (s : State) (rest : List Action), s.agenda = .run s.me.uid :: rest → s.me.resident = true → s.me.vtrap = none →
    (s.pendingAsync = [] ∨ s.me.idling = true) →
    let s0 := { s with agenda := rest, me := { s.me with taint := false } }
    let ran := fun (i : Instr) (s1 : State) =>
      let s2 := s1.pendLate
      let land := finish (runInstr (landLate 0) { s with agenda := rest })
      (s.me.late = [] → step s = finish (exec i { s1 with ev := EvArgs.none })) ∧
      (s.me.late ≠ [] →
        (Instr.passes i = false ∨ s2.crosses i = true → step s = land) ∧
        (Instr.passes i = true → s2.crosses i = false → ∀ t, exec i { s2 with ev := EvArgs.none } = .next t →
          step s = if t.me.uid = s.me.uid ∧ t.me.pc = s.me.pc then land else finish (.next (t.unpend s.me.lateMask))))
    (∀ w i s1, (fetchWord s.me.pl s.me.pc).run s0 = .ok (.word w) s1 → decode (bytesOfNat 4 w.toNat) = .ok (i, []) → ran i s1) ∧
    (∀ w w2 i s1 s2, (fetchWord s.me.pl s.me.pc).run s0 = .ok (.word w) s1 →
      (fetchWord s.me.pl (s.me.pc + 4)).run s1 = .ok (.word w2) s2 →
      decode (bytesOfNat 4 w.toNat ++ bytesOfNat 4 w2.toNat) = .ok (i, []) → ran i s2) ∧
    (s.me.owner = .mon → s.me.pc.toNat < 2 ^ 27 → s.settled (svcAt s.me.pc.toNat) 4 → s.resting (svcAt s.me.pc.toNat) 4 →
      (fetchWord s.me.pl s.me.pc).run s0 = .ok (.word (BitVec.ofNat 32 (s.natAt (svcAt s.me.pc.toNat) 4))) s0) ∧
    (∀ t : State, finish (.next t) = .next t.idleQueues.tickOver.forceGaps)

/-- Memory keeps its canonical form (log 1) through every step from every state. -/
def Obligations.StepKeepsMemory : Prop :=
 ∀ s t : State, s.Inv → step s = .next t → t.Inv

/-- No step ends the run: every instruction and every event of the model goes on, with its effect, a trap or a wait. -/
def Obligations.EveryStepGoesOn : Prop :=
 ∀ s : State, ∃ t, step s = .next t

/-- The state at reset: canonical memory, time 0, BOOTST 0, no live strand, no partition, every bulkhead off (log 4), and the boot
of R443 to come; the control registers of a new strand hold the reset values of R144 and R146. -/
def Obligations.ResetValues : Prop :=
  let z := State.reset
  z.Inv ∧ z.time = 0 ∧ z.bootst = 0 ∧ z.parts = [] ∧ z.calls = [] ∧ z.launches = [] ∧ z.agenda = [.event .deviceReset EvArgs.none] ∧
  (∀ t ∈ z.strands, t.live = false) ∧ (∀ b, (z.bh b).state = .off) ∧
  ∀ (uid : Nat) (owner : Owner),
    let t := Strand.fresh uid owner
    t.ie = false ∧ t.vheld = false ∧ t.vl = 0 ∧ t.vtag = 15 ∧ t.vstart = 0 ∧ t.vcommit = 0 ∧ t.fflags = 0 ∧
    (∀ l ∈ t.lanes.toList, l = 0) ∧ t.frm = 0 ∧ t.porten = 0 ∧ (∀ r ∈ t.routes.toList, r = 0) ∧ t.bartimeout = 24 ∧
    t.cycle = 0 ∧ t.asid = 0 ∧ t.ptbase = 0 ∧ t.spoison = 0 ∧ t.kpoison = 0 ∧ t.vpoison = 0 ∧ t.wdog = 0 ∧ t.vback = 0 ∧
    t.wdgPend = false ∧ (∀ r, t.sreg r = 0) ∧ ∀ b ∈ [t.sup, t.hyp, t.mon], b = ⟨0, 0, 0, 0, 0, 0⟩
end

