-- ==== Sys2Proof/Laws/Memory.lean ====
section
/-! SUPPORT. The memory list: what a read gives after a write, and that every operation keeps the canonical form (log 1). -/

namespace Sys2Proof.Machine

theorem Mem.above_trans {a b : Nat} {m : List Host.Cell} (h : a ≤ b) (hm : Mem.above b m = true) :
    Mem.above a m = true := by
  cases m with
  | nil => rfl
  | cons c t => simp [Mem.above] at *; omega

theorem Memory.wf_cons {k : Nat} {v : Byte} {t : List Host.Cell} :
    Memory.wf ((k, v) :: t) = true ↔ v ≠ 0 ∧ Mem.above k t = true ∧ Memory.wf t = true := by
  simp [Memory.wf, and_assoc]

theorem Mem.above_write {m : List Host.Cell} {k a : Nat} {b : Byte} (hw : Memory.wf m = true) (hk : k < a)
    (hm : Mem.above k m = true) : Mem.above k (Mem.write m a b) = true := by
  cases m with
  | nil => unfold Mem.write; split <;> simp [Mem.above, hk]
  | cons c t =>
    obtain ⟨j, v⟩ := c
    have hw' := Memory.wf_cons.1 hw
    have hj : k < j := by simpa [Mem.above] using hm
    unfold Mem.write
    split
    · split <;> simp [Mem.above, hk, hj]
    · split
      · split
        · exact Mem.above_trans (Nat.le_of_lt hj) hw'.2.1
        · simp [Mem.above, hk]
      · simp [Mem.above, hj]

theorem Memory.wf_write {m : List Host.Cell} (a : Nat) (b : Byte) (hw : Memory.wf m = true) :
    Memory.wf (Mem.write m a b) = true := by
  induction m with
  | nil =>
    unfold Mem.write
    split
    · rfl
    · rename_i h; exact Memory.wf_cons.2 ⟨h, rfl, rfl⟩
  | cons c t ih =>
    obtain ⟨j, v⟩ := c
    obtain ⟨hv, ha, ht⟩ := Memory.wf_cons.1 hw
    unfold Mem.write
    split
    · split
      · exact hw
      · refine Memory.wf_cons.2 ⟨‹_›, by simpa [Mem.above], hw⟩
    · split
      · split
        · exact ht
        · rename_i h _; subst h
          exact Memory.wf_cons.2 ⟨‹_›, ha, ht⟩
      · exact Memory.wf_cons.2 ⟨hv, Mem.above_write ht (by omega) ha, ih ht⟩

theorem Memory.wf_writeL : ∀ (l : List Byte) {m : List Host.Cell} (a : Nat), Memory.wf m = true → Memory.wf (Mem.writeL m a l) = true
  | [], _, _, h => h
  | b :: t, _, a, h => Memory.wf_writeL t (a + 1) (Memory.wf_write a b h)

theorem Mem.above_filter {m : List Host.Cell} {k : Nat} (p : Host.Cell → Bool) (hw : Memory.wf m = true)
    (hm : Mem.above k m = true) : Mem.above k (m.filter p) = true := by
  induction m with
  | nil => rfl
  | cons c t ih =>
    obtain ⟨j, v⟩ := c
    obtain ⟨_, ha, ht⟩ := Memory.wf_cons.1 hw
    have hj : k < j := by simpa [Mem.above] using hm
    by_cases hp : p (j, v) = true
    · simp [hp, Mem.above, hj]
    · simp only [hp, List.filter_cons, Bool.false_eq_true, if_false]
      exact ih ht (Mem.above_trans (Nat.le_of_lt hj) ha)

/-- Removing cells keeps the canonical form. -/
theorem Memory.wf_filter {m : List Host.Cell} (p : Host.Cell → Bool) (hw : Memory.wf m = true) :
    Memory.wf (m.filter p) = true := by
  induction m with
  | nil => rfl
  | cons c t ih =>
    obtain ⟨j, v⟩ := c
    obtain ⟨hv, ha, ht⟩ := Memory.wf_cons.1 hw
    by_cases hp : p (j, v) = true
    · simp only [hp, List.filter_cons, if_true]
      exact Memory.wf_cons.2 ⟨hv, Mem.above_filter p ht ha, ih ht⟩
    · simp only [hp, List.filter_cons, Bool.false_eq_true, if_false]
      exact ih ht

theorem Mem.read_above {m : List Host.Cell} {a : Nat} (h : Mem.above a m = true) : Mem.read m a = 0 := by
  cases m with
  | nil => rfl
  | cons c t =>
    obtain ⟨j, v⟩ := c
    have hj : a < j := by simpa [Mem.above] using h
    simp [Mem.read, hj]

/-- A read after a write to the same address gives the byte written. -/
theorem Mem.read_write_same {m : List Host.Cell} (a : Nat) (b : Byte) (hw : Memory.wf m = true) :
    Mem.read (Mem.write m a b) a = b := by
  induction m with
  | nil => unfold Mem.write; split <;> simp [Mem.read, *]
  | cons c t ih =>
    obtain ⟨j, v⟩ := c
    obtain ⟨hv, ha, ht⟩ := Memory.wf_cons.1 hw
    unfold Mem.write
    split
    · split
      · simp [Mem.read, *]
      · simp [Mem.read]
    · split
      · split
        · rename_i h _; subst h
          simp [Mem.read_above ha, *]
        · simp [Mem.read]
      · simp [Mem.read, *]

/-- A write leaves every other byte alone. -/
theorem Mem.read_write_other {m : List Host.Cell} {a x : Nat} (b : Byte) (hw : Memory.wf m = true) (hx : x ≠ a) :
    Mem.read (Mem.write m a b) x = Mem.read m x := by
  induction m with
  | nil =>
    unfold Mem.write
    split
    · rfl
    · simp only [Mem.read, hx, if_false]; split <;> rfl
  | cons c t ih =>
    obtain ⟨j, v⟩ := c
    obtain ⟨hv, ha, ht⟩ := Memory.wf_cons.1 hw
    unfold Mem.write
    split
    · rename_i h
      split
      · rfl
      · simp only [Mem.read]
        split
        · rw [if_pos (by omega)]
        · rfl
    · split
      · rename_i _ h; subst h
        split
        · simp only [Mem.read]
          split
          · exact Mem.read_above (Mem.above_trans (by omega) ha)
          · rfl
        · simp only [Mem.read, hx, if_false]
      · simp only [Mem.read, ih ht]

/-- Two canonical lists that read alike at every address are equal: equal memories are equal data. -/
theorem Memory.ext {m n : List Host.Cell} (hm : Memory.wf m = true) (hn : Memory.wf n = true)
    (h : ∀ a, Mem.read m a = Mem.read n a) : m = n := by
  induction m generalizing n with
  | nil =>
    cases n with
    | nil => rfl
    | cons c t =>
      obtain ⟨j, v⟩ := c
      have := h j
      simp only [Mem.read, Nat.lt_irrefl, if_false, if_true] at this
      exact absurd this.symm (Memory.wf_cons.1 hn).1
  | cons c t ih =>
    obtain ⟨j, v⟩ := c
    obtain ⟨hv, ha, ht⟩ := Memory.wf_cons.1 hm
    cases n with
    | nil =>
      have := h j
      simp only [Mem.read, Nat.lt_irrefl, if_false, if_true] at this
      exact absurd this hv
    | cons d u =>
      obtain ⟨k, w⟩ := d
      obtain ⟨hw, hb, hu⟩ := Memory.wf_cons.1 hn
      have hjk : j = k := by
        rcases Nat.lt_trichotomy j k with hlt | heq | hgt
        · have := h j
          simp only [Mem.read, Nat.lt_irrefl, if_false, if_true, hlt] at this
          exact absurd this hv
        · exact heq
        · have := h k
          simp only [Mem.read, Nat.lt_irrefl, if_false, if_true, hgt] at this
          exact absurd this.symm hw
      subst hjk
      have hvw : v = w := by simpa [Mem.read] using h j
      subst hvw
      rw [ih ht hu]
      intro a
      by_cases haj : a ≤ j
      · rw [Mem.read_above (Mem.above_trans haj ha), Mem.read_above (Mem.above_trans haj hb)]
      · have := h a
        simpa [Mem.read, show ¬ a < j by omega, show a ≠ j by omega] using this

end Sys2Proof.Machine
end

