-- ==== Sys2Proof/Laws/State.lean ====
section
/-! SUPPORT. What each named update of a strand or of the state leaves alone: one lemma per field per update. -/

namespace Sys2Proof.Machine

section
variable (t : Strand) (r : SReg) (x : Word)
@[simp] theorem Strand.setS_uid : (t.setS r x).uid = t.uid := by unfold Strand.setS; split <;> rfl
@[simp] theorem Strand.setS_live : (t.setS r x).live = t.live := by unfold Strand.setS; split <;> rfl
@[simp] theorem Strand.setS_owner : (t.setS r x).owner = t.owner := by unfold Strand.setS; split <;> rfl
@[simp] theorem Strand.setS_pos : (t.setS r x).pos = t.pos := by unfold Strand.setS; split <;> rfl
@[simp] theorem Strand.setS_num : (t.setS r x).num = t.num := by unfold Strand.setS; split <;> rfl
@[simp] theorem Strand.setS_place : (t.setS r x).place = t.place := by unfold Strand.setS; split <;> rfl
@[simp] theorem Strand.setS_clu : (t.setS r x).clu = t.clu := by unfold Strand.setS; split <;> rfl
@[simp] theorem Strand.setS_placedAt : (t.setS r x).placedAt = t.placedAt := by unfold Strand.setS; split <;> rfl
@[simp] theorem Strand.setS_pc : (t.setS r x).pc = t.pc := by unfold Strand.setS; split <;> rfl
@[simp] theorem Strand.setS_pl : (t.setS r x).pl = t.pl := by unfold Strand.setS; split <;> rfl
@[simp] theorem Strand.setS_ie : (t.setS r x).ie = t.ie := by unfold Strand.setS; split <;> rfl
@[simp] theorem Strand.setS_vheld : (t.setS r x).vheld = t.vheld := by unfold Strand.setS; split <;> rfl
@[simp] theorem Strand.setS_sup : (t.setS r x).sup = t.sup := by unfold Strand.setS; split <;> rfl
@[simp] theorem Strand.setS_hyp : (t.setS r x).hyp = t.hyp := by unfold Strand.setS; split <;> rfl
@[simp] theorem Strand.setS_mon : (t.setS r x).mon = t.mon := by unfold Strand.setS; split <;> rfl
@[simp] theorem Strand.setS_vl : (t.setS r x).vl = t.vl := by unfold Strand.setS; split <;> rfl
@[simp] theorem Strand.setS_gvl : (t.setS r x).gvl = t.gvl := by unfold Strand.setS; split <;> rfl
@[simp] theorem Strand.setS_vtag : (t.setS r x).vtag = t.vtag := by unfold Strand.setS; split <;> rfl
@[simp] theorem Strand.setS_vstart : (t.setS r x).vstart = t.vstart := by unfold Strand.setS; split <;> rfl
@[simp] theorem Strand.setS_vcommit : (t.setS r x).vcommit = t.vcommit := by unfold Strand.setS; split <;> rfl
@[simp] theorem Strand.setS_fflags : (t.setS r x).fflags = t.fflags := by unfold Strand.setS; split <;> rfl
@[simp] theorem Strand.setS_lanes : (t.setS r x).lanes = t.lanes := by unfold Strand.setS; split <;> rfl
@[simp] theorem Strand.setS_frm : (t.setS r x).frm = t.frm := by unfold Strand.setS; split <;> rfl
@[simp] theorem Strand.setS_porten : (t.setS r x).porten = t.porten := by unfold Strand.setS; split <;> rfl
@[simp] theorem Strand.setS_routes : (t.setS r x).routes = t.routes := by unfold Strand.setS; split <;> rfl
@[simp] theorem Strand.setS_bartimeout : (t.setS r x).bartimeout = t.bartimeout := by unfold Strand.setS; split <;> rfl
@[simp] theorem Strand.setS_cycle : (t.setS r x).cycle = t.cycle := by unfold Strand.setS; split <;> rfl
@[simp] theorem Strand.setS_asid : (t.setS r x).asid = t.asid := by unfold Strand.setS; split <;> rfl
@[simp] theorem Strand.setS_ptbase : (t.setS r x).ptbase = t.ptbase := by unfold Strand.setS; split <;> rfl
@[simp] theorem Strand.setS_kpoison : (t.setS r x).kpoison = t.kpoison := by unfold Strand.setS; split <;> rfl
@[simp] theorem Strand.setS_vpoison : (t.setS r x).vpoison = t.vpoison := by unfold Strand.setS; split <;> rfl
@[simp] theorem Strand.setS_wdog : (t.setS r x).wdog = t.wdog := by unfold Strand.setS; split <;> rfl
@[simp] theorem Strand.setS_wdgPend : (t.setS r x).wdgPend = t.wdgPend := by unfold Strand.setS; split <;> rfl
@[simp] theorem Strand.setS_vback : (t.setS r x).vback = t.vback := by unfold Strand.setS; split <;> rfl
@[simp] theorem Strand.setS_ports : (t.setS r x).ports = t.ports := by unfold Strand.setS; split <;> rfl
@[simp] theorem Strand.setS_taint : (t.setS r x).taint = t.taint := by unfold Strand.setS; split <;> rfl
@[simp] theorem Strand.setS_calls : (t.setS r x).calls = t.calls := by unfold Strand.setS; split <;> rfl
@[simp] theorem Strand.setS_posts : (t.setS r x).posts = t.posts := by unfold Strand.setS; split <;> rfl
@[simp] theorem Strand.setS_postOrder : (t.setS r x).postOrder = t.postOrder := by unfold Strand.setS; split <;> rfl
@[simp] theorem Strand.setS_mark : (t.setS r x).mark = t.mark := by unfold Strand.setS; split <;> rfl
@[simp] theorem Strand.setS_idling : (t.setS r x).idling = t.idling := by unfold Strand.setS; split <;> rfl
@[simp] theorem Strand.setS_waitBar : (t.setS r x).waitBar = t.waitBar := by unfold Strand.setS; split <;> rfl
@[simp] theorem Strand.setS_spend : (t.setS r x).spend = t.spend := by unfold Strand.setS; split <;> rfl
@[simp] theorem Strand.setS_v : (t.setS r x).v = t.v := by unfold Strand.setS; split <;> rfl
@[simp] theorem Strand.setS_tags : (t.setS r x).tags = t.tags := by unfold Strand.setS; split <;> rfl
@[simp] theorem Strand.setS_k : (t.setS r x).k = t.k := by unfold Strand.setS; split <;> rfl
@[simp] theorem Strand.setS_mstack : (t.setS r x).mstack = t.mstack := by unfold Strand.setS; split <;> rfl
@[simp] theorem Strand.setS_vpend : (t.setS r x).vpend = t.vpend := by unfold Strand.setS; split <;> rfl
@[simp] theorem Strand.setS_kpend : (t.setS r x).kpend = t.kpend := by unfold Strand.setS; split <;> rfl
@[simp] theorem Strand.setS_res : (t.setS r x).res = t.res := by unfold Strand.setS; split <;> rfl
@[simp] theorem Strand.setS_stamp : (t.setS r x).stamp = t.stamp := by unfold Strand.setS; split <;> rfl
@[simp] theorem Strand.setS_tiles : (t.setS r x).tiles = t.tiles := by unfold Strand.setS; split <;> rfl
@[simp] theorem Strand.setS_vq : (t.setS r x).vq = t.vq := by unfold Strand.setS; split <;> rfl
@[simp] theorem Strand.setS_vtrap : (t.setS r x).vtrap = t.vtrap := by unfold Strand.setS; split <;> rfl
@[simp] theorem Strand.setS_vsaved : (t.setS r x).vsaved = t.vsaved := by unfold Strand.setS; split <;> rfl
@[simp] theorem Strand.setS_sports : (t.setS r x).sports = t.sports := by unfold Strand.setS; split <;> rfl
@[simp] theorem Strand.setS_cwTarget : (t.setS r x).cwTarget = t.cwTarget := by unfold Strand.setS; split <;> rfl
@[simp] theorem Strand.setS_cwRes : (t.setS r x).cwRes = t.cwRes := by unfold Strand.setS; split <;> rfl
@[simp] theorem Strand.setS_hmStat : (t.setS r x).hmStat = t.hmStat := by unfold Strand.setS; split <;> rfl
@[simp] theorem Strand.setS_hmDetail : (t.setS r x).hmDetail = t.hmDetail := by unfold Strand.setS; split <;> rfl
@[simp] theorem Strand.setS_eager : (t.setS r x).eager = t.eager := by unfold Strand.setS; split <;> rfl
@[simp] theorem Strand.setS_strip : (t.setS r x).strip = t.strip := by unfold Strand.setS; split <;> rfl
@[simp] theorem Strand.setS_running : (t.setS r x).running = t.running := by unfold Strand.setS; split <;> rfl
@[simp] theorem Strand.setS_vseq : (t.setS r x).vseq = t.vseq := by unfold Strand.setS; split <;> rfl
@[simp] theorem Strand.setS_deps : (t.setS r x).deps = t.deps := by unfold Strand.setS; split <;> rfl
@[simp] theorem Strand.setS_late : (t.setS r x).late = t.late := by unfold Strand.setS; split <;> rfl
@[simp] theorem Strand.setS_bankAt : (t.setS r x).bankAt = t.bankAt := by unfold Strand.setS; split <;> rfl
end

section
variable (t : Strand) (v : Bool)
@[simp] theorem Strand.hold_uid : (t.hold v).uid = t.uid := rfl
@[simp] theorem Strand.hold_live : (t.hold v).live = t.live := rfl
@[simp] theorem Strand.hold_owner : (t.hold v).owner = t.owner := rfl
@[simp] theorem Strand.hold_pos : (t.hold v).pos = t.pos := rfl
@[simp] theorem Strand.hold_num : (t.hold v).num = t.num := rfl
@[simp] theorem Strand.hold_place : (t.hold v).place = t.place := rfl
@[simp] theorem Strand.hold_clu : (t.hold v).clu = t.clu := rfl
@[simp] theorem Strand.hold_placedAt : (t.hold v).placedAt = t.placedAt := rfl
@[simp] theorem Strand.hold_pc : (t.hold v).pc = t.pc := rfl
@[simp] theorem Strand.hold_s : (t.hold v).s = t.s := rfl
@[simp] theorem Strand.hold_pl : (t.hold v).pl = t.pl := rfl
@[simp] theorem Strand.hold_ie : (t.hold v).ie = t.ie := rfl
@[simp] theorem Strand.hold_sup : (t.hold v).sup = t.sup := rfl
@[simp] theorem Strand.hold_hyp : (t.hold v).hyp = t.hyp := rfl
@[simp] theorem Strand.hold_mon : (t.hold v).mon = t.mon := rfl
@[simp] theorem Strand.hold_vl : (t.hold v).vl = t.vl := rfl
@[simp] theorem Strand.hold_gvl : (t.hold v).gvl = t.gvl := rfl
@[simp] theorem Strand.hold_vtag : (t.hold v).vtag = t.vtag := rfl
@[simp] theorem Strand.hold_vstart : (t.hold v).vstart = t.vstart := rfl
@[simp] theorem Strand.hold_vcommit : (t.hold v).vcommit = t.vcommit := rfl
@[simp] theorem Strand.hold_fflags : (t.hold v).fflags = t.fflags := rfl
@[simp] theorem Strand.hold_lanes : (t.hold v).lanes = t.lanes := rfl
@[simp] theorem Strand.hold_frm : (t.hold v).frm = t.frm := rfl
@[simp] theorem Strand.hold_porten : (t.hold v).porten = t.porten := rfl
@[simp] theorem Strand.hold_routes : (t.hold v).routes = t.routes := rfl
@[simp] theorem Strand.hold_bartimeout : (t.hold v).bartimeout = t.bartimeout := rfl
@[simp] theorem Strand.hold_cycle : (t.hold v).cycle = t.cycle := rfl
@[simp] theorem Strand.hold_asid : (t.hold v).asid = t.asid := rfl
@[simp] theorem Strand.hold_ptbase : (t.hold v).ptbase = t.ptbase := rfl
@[simp] theorem Strand.hold_spoison : (t.hold v).spoison = t.spoison := rfl
@[simp] theorem Strand.hold_kpoison : (t.hold v).kpoison = t.kpoison := rfl
@[simp] theorem Strand.hold_vpoison : (t.hold v).vpoison = t.vpoison := rfl
@[simp] theorem Strand.hold_wdog : (t.hold v).wdog = t.wdog := rfl
@[simp] theorem Strand.hold_wdgPend : (t.hold v).wdgPend = t.wdgPend := rfl
@[simp] theorem Strand.hold_vback : (t.hold v).vback = t.vback := rfl
@[simp] theorem Strand.hold_ports : (t.hold v).ports = t.ports := rfl
@[simp] theorem Strand.hold_taint : (t.hold v).taint = t.taint := rfl
@[simp] theorem Strand.hold_calls : (t.hold v).calls = t.calls := rfl
@[simp] theorem Strand.hold_posts : (t.hold v).posts = t.posts := rfl
@[simp] theorem Strand.hold_postOrder : (t.hold v).postOrder = t.postOrder := rfl
@[simp] theorem Strand.hold_mark : (t.hold v).mark = t.mark := rfl
@[simp] theorem Strand.hold_v : (t.hold v).v = t.v := rfl
@[simp] theorem Strand.hold_tags : (t.hold v).tags = t.tags := rfl
@[simp] theorem Strand.hold_k : (t.hold v).k = t.k := rfl
@[simp] theorem Strand.hold_mstack : (t.hold v).mstack = t.mstack := rfl
@[simp] theorem Strand.hold_vpend : (t.hold v).vpend = t.vpend := rfl
@[simp] theorem Strand.hold_kpend : (t.hold v).kpend = t.kpend := rfl
@[simp] theorem Strand.hold_res : (t.hold v).res = t.res := rfl
@[simp] theorem Strand.hold_stamp : (t.hold v).stamp = t.stamp := rfl
@[simp] theorem Strand.hold_tiles : (t.hold v).tiles = t.tiles := rfl
@[simp] theorem Strand.hold_vq : (t.hold v).vq = t.vq := rfl
@[simp] theorem Strand.hold_vtrap : (t.hold v).vtrap = t.vtrap := rfl
@[simp] theorem Strand.hold_vsaved : (t.hold v).vsaved = t.vsaved := rfl
@[simp] theorem Strand.hold_sports : (t.hold v).sports = t.sports := rfl
@[simp] theorem Strand.hold_cwTarget : (t.hold v).cwTarget = t.cwTarget := rfl
@[simp] theorem Strand.hold_cwRes : (t.hold v).cwRes = t.cwRes := rfl
@[simp] theorem Strand.hold_hmStat : (t.hold v).hmStat = t.hmStat := rfl
@[simp] theorem Strand.hold_hmDetail : (t.hold v).hmDetail = t.hmDetail := rfl
@[simp] theorem Strand.hold_eager : (t.hold v).eager = t.eager := rfl
@[simp] theorem Strand.hold_running : (t.hold v).running = t.running := rfl
@[simp] theorem Strand.hold_vseq : (t.hold v).vseq = t.vseq := rfl
@[simp] theorem Strand.hold_deps : (t.hold v).deps = t.deps := rfl
@[simp] theorem Strand.hold_late : (t.hold v).late = t.late := rfl
@[simp] theorem Strand.hold_bankAt : (t.hold v).bankAt = t.bankAt := rfl
end

section
variable (t : Strand)
@[simp] theorem Strand.release_uid : t.release.uid = t.uid := rfl
@[simp] theorem Strand.release_live : t.release.live = t.live := rfl
@[simp] theorem Strand.release_owner : t.release.owner = t.owner := rfl
@[simp] theorem Strand.release_pos : t.release.pos = t.pos := rfl
@[simp] theorem Strand.release_num : t.release.num = t.num := rfl
@[simp] theorem Strand.release_place : t.release.place = t.place := rfl
@[simp] theorem Strand.release_clu : t.release.clu = t.clu := rfl
@[simp] theorem Strand.release_placedAt : t.release.placedAt = t.placedAt := rfl
@[simp] theorem Strand.release_pc : t.release.pc = t.pc := rfl
@[simp] theorem Strand.release_s : t.release.s = t.s := rfl
@[simp] theorem Strand.release_pl : t.release.pl = t.pl := rfl
@[simp] theorem Strand.release_ie : t.release.ie = t.ie := rfl
@[simp] theorem Strand.release_sup : t.release.sup = t.sup := rfl
@[simp] theorem Strand.release_hyp : t.release.hyp = t.hyp := rfl
@[simp] theorem Strand.release_mon : t.release.mon = t.mon := rfl
@[simp] theorem Strand.release_vl : t.release.vl = t.vl := rfl
@[simp] theorem Strand.release_gvl : t.release.gvl = t.gvl := rfl
@[simp] theorem Strand.release_vtag : t.release.vtag = t.vtag := rfl
@[simp] theorem Strand.release_vstart : t.release.vstart = t.vstart := rfl
@[simp] theorem Strand.release_vcommit : t.release.vcommit = t.vcommit := rfl
@[simp] theorem Strand.release_fflags : t.release.fflags = t.fflags := rfl
@[simp] theorem Strand.release_lanes : t.release.lanes = t.lanes := rfl
@[simp] theorem Strand.release_frm : t.release.frm = t.frm := rfl
@[simp] theorem Strand.release_porten : t.release.porten = t.porten := rfl
@[simp] theorem Strand.release_routes : t.release.routes = t.routes := rfl
@[simp] theorem Strand.release_bartimeout : t.release.bartimeout = t.bartimeout := rfl
@[simp] theorem Strand.release_cycle : t.release.cycle = t.cycle := rfl
@[simp] theorem Strand.release_asid : t.release.asid = t.asid := rfl
@[simp] theorem Strand.release_ptbase : t.release.ptbase = t.ptbase := rfl
@[simp] theorem Strand.release_spoison : t.release.spoison = t.spoison := rfl
@[simp] theorem Strand.release_kpoison : t.release.kpoison = t.kpoison := rfl
@[simp] theorem Strand.release_vpoison : t.release.vpoison = t.vpoison := rfl
@[simp] theorem Strand.release_wdog : t.release.wdog = t.wdog := rfl
@[simp] theorem Strand.release_wdgPend : t.release.wdgPend = t.wdgPend := rfl
@[simp] theorem Strand.release_vback : t.release.vback = t.vback := rfl
@[simp] theorem Strand.release_ports : t.release.ports = t.ports := rfl
@[simp] theorem Strand.release_taint : t.release.taint = t.taint := rfl
@[simp] theorem Strand.release_calls : t.release.calls = t.calls := rfl
@[simp] theorem Strand.release_posts : t.release.posts = t.posts := rfl
@[simp] theorem Strand.release_postOrder : t.release.postOrder = t.postOrder := rfl
@[simp] theorem Strand.release_mark : t.release.mark = t.mark := rfl
@[simp] theorem Strand.release_idling : t.release.idling = t.idling := rfl
@[simp] theorem Strand.release_waitBar : t.release.waitBar = t.waitBar := rfl
@[simp] theorem Strand.release_v : t.release.v = t.v := rfl
@[simp] theorem Strand.release_tags : t.release.tags = t.tags := rfl
@[simp] theorem Strand.release_k : t.release.k = t.k := rfl
@[simp] theorem Strand.release_mstack : t.release.mstack = t.mstack := rfl
@[simp] theorem Strand.release_vpend : t.release.vpend = t.vpend := rfl
@[simp] theorem Strand.release_kpend : t.release.kpend = t.kpend := rfl
@[simp] theorem Strand.release_res : t.release.res = t.res := rfl
@[simp] theorem Strand.release_stamp : t.release.stamp = t.stamp := rfl
@[simp] theorem Strand.release_tiles : t.release.tiles = t.tiles := rfl
@[simp] theorem Strand.release_vq : t.release.vq = t.vq := rfl
@[simp] theorem Strand.release_vtrap : t.release.vtrap = t.vtrap := rfl
@[simp] theorem Strand.release_vsaved : t.release.vsaved = t.vsaved := rfl
@[simp] theorem Strand.release_sports : t.release.sports = t.sports := rfl
@[simp] theorem Strand.release_cwTarget : t.release.cwTarget = t.cwTarget := rfl
@[simp] theorem Strand.release_cwRes : t.release.cwRes = t.cwRes := rfl
@[simp] theorem Strand.release_hmStat : t.release.hmStat = t.hmStat := rfl
@[simp] theorem Strand.release_hmDetail : t.release.hmDetail = t.hmDetail := rfl
@[simp] theorem Strand.release_eager : t.release.eager = t.eager := rfl
@[simp] theorem Strand.release_running : t.release.running = t.running := rfl
@[simp] theorem Strand.release_vseq : t.release.vseq = t.vseq := rfl
@[simp] theorem Strand.release_deps : t.release.deps = t.deps := rfl
@[simp] theorem Strand.release_late : t.release.late = t.late := rfl
@[simp] theorem Strand.release_bankAt : t.release.bankAt = t.bankAt := rfl
end

section
variable (t : Strand) (l : Level) (b : Bank)
@[simp] theorem Strand.setBank_uid : (t.setBank l b).uid = t.uid := by cases l <;> rfl
@[simp] theorem Strand.setBank_live : (t.setBank l b).live = t.live := by cases l <;> rfl
@[simp] theorem Strand.setBank_owner : (t.setBank l b).owner = t.owner := by cases l <;> rfl
@[simp] theorem Strand.setBank_pos : (t.setBank l b).pos = t.pos := by cases l <;> rfl
@[simp] theorem Strand.setBank_num : (t.setBank l b).num = t.num := by cases l <;> rfl
@[simp] theorem Strand.setBank_place : (t.setBank l b).place = t.place := by cases l <;> rfl
@[simp] theorem Strand.setBank_clu : (t.setBank l b).clu = t.clu := by cases l <;> rfl
@[simp] theorem Strand.setBank_placedAt : (t.setBank l b).placedAt = t.placedAt := by cases l <;> rfl
@[simp] theorem Strand.setBank_pc : (t.setBank l b).pc = t.pc := by cases l <;> rfl
@[simp] theorem Strand.setBank_s : (t.setBank l b).s = t.s := by cases l <;> rfl
@[simp] theorem Strand.setBank_pl : (t.setBank l b).pl = t.pl := by cases l <;> rfl
@[simp] theorem Strand.setBank_ie : (t.setBank l b).ie = t.ie := by cases l <;> rfl
@[simp] theorem Strand.setBank_vheld : (t.setBank l b).vheld = t.vheld := by cases l <;> rfl
@[simp] theorem Strand.setBank_vl : (t.setBank l b).vl = t.vl := by cases l <;> rfl
@[simp] theorem Strand.setBank_gvl : (t.setBank l b).gvl = t.gvl := by cases l <;> rfl
@[simp] theorem Strand.setBank_vtag : (t.setBank l b).vtag = t.vtag := by cases l <;> rfl
@[simp] theorem Strand.setBank_vstart : (t.setBank l b).vstart = t.vstart := by cases l <;> rfl
@[simp] theorem Strand.setBank_vcommit : (t.setBank l b).vcommit = t.vcommit := by cases l <;> rfl
@[simp] theorem Strand.setBank_fflags : (t.setBank l b).fflags = t.fflags := by cases l <;> rfl
@[simp] theorem Strand.setBank_lanes : (t.setBank l b).lanes = t.lanes := by cases l <;> rfl
@[simp] theorem Strand.setBank_frm : (t.setBank l b).frm = t.frm := by cases l <;> rfl
@[simp] theorem Strand.setBank_porten : (t.setBank l b).porten = t.porten := by cases l <;> rfl
@[simp] theorem Strand.setBank_routes : (t.setBank l b).routes = t.routes := by cases l <;> rfl
@[simp] theorem Strand.setBank_bartimeout : (t.setBank l b).bartimeout = t.bartimeout := by cases l <;> rfl
@[simp] theorem Strand.setBank_cycle : (t.setBank l b).cycle = t.cycle := by cases l <;> rfl
@[simp] theorem Strand.setBank_asid : (t.setBank l b).asid = t.asid := by cases l <;> rfl
@[simp] theorem Strand.setBank_ptbase : (t.setBank l b).ptbase = t.ptbase := by cases l <;> rfl
@[simp] theorem Strand.setBank_spoison : (t.setBank l b).spoison = t.spoison := by cases l <;> rfl
@[simp] theorem Strand.setBank_kpoison : (t.setBank l b).kpoison = t.kpoison := by cases l <;> rfl
@[simp] theorem Strand.setBank_vpoison : (t.setBank l b).vpoison = t.vpoison := by cases l <;> rfl
@[simp] theorem Strand.setBank_wdog : (t.setBank l b).wdog = t.wdog := by cases l <;> rfl
@[simp] theorem Strand.setBank_wdgPend : (t.setBank l b).wdgPend = t.wdgPend := by cases l <;> rfl
@[simp] theorem Strand.setBank_vback : (t.setBank l b).vback = t.vback := by cases l <;> rfl
@[simp] theorem Strand.setBank_ports : (t.setBank l b).ports = t.ports := by cases l <;> rfl
@[simp] theorem Strand.setBank_taint : (t.setBank l b).taint = t.taint := by cases l <;> rfl
@[simp] theorem Strand.setBank_calls : (t.setBank l b).calls = t.calls := by cases l <;> rfl
@[simp] theorem Strand.setBank_posts : (t.setBank l b).posts = t.posts := by cases l <;> rfl
@[simp] theorem Strand.setBank_postOrder : (t.setBank l b).postOrder = t.postOrder := by cases l <;> rfl
@[simp] theorem Strand.setBank_mark : (t.setBank l b).mark = t.mark := by cases l <;> rfl
@[simp] theorem Strand.setBank_idling : (t.setBank l b).idling = t.idling := by cases l <;> rfl
@[simp] theorem Strand.setBank_waitBar : (t.setBank l b).waitBar = t.waitBar := by cases l <;> rfl
@[simp] theorem Strand.setBank_spend : (t.setBank l b).spend = t.spend := by cases l <;> rfl
@[simp] theorem Strand.setBank_v : (t.setBank l b).v = t.v := by cases l <;> rfl
@[simp] theorem Strand.setBank_tags : (t.setBank l b).tags = t.tags := by cases l <;> rfl
@[simp] theorem Strand.setBank_k : (t.setBank l b).k = t.k := by cases l <;> rfl
@[simp] theorem Strand.setBank_mstack : (t.setBank l b).mstack = t.mstack := by cases l <;> rfl
@[simp] theorem Strand.setBank_vpend : (t.setBank l b).vpend = t.vpend := by cases l <;> rfl
@[simp] theorem Strand.setBank_kpend : (t.setBank l b).kpend = t.kpend := by cases l <;> rfl
@[simp] theorem Strand.setBank_res : (t.setBank l b).res = t.res := by cases l <;> rfl
@[simp] theorem Strand.setBank_stamp : (t.setBank l b).stamp = t.stamp := by cases l <;> rfl
@[simp] theorem Strand.setBank_tiles : (t.setBank l b).tiles = t.tiles := by cases l <;> rfl
@[simp] theorem Strand.setBank_vq : (t.setBank l b).vq = t.vq := by cases l <;> rfl
@[simp] theorem Strand.setBank_vtrap : (t.setBank l b).vtrap = t.vtrap := by cases l <;> rfl
@[simp] theorem Strand.setBank_vsaved : (t.setBank l b).vsaved = t.vsaved := by cases l <;> rfl
@[simp] theorem Strand.setBank_sports : (t.setBank l b).sports = t.sports := by cases l <;> rfl
@[simp] theorem Strand.setBank_cwTarget : (t.setBank l b).cwTarget = t.cwTarget := by cases l <;> rfl
@[simp] theorem Strand.setBank_cwRes : (t.setBank l b).cwRes = t.cwRes := by cases l <;> rfl
@[simp] theorem Strand.setBank_hmStat : (t.setBank l b).hmStat = t.hmStat := by cases l <;> rfl
@[simp] theorem Strand.setBank_hmDetail : (t.setBank l b).hmDetail = t.hmDetail := by cases l <;> rfl
@[simp] theorem Strand.setBank_eager : (t.setBank l b).eager = t.eager := by cases l <;> rfl
@[simp] theorem Strand.setBank_strip : (t.setBank l b).strip = t.strip := by cases l <;> rfl
@[simp] theorem Strand.setBank_running : (t.setBank l b).running = t.running := by cases l <;> rfl
@[simp] theorem Strand.setBank_vseq : (t.setBank l b).vseq = t.vseq := by cases l <;> rfl
@[simp] theorem Strand.setBank_deps : (t.setBank l b).deps = t.deps := by cases l <;> rfl
@[simp] theorem Strand.setBank_late : (t.setBank l b).late = t.late := by cases l <;> rfl
@[simp] theorem Strand.setBank_bankAt : (t.setBank l b).bankAt = t.bankAt := by cases l <;> rfl
end

section
variable (s : State) (p : Nat) (f : Part → Part)
@[simp] theorem State.modPart_agenda : (s.modPart p f).agenda = s.agenda := rfl
@[simp] theorem State.modPart_ev : (s.modPart p f).ev = s.ev := rfl
@[simp] theorem State.modPart_tick : (s.modPart p f).tick = s.tick := rfl
@[simp] theorem State.modPart_draw : (s.modPart p f).draw = s.draw := rfl
@[simp] theorem State.modPart_nextId : (s.modPart p f).nextId = s.nextId := rfl
@[simp] theorem State.modPart_me : (s.modPart p f).me = s.me := rfl
@[simp] theorem State.modPart_others : (s.modPart p f).others = s.others := rfl
@[simp] theorem State.modPart_time : (s.modPart p f).time = s.time := rfl
@[simp] theorem State.modPart_bootst : (s.modPart p f).bootst = s.bootst := rfl
@[simp] theorem State.modPart_flash : (s.modPart p f).flash = s.flash := rfl
@[simp] theorem State.modPart_clus : (s.modPart p f).clus = s.clus := rfl
@[simp] theorem State.modPart_roles : (s.modPart p f).roles = s.roles := rfl
@[simp] theorem State.modPart_scol : (s.modPart p f).scol = s.scol := rfl
@[simp] theorem State.modPart_tabVersion : (s.modPart p f).tabVersion = s.tabVersion := rfl
@[simp] theorem State.modPart_bhs : (s.modPart p f).bhs = s.bhs := rfl
@[simp] theorem State.modPart_cores : (s.modPart p f).cores = s.cores := rfl
@[simp] theorem State.modPart_slots : (s.modPart p f).slots = s.slots := rfl
@[simp] theorem State.modPart_subs : (s.modPart p f).subs = s.subs := rfl
@[simp] theorem State.modPart_hmReq : (s.modPart p f).hmReq = s.hmReq := rfl
@[simp] theorem State.modPart_pfen : (s.modPart p f).pfen = s.pfen := rfl
@[simp] theorem State.modPart_fwlock : (s.modPart p f).fwlock = s.fwlock := rfl
@[simp] theorem State.modPart_fwbase : (s.modPart p f).fwbase = s.fwbase := rfl
@[simp] theorem State.modPart_fwsize : (s.modPart p f).fwsize = s.fwsize := rfl
@[simp] theorem State.modPart_fwdrop : (s.modPart p f).fwdrop = s.fwdrop := rfl
@[simp] theorem State.modPart_monImage : (s.modPart p f).monImage = s.monImage := rfl
@[simp] theorem State.modPart_policies : (s.modPart p f).policies = s.policies := rfl
@[simp] theorem State.modPart_slid : (s.modPart p f).slid = s.slid := rfl
@[simp] theorem State.modPart_mem : (s.modPart p f).mem = s.mem := rfl
@[simp] theorem State.modPart_bad : (s.modPart p f).bad = s.bad := rfl
@[simp] theorem State.modPart_full : (s.modPart p f).full = s.full := rfl
@[simp] theorem State.modPart_tlb : (s.modPart p f).tlb = s.tlb := rfl
@[simp] theorem State.modPart_recent : (s.modPart p f).recent = s.recent := rfl
@[simp] theorem State.modPart_raced : (s.modPart p f).raced = s.raced := rfl
@[simp] theorem State.modPart_accums : (s.modPart p f).accums = s.accums := rfl
@[simp] theorem State.modPart_launches : (s.modPart p f).launches = s.launches := rfl
@[simp] theorem State.modPart_splits : (s.modPart p f).splits = s.splits := rfl
@[simp] theorem State.modPart_calls : (s.modPart p f).calls = s.calls := rfl
@[simp] theorem State.modPart_served : (s.modPart p f).served = s.served := rfl
@[simp] theorem State.modPart_rbe : (s.modPart p f).rbe = s.rbe := rfl
@[simp] theorem State.modPart_binds : (s.modPart p f).binds = s.binds := rfl
@[simp] theorem State.modPart_rsids : (s.modPart p f).rsids = s.rsids := rfl
@[simp] theorem State.modPart_raysets : (s.modPart p f).raysets = s.raysets := rfl
@[simp] theorem State.modPart_laneRes : (s.modPart p f).laneRes = s.laneRes := rfl
@[simp] theorem State.modPart_colls : (s.modPart p f).colls = s.colls := rfl
@[simp] theorem State.modPart_outs : (s.modPart p f).outs = s.outs := rfl
@[simp] theorem State.modPart_breached : (s.modPart p f).breached = s.breached := rfl
end

section
variable (s : State) (b : Nat) (f : Bulkhead → Bulkhead)
@[simp] theorem State.modBh_agenda : (s.modBh b f).agenda = s.agenda := rfl
@[simp] theorem State.modBh_ev : (s.modBh b f).ev = s.ev := rfl
@[simp] theorem State.modBh_tick : (s.modBh b f).tick = s.tick := rfl
@[simp] theorem State.modBh_draw : (s.modBh b f).draw = s.draw := rfl
@[simp] theorem State.modBh_nextId : (s.modBh b f).nextId = s.nextId := rfl
@[simp] theorem State.modBh_me : (s.modBh b f).me = s.me := rfl
@[simp] theorem State.modBh_others : (s.modBh b f).others = s.others := rfl
@[simp] theorem State.modBh_time : (s.modBh b f).time = s.time := rfl
@[simp] theorem State.modBh_bootst : (s.modBh b f).bootst = s.bootst := rfl
@[simp] theorem State.modBh_flash : (s.modBh b f).flash = s.flash := rfl
@[simp] theorem State.modBh_clus : (s.modBh b f).clus = s.clus := rfl
@[simp] theorem State.modBh_roles : (s.modBh b f).roles = s.roles := rfl
@[simp] theorem State.modBh_scol : (s.modBh b f).scol = s.scol := rfl
@[simp] theorem State.modBh_tabVersion : (s.modBh b f).tabVersion = s.tabVersion := rfl
@[simp] theorem State.modBh_cores : (s.modBh b f).cores = s.cores := rfl
@[simp] theorem State.modBh_slots : (s.modBh b f).slots = s.slots := rfl
@[simp] theorem State.modBh_subs : (s.modBh b f).subs = s.subs := rfl
@[simp] theorem State.modBh_hmReq : (s.modBh b f).hmReq = s.hmReq := rfl
@[simp] theorem State.modBh_pfen : (s.modBh b f).pfen = s.pfen := rfl
@[simp] theorem State.modBh_fwlock : (s.modBh b f).fwlock = s.fwlock := rfl
@[simp] theorem State.modBh_fwbase : (s.modBh b f).fwbase = s.fwbase := rfl
@[simp] theorem State.modBh_fwsize : (s.modBh b f).fwsize = s.fwsize := rfl
@[simp] theorem State.modBh_fwdrop : (s.modBh b f).fwdrop = s.fwdrop := rfl
@[simp] theorem State.modBh_monImage : (s.modBh b f).monImage = s.monImage := rfl
@[simp] theorem State.modBh_policies : (s.modBh b f).policies = s.policies := rfl
@[simp] theorem State.modBh_slid : (s.modBh b f).slid = s.slid := rfl
@[simp] theorem State.modBh_mem : (s.modBh b f).mem = s.mem := rfl
@[simp] theorem State.modBh_bad : (s.modBh b f).bad = s.bad := rfl
@[simp] theorem State.modBh_full : (s.modBh b f).full = s.full := rfl
@[simp] theorem State.modBh_tlb : (s.modBh b f).tlb = s.tlb := rfl
@[simp] theorem State.modBh_recent : (s.modBh b f).recent = s.recent := rfl
@[simp] theorem State.modBh_raced : (s.modBh b f).raced = s.raced := rfl
@[simp] theorem State.modBh_accums : (s.modBh b f).accums = s.accums := rfl
@[simp] theorem State.modBh_parts : (s.modBh b f).parts = s.parts := rfl
@[simp] theorem State.modBh_launches : (s.modBh b f).launches = s.launches := rfl
@[simp] theorem State.modBh_splits : (s.modBh b f).splits = s.splits := rfl
@[simp] theorem State.modBh_calls : (s.modBh b f).calls = s.calls := rfl
@[simp] theorem State.modBh_served : (s.modBh b f).served = s.served := rfl
@[simp] theorem State.modBh_rbe : (s.modBh b f).rbe = s.rbe := rfl
@[simp] theorem State.modBh_binds : (s.modBh b f).binds = s.binds := rfl
@[simp] theorem State.modBh_rsids : (s.modBh b f).rsids = s.rsids := rfl
@[simp] theorem State.modBh_raysets : (s.modBh b f).raysets = s.raysets := rfl
@[simp] theorem State.modBh_laneRes : (s.modBh b f).laneRes = s.laneRes := rfl
@[simp] theorem State.modBh_colls : (s.modBh b f).colls = s.colls := rfl
@[simp] theorem State.modBh_outs : (s.modBh b f).outs = s.outs := rfl
@[simp] theorem State.modBh_breached : (s.modBh b f).breached = s.breached := rfl
end

section
variable (s : State) (c : CoreId) (f : CoreCtl → CoreCtl)
@[simp] theorem State.modCtl_agenda : (s.modCtl c f).agenda = s.agenda := rfl
@[simp] theorem State.modCtl_ev : (s.modCtl c f).ev = s.ev := rfl
@[simp] theorem State.modCtl_tick : (s.modCtl c f).tick = s.tick := rfl
@[simp] theorem State.modCtl_draw : (s.modCtl c f).draw = s.draw := rfl
@[simp] theorem State.modCtl_nextId : (s.modCtl c f).nextId = s.nextId := rfl
@[simp] theorem State.modCtl_me : (s.modCtl c f).me = s.me := rfl
@[simp] theorem State.modCtl_others : (s.modCtl c f).others = s.others := rfl
@[simp] theorem State.modCtl_time : (s.modCtl c f).time = s.time := rfl
@[simp] theorem State.modCtl_bootst : (s.modCtl c f).bootst = s.bootst := rfl
@[simp] theorem State.modCtl_flash : (s.modCtl c f).flash = s.flash := rfl
@[simp] theorem State.modCtl_clus : (s.modCtl c f).clus = s.clus := rfl
@[simp] theorem State.modCtl_roles : (s.modCtl c f).roles = s.roles := rfl
@[simp] theorem State.modCtl_scol : (s.modCtl c f).scol = s.scol := rfl
@[simp] theorem State.modCtl_tabVersion : (s.modCtl c f).tabVersion = s.tabVersion := rfl
@[simp] theorem State.modCtl_bhs : (s.modCtl c f).bhs = s.bhs := rfl
@[simp] theorem State.modCtl_slots : (s.modCtl c f).slots = s.slots := rfl
@[simp] theorem State.modCtl_subs : (s.modCtl c f).subs = s.subs := rfl
@[simp] theorem State.modCtl_hmReq : (s.modCtl c f).hmReq = s.hmReq := rfl
@[simp] theorem State.modCtl_pfen : (s.modCtl c f).pfen = s.pfen := rfl
@[simp] theorem State.modCtl_fwlock : (s.modCtl c f).fwlock = s.fwlock := rfl
@[simp] theorem State.modCtl_fwbase : (s.modCtl c f).fwbase = s.fwbase := rfl
@[simp] theorem State.modCtl_fwsize : (s.modCtl c f).fwsize = s.fwsize := rfl
@[simp] theorem State.modCtl_fwdrop : (s.modCtl c f).fwdrop = s.fwdrop := rfl
@[simp] theorem State.modCtl_monImage : (s.modCtl c f).monImage = s.monImage := rfl
@[simp] theorem State.modCtl_policies : (s.modCtl c f).policies = s.policies := rfl
@[simp] theorem State.modCtl_slid : (s.modCtl c f).slid = s.slid := rfl
@[simp] theorem State.modCtl_mem : (s.modCtl c f).mem = s.mem := rfl
@[simp] theorem State.modCtl_bad : (s.modCtl c f).bad = s.bad := rfl
@[simp] theorem State.modCtl_full : (s.modCtl c f).full = s.full := rfl
@[simp] theorem State.modCtl_tlb : (s.modCtl c f).tlb = s.tlb := rfl
@[simp] theorem State.modCtl_recent : (s.modCtl c f).recent = s.recent := rfl
@[simp] theorem State.modCtl_raced : (s.modCtl c f).raced = s.raced := rfl
@[simp] theorem State.modCtl_accums : (s.modCtl c f).accums = s.accums := rfl
@[simp] theorem State.modCtl_parts : (s.modCtl c f).parts = s.parts := rfl
@[simp] theorem State.modCtl_launches : (s.modCtl c f).launches = s.launches := rfl
@[simp] theorem State.modCtl_splits : (s.modCtl c f).splits = s.splits := rfl
@[simp] theorem State.modCtl_calls : (s.modCtl c f).calls = s.calls := rfl
@[simp] theorem State.modCtl_served : (s.modCtl c f).served = s.served := rfl
@[simp] theorem State.modCtl_rbe : (s.modCtl c f).rbe = s.rbe := rfl
@[simp] theorem State.modCtl_binds : (s.modCtl c f).binds = s.binds := rfl
@[simp] theorem State.modCtl_rsids : (s.modCtl c f).rsids = s.rsids := rfl
@[simp] theorem State.modCtl_raysets : (s.modCtl c f).raysets = s.raysets := rfl
@[simp] theorem State.modCtl_laneRes : (s.modCtl c f).laneRes = s.laneRes := rfl
@[simp] theorem State.modCtl_colls : (s.modCtl c f).colls = s.colls := rfl
@[simp] theorem State.modCtl_outs : (s.modCtl c f).outs = s.outs := rfl
@[simp] theorem State.modCtl_breached : (s.modCtl c f).breached = s.breached := rfl
end

section
variable (s : State) (u : Nat) (f : Strand → Strand)
@[simp] theorem State.modStrand_agenda : (s.modStrand u f).agenda = s.agenda := by unfold State.modStrand; split <;> rfl
@[simp] theorem State.modStrand_ev : (s.modStrand u f).ev = s.ev := by unfold State.modStrand; split <;> rfl
@[simp] theorem State.modStrand_tick : (s.modStrand u f).tick = s.tick := by unfold State.modStrand; split <;> rfl
@[simp] theorem State.modStrand_draw : (s.modStrand u f).draw = s.draw := by unfold State.modStrand; split <;> rfl
@[simp] theorem State.modStrand_nextId : (s.modStrand u f).nextId = s.nextId := by unfold State.modStrand; split <;> rfl
@[simp] theorem State.modStrand_time : (s.modStrand u f).time = s.time := by unfold State.modStrand; split <;> rfl
@[simp] theorem State.modStrand_bootst : (s.modStrand u f).bootst = s.bootst := by unfold State.modStrand; split <;> rfl
@[simp] theorem State.modStrand_flash : (s.modStrand u f).flash = s.flash := by unfold State.modStrand; split <;> rfl
@[simp] theorem State.modStrand_clus : (s.modStrand u f).clus = s.clus := by unfold State.modStrand; split <;> rfl
@[simp] theorem State.modStrand_roles : (s.modStrand u f).roles = s.roles := by unfold State.modStrand; split <;> rfl
@[simp] theorem State.modStrand_scol : (s.modStrand u f).scol = s.scol := by unfold State.modStrand; split <;> rfl
@[simp] theorem State.modStrand_tabVersion : (s.modStrand u f).tabVersion = s.tabVersion := by unfold State.modStrand; split <;> rfl
@[simp] theorem State.modStrand_bhs : (s.modStrand u f).bhs = s.bhs := by unfold State.modStrand; split <;> rfl
@[simp] theorem State.modStrand_cores : (s.modStrand u f).cores = s.cores := by unfold State.modStrand; split <;> rfl
@[simp] theorem State.modStrand_slots : (s.modStrand u f).slots = s.slots := by unfold State.modStrand; split <;> rfl
@[simp] theorem State.modStrand_subs : (s.modStrand u f).subs = s.subs := by unfold State.modStrand; split <;> rfl
@[simp] theorem State.modStrand_hmReq : (s.modStrand u f).hmReq = s.hmReq := by unfold State.modStrand; split <;> rfl
@[simp] theorem State.modStrand_pfen : (s.modStrand u f).pfen = s.pfen := by unfold State.modStrand; split <;> rfl
@[simp] theorem State.modStrand_fwlock : (s.modStrand u f).fwlock = s.fwlock := by unfold State.modStrand; split <;> rfl
@[simp] theorem State.modStrand_fwbase : (s.modStrand u f).fwbase = s.fwbase := by unfold State.modStrand; split <;> rfl
@[simp] theorem State.modStrand_fwsize : (s.modStrand u f).fwsize = s.fwsize := by unfold State.modStrand; split <;> rfl
@[simp] theorem State.modStrand_fwdrop : (s.modStrand u f).fwdrop = s.fwdrop := by unfold State.modStrand; split <;> rfl
@[simp] theorem State.modStrand_monImage : (s.modStrand u f).monImage = s.monImage := by unfold State.modStrand; split <;> rfl
@[simp] theorem State.modStrand_policies : (s.modStrand u f).policies = s.policies := by unfold State.modStrand; split <;> rfl
@[simp] theorem State.modStrand_slid : (s.modStrand u f).slid = s.slid := by unfold State.modStrand; split <;> rfl
@[simp] theorem State.modStrand_mem : (s.modStrand u f).mem = s.mem := by unfold State.modStrand; split <;> rfl
@[simp] theorem State.modStrand_bad : (s.modStrand u f).bad = s.bad := by unfold State.modStrand; split <;> rfl
@[simp] theorem State.modStrand_full : (s.modStrand u f).full = s.full := by unfold State.modStrand; split <;> rfl
@[simp] theorem State.modStrand_tlb : (s.modStrand u f).tlb = s.tlb := by unfold State.modStrand; split <;> rfl
@[simp] theorem State.modStrand_recent : (s.modStrand u f).recent = s.recent := by unfold State.modStrand; split <;> rfl
@[simp] theorem State.modStrand_raced : (s.modStrand u f).raced = s.raced := by unfold State.modStrand; split <;> rfl
@[simp] theorem State.modStrand_accums : (s.modStrand u f).accums = s.accums := by unfold State.modStrand; split <;> rfl
@[simp] theorem State.modStrand_parts : (s.modStrand u f).parts = s.parts := by unfold State.modStrand; split <;> rfl
@[simp] theorem State.modStrand_launches : (s.modStrand u f).launches = s.launches := by unfold State.modStrand; split <;> rfl
@[simp] theorem State.modStrand_splits : (s.modStrand u f).splits = s.splits := by unfold State.modStrand; split <;> rfl
@[simp] theorem State.modStrand_calls : (s.modStrand u f).calls = s.calls := by unfold State.modStrand; split <;> rfl
@[simp] theorem State.modStrand_served : (s.modStrand u f).served = s.served := by unfold State.modStrand; split <;> rfl
@[simp] theorem State.modStrand_rbe : (s.modStrand u f).rbe = s.rbe := by unfold State.modStrand; split <;> rfl
@[simp] theorem State.modStrand_binds : (s.modStrand u f).binds = s.binds := by unfold State.modStrand; split <;> rfl
@[simp] theorem State.modStrand_rsids : (s.modStrand u f).rsids = s.rsids := by unfold State.modStrand; split <;> rfl
@[simp] theorem State.modStrand_raysets : (s.modStrand u f).raysets = s.raysets := by unfold State.modStrand; split <;> rfl
@[simp] theorem State.modStrand_laneRes : (s.modStrand u f).laneRes = s.laneRes := by unfold State.modStrand; split <;> rfl
@[simp] theorem State.modStrand_colls : (s.modStrand u f).colls = s.colls := by unfold State.modStrand; split <;> rfl
@[simp] theorem State.modStrand_outs : (s.modStrand u f).outs = s.outs := by unfold State.modStrand; split <;> rfl
@[simp] theorem State.modStrand_breached : (s.modStrand u f).breached = s.breached := by unfold State.modStrand; split <;> rfl
end

section
variable (s : State) (f : Strand → Strand)
@[simp] theorem State.mapStrands_agenda : (s.mapStrands f).agenda = s.agenda := rfl
@[simp] theorem State.mapStrands_ev : (s.mapStrands f).ev = s.ev := rfl
@[simp] theorem State.mapStrands_tick : (s.mapStrands f).tick = s.tick := rfl
@[simp] theorem State.mapStrands_draw : (s.mapStrands f).draw = s.draw := rfl
@[simp] theorem State.mapStrands_nextId : (s.mapStrands f).nextId = s.nextId := rfl
@[simp] theorem State.mapStrands_time : (s.mapStrands f).time = s.time := rfl
@[simp] theorem State.mapStrands_bootst : (s.mapStrands f).bootst = s.bootst := rfl
@[simp] theorem State.mapStrands_flash : (s.mapStrands f).flash = s.flash := rfl
@[simp] theorem State.mapStrands_clus : (s.mapStrands f).clus = s.clus := rfl
@[simp] theorem State.mapStrands_roles : (s.mapStrands f).roles = s.roles := rfl
@[simp] theorem State.mapStrands_scol : (s.mapStrands f).scol = s.scol := rfl
@[simp] theorem State.mapStrands_tabVersion : (s.mapStrands f).tabVersion = s.tabVersion := rfl
@[simp] theorem State.mapStrands_bhs : (s.mapStrands f).bhs = s.bhs := rfl
@[simp] theorem State.mapStrands_cores : (s.mapStrands f).cores = s.cores := rfl
@[simp] theorem State.mapStrands_slots : (s.mapStrands f).slots = s.slots := rfl
@[simp] theorem State.mapStrands_subs : (s.mapStrands f).subs = s.subs := rfl
@[simp] theorem State.mapStrands_hmReq : (s.mapStrands f).hmReq = s.hmReq := rfl
@[simp] theorem State.mapStrands_pfen : (s.mapStrands f).pfen = s.pfen := rfl
@[simp] theorem State.mapStrands_fwlock : (s.mapStrands f).fwlock = s.fwlock := rfl
@[simp] theorem State.mapStrands_fwbase : (s.mapStrands f).fwbase = s.fwbase := rfl
@[simp] theorem State.mapStrands_fwsize : (s.mapStrands f).fwsize = s.fwsize := rfl
@[simp] theorem State.mapStrands_fwdrop : (s.mapStrands f).fwdrop = s.fwdrop := rfl
@[simp] theorem State.mapStrands_monImage : (s.mapStrands f).monImage = s.monImage := rfl
@[simp] theorem State.mapStrands_policies : (s.mapStrands f).policies = s.policies := rfl
@[simp] theorem State.mapStrands_slid : (s.mapStrands f).slid = s.slid := rfl
@[simp] theorem State.mapStrands_mem : (s.mapStrands f).mem = s.mem := rfl
@[simp] theorem State.mapStrands_bad : (s.mapStrands f).bad = s.bad := rfl
@[simp] theorem State.mapStrands_full : (s.mapStrands f).full = s.full := rfl
@[simp] theorem State.mapStrands_tlb : (s.mapStrands f).tlb = s.tlb := rfl
@[simp] theorem State.mapStrands_recent : (s.mapStrands f).recent = s.recent := rfl
@[simp] theorem State.mapStrands_raced : (s.mapStrands f).raced = s.raced := rfl
@[simp] theorem State.mapStrands_accums : (s.mapStrands f).accums = s.accums := rfl
@[simp] theorem State.mapStrands_parts : (s.mapStrands f).parts = s.parts := rfl
@[simp] theorem State.mapStrands_launches : (s.mapStrands f).launches = s.launches := rfl
@[simp] theorem State.mapStrands_splits : (s.mapStrands f).splits = s.splits := rfl
@[simp] theorem State.mapStrands_calls : (s.mapStrands f).calls = s.calls := rfl
@[simp] theorem State.mapStrands_served : (s.mapStrands f).served = s.served := rfl
@[simp] theorem State.mapStrands_rbe : (s.mapStrands f).rbe = s.rbe := rfl
@[simp] theorem State.mapStrands_binds : (s.mapStrands f).binds = s.binds := rfl
@[simp] theorem State.mapStrands_rsids : (s.mapStrands f).rsids = s.rsids := rfl
@[simp] theorem State.mapStrands_raysets : (s.mapStrands f).raysets = s.raysets := rfl
@[simp] theorem State.mapStrands_laneRes : (s.mapStrands f).laneRes = s.laneRes := rfl
@[simp] theorem State.mapStrands_colls : (s.mapStrands f).colls = s.colls := rfl
@[simp] theorem State.mapStrands_outs : (s.mapStrands f).outs = s.outs := rfl
@[simp] theorem State.mapStrands_breached : (s.mapStrands f).breached = s.breached := rfl
end

section
variable (s : State) (g : Nat)
@[simp] theorem State.setFull_agenda : (s.setFull g).agenda = s.agenda := by unfold State.setFull; split <;> rfl
@[simp] theorem State.setFull_ev : (s.setFull g).ev = s.ev := by unfold State.setFull; split <;> rfl
@[simp] theorem State.setFull_tick : (s.setFull g).tick = s.tick := by unfold State.setFull; split <;> rfl
@[simp] theorem State.setFull_draw : (s.setFull g).draw = s.draw := by unfold State.setFull; split <;> rfl
@[simp] theorem State.setFull_nextId : (s.setFull g).nextId = s.nextId := by unfold State.setFull; split <;> rfl
@[simp] theorem State.setFull_me : (s.setFull g).me = s.me := by unfold State.setFull; split <;> rfl
@[simp] theorem State.setFull_others : (s.setFull g).others = s.others := by unfold State.setFull; split <;> rfl
@[simp] theorem State.setFull_time : (s.setFull g).time = s.time := by unfold State.setFull; split <;> rfl
@[simp] theorem State.setFull_bootst : (s.setFull g).bootst = s.bootst := by unfold State.setFull; split <;> rfl
@[simp] theorem State.setFull_flash : (s.setFull g).flash = s.flash := by unfold State.setFull; split <;> rfl
@[simp] theorem State.setFull_clus : (s.setFull g).clus = s.clus := by unfold State.setFull; split <;> rfl
@[simp] theorem State.setFull_roles : (s.setFull g).roles = s.roles := by unfold State.setFull; split <;> rfl
@[simp] theorem State.setFull_scol : (s.setFull g).scol = s.scol := by unfold State.setFull; split <;> rfl
@[simp] theorem State.setFull_tabVersion : (s.setFull g).tabVersion = s.tabVersion := by unfold State.setFull; split <;> rfl
@[simp] theorem State.setFull_bhs : (s.setFull g).bhs = s.bhs := by unfold State.setFull; split <;> rfl
@[simp] theorem State.setFull_cores : (s.setFull g).cores = s.cores := by unfold State.setFull; split <;> rfl
@[simp] theorem State.setFull_slots : (s.setFull g).slots = s.slots := by unfold State.setFull; split <;> rfl
@[simp] theorem State.setFull_subs : (s.setFull g).subs = s.subs := by unfold State.setFull; split <;> rfl
@[simp] theorem State.setFull_hmReq : (s.setFull g).hmReq = s.hmReq := by unfold State.setFull; split <;> rfl
@[simp] theorem State.setFull_pfen : (s.setFull g).pfen = s.pfen := by unfold State.setFull; split <;> rfl
@[simp] theorem State.setFull_fwlock : (s.setFull g).fwlock = s.fwlock := by unfold State.setFull; split <;> rfl
@[simp] theorem State.setFull_fwbase : (s.setFull g).fwbase = s.fwbase := by unfold State.setFull; split <;> rfl
@[simp] theorem State.setFull_fwsize : (s.setFull g).fwsize = s.fwsize := by unfold State.setFull; split <;> rfl
@[simp] theorem State.setFull_fwdrop : (s.setFull g).fwdrop = s.fwdrop := by unfold State.setFull; split <;> rfl
@[simp] theorem State.setFull_monImage : (s.setFull g).monImage = s.monImage := by unfold State.setFull; split <;> rfl
@[simp] theorem State.setFull_policies : (s.setFull g).policies = s.policies := by unfold State.setFull; split <;> rfl
@[simp] theorem State.setFull_slid : (s.setFull g).slid = s.slid := by unfold State.setFull; split <;> rfl
@[simp] theorem State.setFull_mem : (s.setFull g).mem = s.mem := by unfold State.setFull; split <;> rfl
@[simp] theorem State.setFull_bad : (s.setFull g).bad = s.bad := by unfold State.setFull; split <;> rfl
@[simp] theorem State.setFull_tlb : (s.setFull g).tlb = s.tlb := by unfold State.setFull; split <;> rfl
@[simp] theorem State.setFull_recent : (s.setFull g).recent = s.recent := by unfold State.setFull; split <;> rfl
@[simp] theorem State.setFull_raced : (s.setFull g).raced = s.raced := by unfold State.setFull; split <;> rfl
@[simp] theorem State.setFull_accums : (s.setFull g).accums = s.accums := by unfold State.setFull; split <;> rfl
@[simp] theorem State.setFull_parts : (s.setFull g).parts = s.parts := by unfold State.setFull; split <;> rfl
@[simp] theorem State.setFull_launches : (s.setFull g).launches = s.launches := by unfold State.setFull; split <;> rfl
@[simp] theorem State.setFull_splits : (s.setFull g).splits = s.splits := by unfold State.setFull; split <;> rfl
@[simp] theorem State.setFull_calls : (s.setFull g).calls = s.calls := by unfold State.setFull; split <;> rfl
@[simp] theorem State.setFull_served : (s.setFull g).served = s.served := by unfold State.setFull; split <;> rfl
@[simp] theorem State.setFull_rbe : (s.setFull g).rbe = s.rbe := by unfold State.setFull; split <;> rfl
@[simp] theorem State.setFull_binds : (s.setFull g).binds = s.binds := by unfold State.setFull; split <;> rfl
@[simp] theorem State.setFull_rsids : (s.setFull g).rsids = s.rsids := by unfold State.setFull; split <;> rfl
@[simp] theorem State.setFull_raysets : (s.setFull g).raysets = s.raysets := by unfold State.setFull; split <;> rfl
@[simp] theorem State.setFull_laneRes : (s.setFull g).laneRes = s.laneRes := by unfold State.setFull; split <;> rfl
@[simp] theorem State.setFull_colls : (s.setFull g).colls = s.colls := by unfold State.setFull; split <;> rfl
@[simp] theorem State.setFull_outs : (s.setFull g).outs = s.outs := by unfold State.setFull; split <;> rfl
@[simp] theorem State.setFull_breached : (s.setFull g).breached = s.breached := by unfold State.setFull; split <;> rfl
end

section
variable (s : State) (g : Nat)
@[simp] theorem State.clrFull_agenda : (s.clrFull g).agenda = s.agenda := rfl
@[simp] theorem State.clrFull_ev : (s.clrFull g).ev = s.ev := rfl
@[simp] theorem State.clrFull_tick : (s.clrFull g).tick = s.tick := rfl
@[simp] theorem State.clrFull_draw : (s.clrFull g).draw = s.draw := rfl
@[simp] theorem State.clrFull_nextId : (s.clrFull g).nextId = s.nextId := rfl
@[simp] theorem State.clrFull_me : (s.clrFull g).me = s.me := rfl
@[simp] theorem State.clrFull_others : (s.clrFull g).others = s.others := rfl
@[simp] theorem State.clrFull_time : (s.clrFull g).time = s.time := rfl
@[simp] theorem State.clrFull_bootst : (s.clrFull g).bootst = s.bootst := rfl
@[simp] theorem State.clrFull_flash : (s.clrFull g).flash = s.flash := rfl
@[simp] theorem State.clrFull_clus : (s.clrFull g).clus = s.clus := rfl
@[simp] theorem State.clrFull_roles : (s.clrFull g).roles = s.roles := rfl
@[simp] theorem State.clrFull_scol : (s.clrFull g).scol = s.scol := rfl
@[simp] theorem State.clrFull_tabVersion : (s.clrFull g).tabVersion = s.tabVersion := rfl
@[simp] theorem State.clrFull_bhs : (s.clrFull g).bhs = s.bhs := rfl
@[simp] theorem State.clrFull_cores : (s.clrFull g).cores = s.cores := rfl
@[simp] theorem State.clrFull_slots : (s.clrFull g).slots = s.slots := rfl
@[simp] theorem State.clrFull_subs : (s.clrFull g).subs = s.subs := rfl
@[simp] theorem State.clrFull_hmReq : (s.clrFull g).hmReq = s.hmReq := rfl
@[simp] theorem State.clrFull_pfen : (s.clrFull g).pfen = s.pfen := rfl
@[simp] theorem State.clrFull_fwlock : (s.clrFull g).fwlock = s.fwlock := rfl
@[simp] theorem State.clrFull_fwbase : (s.clrFull g).fwbase = s.fwbase := rfl
@[simp] theorem State.clrFull_fwsize : (s.clrFull g).fwsize = s.fwsize := rfl
@[simp] theorem State.clrFull_fwdrop : (s.clrFull g).fwdrop = s.fwdrop := rfl
@[simp] theorem State.clrFull_monImage : (s.clrFull g).monImage = s.monImage := rfl
@[simp] theorem State.clrFull_policies : (s.clrFull g).policies = s.policies := rfl
@[simp] theorem State.clrFull_slid : (s.clrFull g).slid = s.slid := rfl
@[simp] theorem State.clrFull_mem : (s.clrFull g).mem = s.mem := rfl
@[simp] theorem State.clrFull_bad : (s.clrFull g).bad = s.bad := rfl
@[simp] theorem State.clrFull_tlb : (s.clrFull g).tlb = s.tlb := rfl
@[simp] theorem State.clrFull_recent : (s.clrFull g).recent = s.recent := rfl
@[simp] theorem State.clrFull_raced : (s.clrFull g).raced = s.raced := rfl
@[simp] theorem State.clrFull_accums : (s.clrFull g).accums = s.accums := rfl
@[simp] theorem State.clrFull_parts : (s.clrFull g).parts = s.parts := rfl
@[simp] theorem State.clrFull_launches : (s.clrFull g).launches = s.launches := rfl
@[simp] theorem State.clrFull_splits : (s.clrFull g).splits = s.splits := rfl
@[simp] theorem State.clrFull_calls : (s.clrFull g).calls = s.calls := rfl
@[simp] theorem State.clrFull_served : (s.clrFull g).served = s.served := rfl
@[simp] theorem State.clrFull_rbe : (s.clrFull g).rbe = s.rbe := rfl
@[simp] theorem State.clrFull_binds : (s.clrFull g).binds = s.binds := rfl
@[simp] theorem State.clrFull_rsids : (s.clrFull g).rsids = s.rsids := rfl
@[simp] theorem State.clrFull_raysets : (s.clrFull g).raysets = s.raysets := rfl
@[simp] theorem State.clrFull_laneRes : (s.clrFull g).laneRes = s.laneRes := rfl
@[simp] theorem State.clrFull_colls : (s.clrFull g).colls = s.colls := rfl
@[simp] theorem State.clrFull_outs : (s.clrFull g).outs = s.outs := rfl
@[simp] theorem State.clrFull_breached : (s.clrFull g).breached = s.breached := rfl
end

section
variable (s : State) (a n : Nat)
@[simp] theorem State.cleanBad_agenda : (s.cleanBad a n).agenda = s.agenda := rfl
@[simp] theorem State.cleanBad_ev : (s.cleanBad a n).ev = s.ev := rfl
@[simp] theorem State.cleanBad_tick : (s.cleanBad a n).tick = s.tick := rfl
@[simp] theorem State.cleanBad_draw : (s.cleanBad a n).draw = s.draw := rfl
@[simp] theorem State.cleanBad_nextId : (s.cleanBad a n).nextId = s.nextId := rfl
@[simp] theorem State.cleanBad_me : (s.cleanBad a n).me = s.me := rfl
@[simp] theorem State.cleanBad_others : (s.cleanBad a n).others = s.others := rfl
@[simp] theorem State.cleanBad_time : (s.cleanBad a n).time = s.time := rfl
@[simp] theorem State.cleanBad_bootst : (s.cleanBad a n).bootst = s.bootst := rfl
@[simp] theorem State.cleanBad_flash : (s.cleanBad a n).flash = s.flash := rfl
@[simp] theorem State.cleanBad_clus : (s.cleanBad a n).clus = s.clus := rfl
@[simp] theorem State.cleanBad_roles : (s.cleanBad a n).roles = s.roles := rfl
@[simp] theorem State.cleanBad_scol : (s.cleanBad a n).scol = s.scol := rfl
@[simp] theorem State.cleanBad_tabVersion : (s.cleanBad a n).tabVersion = s.tabVersion := rfl
@[simp] theorem State.cleanBad_bhs : (s.cleanBad a n).bhs = s.bhs := rfl
@[simp] theorem State.cleanBad_cores : (s.cleanBad a n).cores = s.cores := rfl
@[simp] theorem State.cleanBad_slots : (s.cleanBad a n).slots = s.slots := rfl
@[simp] theorem State.cleanBad_subs : (s.cleanBad a n).subs = s.subs := rfl
@[simp] theorem State.cleanBad_hmReq : (s.cleanBad a n).hmReq = s.hmReq := rfl
@[simp] theorem State.cleanBad_pfen : (s.cleanBad a n).pfen = s.pfen := rfl
@[simp] theorem State.cleanBad_fwlock : (s.cleanBad a n).fwlock = s.fwlock := rfl
@[simp] theorem State.cleanBad_fwbase : (s.cleanBad a n).fwbase = s.fwbase := rfl
@[simp] theorem State.cleanBad_fwsize : (s.cleanBad a n).fwsize = s.fwsize := rfl
@[simp] theorem State.cleanBad_fwdrop : (s.cleanBad a n).fwdrop = s.fwdrop := rfl
@[simp] theorem State.cleanBad_monImage : (s.cleanBad a n).monImage = s.monImage := rfl
@[simp] theorem State.cleanBad_policies : (s.cleanBad a n).policies = s.policies := rfl
@[simp] theorem State.cleanBad_slid : (s.cleanBad a n).slid = s.slid := rfl
@[simp] theorem State.cleanBad_mem : (s.cleanBad a n).mem = s.mem := rfl
@[simp] theorem State.cleanBad_full : (s.cleanBad a n).full = s.full := rfl
@[simp] theorem State.cleanBad_tlb : (s.cleanBad a n).tlb = s.tlb := rfl
@[simp] theorem State.cleanBad_recent : (s.cleanBad a n).recent = s.recent := rfl
@[simp] theorem State.cleanBad_raced : (s.cleanBad a n).raced = s.raced := rfl
@[simp] theorem State.cleanBad_accums : (s.cleanBad a n).accums = s.accums := rfl
@[simp] theorem State.cleanBad_parts : (s.cleanBad a n).parts = s.parts := rfl
@[simp] theorem State.cleanBad_launches : (s.cleanBad a n).launches = s.launches := rfl
@[simp] theorem State.cleanBad_splits : (s.cleanBad a n).splits = s.splits := rfl
@[simp] theorem State.cleanBad_calls : (s.cleanBad a n).calls = s.calls := rfl
@[simp] theorem State.cleanBad_served : (s.cleanBad a n).served = s.served := rfl
@[simp] theorem State.cleanBad_rbe : (s.cleanBad a n).rbe = s.rbe := rfl
@[simp] theorem State.cleanBad_binds : (s.cleanBad a n).binds = s.binds := rfl
@[simp] theorem State.cleanBad_rsids : (s.cleanBad a n).rsids = s.rsids := rfl
@[simp] theorem State.cleanBad_raysets : (s.cleanBad a n).raysets = s.raysets := rfl
@[simp] theorem State.cleanBad_laneRes : (s.cleanBad a n).laneRes = s.laneRes := rfl
@[simp] theorem State.cleanBad_colls : (s.cleanBad a n).colls = s.colls := rfl
@[simp] theorem State.cleanBad_outs : (s.cleanBad a n).outs = s.outs := rfl
@[simp] theorem State.cleanBad_breached : (s.cleanBad a n).breached = s.breached := rfl
end

section
variable (s : State) (f : Recent → List Viewer)
@[simp] theorem State.reveal_agenda : (s.reveal f).agenda = s.agenda := rfl
@[simp] theorem State.reveal_ev : (s.reveal f).ev = s.ev := rfl
@[simp] theorem State.reveal_tick : (s.reveal f).tick = s.tick := rfl
@[simp] theorem State.reveal_draw : (s.reveal f).draw = s.draw := rfl
@[simp] theorem State.reveal_nextId : (s.reveal f).nextId = s.nextId := rfl
@[simp] theorem State.reveal_me : (s.reveal f).me = s.me := rfl
@[simp] theorem State.reveal_others : (s.reveal f).others = s.others := rfl
@[simp] theorem State.reveal_time : (s.reveal f).time = s.time := rfl
@[simp] theorem State.reveal_bootst : (s.reveal f).bootst = s.bootst := rfl
@[simp] theorem State.reveal_flash : (s.reveal f).flash = s.flash := rfl
@[simp] theorem State.reveal_clus : (s.reveal f).clus = s.clus := rfl
@[simp] theorem State.reveal_roles : (s.reveal f).roles = s.roles := rfl
@[simp] theorem State.reveal_scol : (s.reveal f).scol = s.scol := rfl
@[simp] theorem State.reveal_tabVersion : (s.reveal f).tabVersion = s.tabVersion := rfl
@[simp] theorem State.reveal_bhs : (s.reveal f).bhs = s.bhs := rfl
@[simp] theorem State.reveal_cores : (s.reveal f).cores = s.cores := rfl
@[simp] theorem State.reveal_slots : (s.reveal f).slots = s.slots := rfl
@[simp] theorem State.reveal_subs : (s.reveal f).subs = s.subs := rfl
@[simp] theorem State.reveal_hmReq : (s.reveal f).hmReq = s.hmReq := rfl
@[simp] theorem State.reveal_pfen : (s.reveal f).pfen = s.pfen := rfl
@[simp] theorem State.reveal_fwlock : (s.reveal f).fwlock = s.fwlock := rfl
@[simp] theorem State.reveal_fwbase : (s.reveal f).fwbase = s.fwbase := rfl
@[simp] theorem State.reveal_fwsize : (s.reveal f).fwsize = s.fwsize := rfl
@[simp] theorem State.reveal_fwdrop : (s.reveal f).fwdrop = s.fwdrop := rfl
@[simp] theorem State.reveal_monImage : (s.reveal f).monImage = s.monImage := rfl
@[simp] theorem State.reveal_policies : (s.reveal f).policies = s.policies := rfl
@[simp] theorem State.reveal_slid : (s.reveal f).slid = s.slid := rfl
@[simp] theorem State.reveal_mem : (s.reveal f).mem = s.mem := rfl
@[simp] theorem State.reveal_bad : (s.reveal f).bad = s.bad := rfl
@[simp] theorem State.reveal_full : (s.reveal f).full = s.full := rfl
@[simp] theorem State.reveal_tlb : (s.reveal f).tlb = s.tlb := rfl
@[simp] theorem State.reveal_raced : (s.reveal f).raced = s.raced := rfl
@[simp] theorem State.reveal_accums : (s.reveal f).accums = s.accums := rfl
@[simp] theorem State.reveal_parts : (s.reveal f).parts = s.parts := rfl
@[simp] theorem State.reveal_launches : (s.reveal f).launches = s.launches := rfl
@[simp] theorem State.reveal_splits : (s.reveal f).splits = s.splits := rfl
@[simp] theorem State.reveal_calls : (s.reveal f).calls = s.calls := rfl
@[simp] theorem State.reveal_served : (s.reveal f).served = s.served := rfl
@[simp] theorem State.reveal_rbe : (s.reveal f).rbe = s.rbe := rfl
@[simp] theorem State.reveal_binds : (s.reveal f).binds = s.binds := rfl
@[simp] theorem State.reveal_rsids : (s.reveal f).rsids = s.rsids := rfl
@[simp] theorem State.reveal_raysets : (s.reveal f).raysets = s.raysets := rfl
@[simp] theorem State.reveal_laneRes : (s.reveal f).laneRes = s.laneRes := rfl
@[simp] theorem State.reveal_colls : (s.reveal f).colls = s.colls := rfl
@[simp] theorem State.reveal_outs : (s.reveal f).outs = s.outs := rfl
@[simp] theorem State.reveal_breached : (s.reveal f).breached = s.breached := rfl
end

section
variable (s : State) (a n : Nat)
@[simp] theorem State.cover_agenda : (s.cover a n).agenda = s.agenda := rfl
@[simp] theorem State.cover_ev : (s.cover a n).ev = s.ev := rfl
@[simp] theorem State.cover_tick : (s.cover a n).tick = s.tick := rfl
@[simp] theorem State.cover_draw : (s.cover a n).draw = s.draw := rfl
@[simp] theorem State.cover_nextId : (s.cover a n).nextId = s.nextId := rfl
@[simp] theorem State.cover_me : (s.cover a n).me = s.me := rfl
@[simp] theorem State.cover_others : (s.cover a n).others = s.others := rfl
@[simp] theorem State.cover_time : (s.cover a n).time = s.time := rfl
@[simp] theorem State.cover_bootst : (s.cover a n).bootst = s.bootst := rfl
@[simp] theorem State.cover_flash : (s.cover a n).flash = s.flash := rfl
@[simp] theorem State.cover_clus : (s.cover a n).clus = s.clus := rfl
@[simp] theorem State.cover_roles : (s.cover a n).roles = s.roles := rfl
@[simp] theorem State.cover_scol : (s.cover a n).scol = s.scol := rfl
@[simp] theorem State.cover_tabVersion : (s.cover a n).tabVersion = s.tabVersion := rfl
@[simp] theorem State.cover_bhs : (s.cover a n).bhs = s.bhs := rfl
@[simp] theorem State.cover_cores : (s.cover a n).cores = s.cores := rfl
@[simp] theorem State.cover_slots : (s.cover a n).slots = s.slots := rfl
@[simp] theorem State.cover_subs : (s.cover a n).subs = s.subs := rfl
@[simp] theorem State.cover_hmReq : (s.cover a n).hmReq = s.hmReq := rfl
@[simp] theorem State.cover_pfen : (s.cover a n).pfen = s.pfen := rfl
@[simp] theorem State.cover_fwlock : (s.cover a n).fwlock = s.fwlock := rfl
@[simp] theorem State.cover_fwbase : (s.cover a n).fwbase = s.fwbase := rfl
@[simp] theorem State.cover_fwsize : (s.cover a n).fwsize = s.fwsize := rfl
@[simp] theorem State.cover_fwdrop : (s.cover a n).fwdrop = s.fwdrop := rfl
@[simp] theorem State.cover_monImage : (s.cover a n).monImage = s.monImage := rfl
@[simp] theorem State.cover_policies : (s.cover a n).policies = s.policies := rfl
@[simp] theorem State.cover_slid : (s.cover a n).slid = s.slid := rfl
@[simp] theorem State.cover_mem : (s.cover a n).mem = s.mem := rfl
@[simp] theorem State.cover_bad : (s.cover a n).bad = s.bad := rfl
@[simp] theorem State.cover_full : (s.cover a n).full = s.full := rfl
@[simp] theorem State.cover_tlb : (s.cover a n).tlb = s.tlb := rfl
@[simp] theorem State.cover_raced : (s.cover a n).raced = s.raced := rfl
@[simp] theorem State.cover_accums : (s.cover a n).accums = s.accums := rfl
@[simp] theorem State.cover_parts : (s.cover a n).parts = s.parts := rfl
@[simp] theorem State.cover_launches : (s.cover a n).launches = s.launches := rfl
@[simp] theorem State.cover_splits : (s.cover a n).splits = s.splits := rfl
@[simp] theorem State.cover_calls : (s.cover a n).calls = s.calls := rfl
@[simp] theorem State.cover_served : (s.cover a n).served = s.served := rfl
@[simp] theorem State.cover_rbe : (s.cover a n).rbe = s.rbe := rfl
@[simp] theorem State.cover_binds : (s.cover a n).binds = s.binds := rfl
@[simp] theorem State.cover_rsids : (s.cover a n).rsids = s.rsids := rfl
@[simp] theorem State.cover_raysets : (s.cover a n).raysets = s.raysets := rfl
@[simp] theorem State.cover_laneRes : (s.cover a n).laneRes = s.laneRes := rfl
@[simp] theorem State.cover_colls : (s.cover a n).colls = s.colls := rfl
@[simp] theorem State.cover_outs : (s.cover a n).outs = s.outs := rfl
@[simp] theorem State.cover_breached : (s.cover a n).breached = s.breached := rfl
end

section
variable (s : State) (a n w : Nat) (b : Bool)
@[simp] theorem State.race_agenda : (s.race a n w b).agenda = s.agenda := rfl
@[simp] theorem State.race_ev : (s.race a n w b).ev = s.ev := rfl
@[simp] theorem State.race_tick : (s.race a n w b).tick = s.tick := rfl
@[simp] theorem State.race_draw : (s.race a n w b).draw = s.draw := rfl
@[simp] theorem State.race_nextId : (s.race a n w b).nextId = s.nextId := rfl
@[simp] theorem State.race_me : (s.race a n w b).me = s.me := rfl
@[simp] theorem State.race_others : (s.race a n w b).others = s.others := rfl
@[simp] theorem State.race_time : (s.race a n w b).time = s.time := rfl
@[simp] theorem State.race_bootst : (s.race a n w b).bootst = s.bootst := rfl
@[simp] theorem State.race_flash : (s.race a n w b).flash = s.flash := rfl
@[simp] theorem State.race_clus : (s.race a n w b).clus = s.clus := rfl
@[simp] theorem State.race_roles : (s.race a n w b).roles = s.roles := rfl
@[simp] theorem State.race_scol : (s.race a n w b).scol = s.scol := rfl
@[simp] theorem State.race_tabVersion : (s.race a n w b).tabVersion = s.tabVersion := rfl
@[simp] theorem State.race_bhs : (s.race a n w b).bhs = s.bhs := rfl
@[simp] theorem State.race_cores : (s.race a n w b).cores = s.cores := rfl
@[simp] theorem State.race_slots : (s.race a n w b).slots = s.slots := rfl
@[simp] theorem State.race_subs : (s.race a n w b).subs = s.subs := rfl
@[simp] theorem State.race_hmReq : (s.race a n w b).hmReq = s.hmReq := rfl
@[simp] theorem State.race_pfen : (s.race a n w b).pfen = s.pfen := rfl
@[simp] theorem State.race_fwlock : (s.race a n w b).fwlock = s.fwlock := rfl
@[simp] theorem State.race_fwbase : (s.race a n w b).fwbase = s.fwbase := rfl
@[simp] theorem State.race_fwsize : (s.race a n w b).fwsize = s.fwsize := rfl
@[simp] theorem State.race_fwdrop : (s.race a n w b).fwdrop = s.fwdrop := rfl
@[simp] theorem State.race_monImage : (s.race a n w b).monImage = s.monImage := rfl
@[simp] theorem State.race_policies : (s.race a n w b).policies = s.policies := rfl
@[simp] theorem State.race_slid : (s.race a n w b).slid = s.slid := rfl
@[simp] theorem State.race_mem : (s.race a n w b).mem = s.mem := rfl
@[simp] theorem State.race_bad : (s.race a n w b).bad = s.bad := rfl
@[simp] theorem State.race_full : (s.race a n w b).full = s.full := rfl
@[simp] theorem State.race_tlb : (s.race a n w b).tlb = s.tlb := rfl
@[simp] theorem State.race_recent : (s.race a n w b).recent = s.recent := rfl
@[simp] theorem State.race_accums : (s.race a n w b).accums = s.accums := rfl
@[simp] theorem State.race_parts : (s.race a n w b).parts = s.parts := rfl
@[simp] theorem State.race_launches : (s.race a n w b).launches = s.launches := rfl
@[simp] theorem State.race_splits : (s.race a n w b).splits = s.splits := rfl
@[simp] theorem State.race_calls : (s.race a n w b).calls = s.calls := rfl
@[simp] theorem State.race_served : (s.race a n w b).served = s.served := rfl
@[simp] theorem State.race_rbe : (s.race a n w b).rbe = s.rbe := rfl
@[simp] theorem State.race_binds : (s.race a n w b).binds = s.binds := rfl
@[simp] theorem State.race_rsids : (s.race a n w b).rsids = s.rsids := rfl
@[simp] theorem State.race_raysets : (s.race a n w b).raysets = s.raysets := rfl
@[simp] theorem State.race_laneRes : (s.race a n w b).laneRes = s.laneRes := rfl
@[simp] theorem State.race_colls : (s.race a n w b).colls = s.colls := rfl
@[simp] theorem State.race_outs : (s.race a n w b).outs = s.outs := rfl
@[simp] theorem State.race_breached : (s.race a n w b).breached = s.breached := rfl
end

section
variable (s : State) (p q : Nat → Bool) (n : Nat)
@[simp] theorem State.order_agenda : (s.order p q n).agenda = s.agenda := rfl
@[simp] theorem State.order_ev : (s.order p q n).ev = s.ev := rfl
@[simp] theorem State.order_tick : (s.order p q n).tick = s.tick := rfl
@[simp] theorem State.order_draw : (s.order p q n).draw = s.draw := rfl
@[simp] theorem State.order_nextId : (s.order p q n).nextId = s.nextId := rfl
@[simp] theorem State.order_me : (s.order p q n).me = s.me := rfl
@[simp] theorem State.order_others : (s.order p q n).others = s.others := rfl
@[simp] theorem State.order_time : (s.order p q n).time = s.time := rfl
@[simp] theorem State.order_bootst : (s.order p q n).bootst = s.bootst := rfl
@[simp] theorem State.order_flash : (s.order p q n).flash = s.flash := rfl
@[simp] theorem State.order_clus : (s.order p q n).clus = s.clus := rfl
@[simp] theorem State.order_roles : (s.order p q n).roles = s.roles := rfl
@[simp] theorem State.order_scol : (s.order p q n).scol = s.scol := rfl
@[simp] theorem State.order_tabVersion : (s.order p q n).tabVersion = s.tabVersion := rfl
@[simp] theorem State.order_bhs : (s.order p q n).bhs = s.bhs := rfl
@[simp] theorem State.order_cores : (s.order p q n).cores = s.cores := rfl
@[simp] theorem State.order_slots : (s.order p q n).slots = s.slots := rfl
@[simp] theorem State.order_subs : (s.order p q n).subs = s.subs := rfl
@[simp] theorem State.order_hmReq : (s.order p q n).hmReq = s.hmReq := rfl
@[simp] theorem State.order_pfen : (s.order p q n).pfen = s.pfen := rfl
@[simp] theorem State.order_fwlock : (s.order p q n).fwlock = s.fwlock := rfl
@[simp] theorem State.order_fwbase : (s.order p q n).fwbase = s.fwbase := rfl
@[simp] theorem State.order_fwsize : (s.order p q n).fwsize = s.fwsize := rfl
@[simp] theorem State.order_fwdrop : (s.order p q n).fwdrop = s.fwdrop := rfl
@[simp] theorem State.order_monImage : (s.order p q n).monImage = s.monImage := rfl
@[simp] theorem State.order_policies : (s.order p q n).policies = s.policies := rfl
@[simp] theorem State.order_slid : (s.order p q n).slid = s.slid := rfl
@[simp] theorem State.order_mem : (s.order p q n).mem = s.mem := rfl
@[simp] theorem State.order_bad : (s.order p q n).bad = s.bad := rfl
@[simp] theorem State.order_full : (s.order p q n).full = s.full := rfl
@[simp] theorem State.order_tlb : (s.order p q n).tlb = s.tlb := rfl
@[simp] theorem State.order_raced : (s.order p q n).raced = s.raced := rfl
@[simp] theorem State.order_accums : (s.order p q n).accums = s.accums := rfl
@[simp] theorem State.order_parts : (s.order p q n).parts = s.parts := rfl
@[simp] theorem State.order_launches : (s.order p q n).launches = s.launches := rfl
@[simp] theorem State.order_splits : (s.order p q n).splits = s.splits := rfl
@[simp] theorem State.order_calls : (s.order p q n).calls = s.calls := rfl
@[simp] theorem State.order_served : (s.order p q n).served = s.served := rfl
@[simp] theorem State.order_rbe : (s.order p q n).rbe = s.rbe := rfl
@[simp] theorem State.order_binds : (s.order p q n).binds = s.binds := rfl
@[simp] theorem State.order_rsids : (s.order p q n).rsids = s.rsids := rfl
@[simp] theorem State.order_raysets : (s.order p q n).raysets = s.raysets := rfl
@[simp] theorem State.order_laneRes : (s.order p q n).laneRes = s.laneRes := rfl
@[simp] theorem State.order_colls : (s.order p q n).colls = s.colls := rfl
@[simp] theorem State.order_outs : (s.order p q n).outs = s.outs := rfl
@[simp] theorem State.order_breached : (s.order p q n).breached = s.breached := rfl
end

section
variable (s : State) (u : Nat)
@[simp] theorem State.acquireFor_agenda : (s.acquireFor u).agenda = s.agenda := rfl
@[simp] theorem State.acquireFor_ev : (s.acquireFor u).ev = s.ev := rfl
@[simp] theorem State.acquireFor_tick : (s.acquireFor u).tick = s.tick := rfl
@[simp] theorem State.acquireFor_draw : (s.acquireFor u).draw = s.draw := rfl
@[simp] theorem State.acquireFor_nextId : (s.acquireFor u).nextId = s.nextId := rfl
@[simp] theorem State.acquireFor_me : (s.acquireFor u).me = s.me := rfl
@[simp] theorem State.acquireFor_others : (s.acquireFor u).others = s.others := rfl
@[simp] theorem State.acquireFor_time : (s.acquireFor u).time = s.time := rfl
@[simp] theorem State.acquireFor_bootst : (s.acquireFor u).bootst = s.bootst := rfl
@[simp] theorem State.acquireFor_flash : (s.acquireFor u).flash = s.flash := rfl
@[simp] theorem State.acquireFor_clus : (s.acquireFor u).clus = s.clus := rfl
@[simp] theorem State.acquireFor_roles : (s.acquireFor u).roles = s.roles := rfl
@[simp] theorem State.acquireFor_scol : (s.acquireFor u).scol = s.scol := rfl
@[simp] theorem State.acquireFor_tabVersion : (s.acquireFor u).tabVersion = s.tabVersion := rfl
@[simp] theorem State.acquireFor_bhs : (s.acquireFor u).bhs = s.bhs := rfl
@[simp] theorem State.acquireFor_cores : (s.acquireFor u).cores = s.cores := rfl
@[simp] theorem State.acquireFor_slots : (s.acquireFor u).slots = s.slots := rfl
@[simp] theorem State.acquireFor_subs : (s.acquireFor u).subs = s.subs := rfl
@[simp] theorem State.acquireFor_hmReq : (s.acquireFor u).hmReq = s.hmReq := rfl
@[simp] theorem State.acquireFor_pfen : (s.acquireFor u).pfen = s.pfen := rfl
@[simp] theorem State.acquireFor_fwlock : (s.acquireFor u).fwlock = s.fwlock := rfl
@[simp] theorem State.acquireFor_fwbase : (s.acquireFor u).fwbase = s.fwbase := rfl
@[simp] theorem State.acquireFor_fwsize : (s.acquireFor u).fwsize = s.fwsize := rfl
@[simp] theorem State.acquireFor_fwdrop : (s.acquireFor u).fwdrop = s.fwdrop := rfl
@[simp] theorem State.acquireFor_monImage : (s.acquireFor u).monImage = s.monImage := rfl
@[simp] theorem State.acquireFor_policies : (s.acquireFor u).policies = s.policies := rfl
@[simp] theorem State.acquireFor_slid : (s.acquireFor u).slid = s.slid := rfl
@[simp] theorem State.acquireFor_mem : (s.acquireFor u).mem = s.mem := rfl
@[simp] theorem State.acquireFor_bad : (s.acquireFor u).bad = s.bad := rfl
@[simp] theorem State.acquireFor_full : (s.acquireFor u).full = s.full := rfl
@[simp] theorem State.acquireFor_tlb : (s.acquireFor u).tlb = s.tlb := rfl
@[simp] theorem State.acquireFor_raced : (s.acquireFor u).raced = s.raced := rfl
@[simp] theorem State.acquireFor_accums : (s.acquireFor u).accums = s.accums := rfl
@[simp] theorem State.acquireFor_parts : (s.acquireFor u).parts = s.parts := rfl
@[simp] theorem State.acquireFor_launches : (s.acquireFor u).launches = s.launches := rfl
@[simp] theorem State.acquireFor_splits : (s.acquireFor u).splits = s.splits := rfl
@[simp] theorem State.acquireFor_calls : (s.acquireFor u).calls = s.calls := rfl
@[simp] theorem State.acquireFor_served : (s.acquireFor u).served = s.served := rfl
@[simp] theorem State.acquireFor_rbe : (s.acquireFor u).rbe = s.rbe := rfl
@[simp] theorem State.acquireFor_binds : (s.acquireFor u).binds = s.binds := rfl
@[simp] theorem State.acquireFor_rsids : (s.acquireFor u).rsids = s.rsids := rfl
@[simp] theorem State.acquireFor_raysets : (s.acquireFor u).raysets = s.raysets := rfl
@[simp] theorem State.acquireFor_laneRes : (s.acquireFor u).laneRes = s.laneRes := rfl
@[simp] theorem State.acquireFor_colls : (s.acquireFor u).colls = s.colls := rfl
@[simp] theorem State.acquireFor_outs : (s.acquireFor u).outs = s.outs := rfl
@[simp] theorem State.acquireFor_breached : (s.acquireFor u).breached = s.breached := rfl
end

section
variable (s : State)
@[simp] theorem State.acquire_agenda : s.acquire.agenda = s.agenda := rfl
@[simp] theorem State.acquire_ev : s.acquire.ev = s.ev := rfl
@[simp] theorem State.acquire_tick : s.acquire.tick = s.tick := rfl
@[simp] theorem State.acquire_draw : s.acquire.draw = s.draw := rfl
@[simp] theorem State.acquire_nextId : s.acquire.nextId = s.nextId := rfl
@[simp] theorem State.acquire_me : s.acquire.me = s.me := rfl
@[simp] theorem State.acquire_others : s.acquire.others = s.others := rfl
@[simp] theorem State.acquire_time : s.acquire.time = s.time := rfl
@[simp] theorem State.acquire_bootst : s.acquire.bootst = s.bootst := rfl
@[simp] theorem State.acquire_flash : s.acquire.flash = s.flash := rfl
@[simp] theorem State.acquire_clus : s.acquire.clus = s.clus := rfl
@[simp] theorem State.acquire_roles : s.acquire.roles = s.roles := rfl
@[simp] theorem State.acquire_scol : s.acquire.scol = s.scol := rfl
@[simp] theorem State.acquire_tabVersion : s.acquire.tabVersion = s.tabVersion := rfl
@[simp] theorem State.acquire_bhs : s.acquire.bhs = s.bhs := rfl
@[simp] theorem State.acquire_cores : s.acquire.cores = s.cores := rfl
@[simp] theorem State.acquire_slots : s.acquire.slots = s.slots := rfl
@[simp] theorem State.acquire_subs : s.acquire.subs = s.subs := rfl
@[simp] theorem State.acquire_hmReq : s.acquire.hmReq = s.hmReq := rfl
@[simp] theorem State.acquire_pfen : s.acquire.pfen = s.pfen := rfl
@[simp] theorem State.acquire_fwlock : s.acquire.fwlock = s.fwlock := rfl
@[simp] theorem State.acquire_fwbase : s.acquire.fwbase = s.fwbase := rfl
@[simp] theorem State.acquire_fwsize : s.acquire.fwsize = s.fwsize := rfl
@[simp] theorem State.acquire_fwdrop : s.acquire.fwdrop = s.fwdrop := rfl
@[simp] theorem State.acquire_monImage : s.acquire.monImage = s.monImage := rfl
@[simp] theorem State.acquire_policies : s.acquire.policies = s.policies := rfl
@[simp] theorem State.acquire_slid : s.acquire.slid = s.slid := rfl
@[simp] theorem State.acquire_mem : s.acquire.mem = s.mem := rfl
@[simp] theorem State.acquire_bad : s.acquire.bad = s.bad := rfl
@[simp] theorem State.acquire_full : s.acquire.full = s.full := rfl
@[simp] theorem State.acquire_tlb : s.acquire.tlb = s.tlb := rfl
@[simp] theorem State.acquire_raced : s.acquire.raced = s.raced := rfl
@[simp] theorem State.acquire_accums : s.acquire.accums = s.accums := rfl
@[simp] theorem State.acquire_parts : s.acquire.parts = s.parts := rfl
@[simp] theorem State.acquire_launches : s.acquire.launches = s.launches := rfl
@[simp] theorem State.acquire_splits : s.acquire.splits = s.splits := rfl
@[simp] theorem State.acquire_calls : s.acquire.calls = s.calls := rfl
@[simp] theorem State.acquire_served : s.acquire.served = s.served := rfl
@[simp] theorem State.acquire_rbe : s.acquire.rbe = s.rbe := rfl
@[simp] theorem State.acquire_binds : s.acquire.binds = s.binds := rfl
@[simp] theorem State.acquire_rsids : s.acquire.rsids = s.rsids := rfl
@[simp] theorem State.acquire_raysets : s.acquire.raysets = s.raysets := rfl
@[simp] theorem State.acquire_laneRes : s.acquire.laneRes = s.laneRes := rfl
@[simp] theorem State.acquire_colls : s.acquire.colls = s.colls := rfl
@[simp] theorem State.acquire_outs : s.acquire.outs = s.outs := rfl
@[simp] theorem State.acquire_breached : s.acquire.breached = s.breached := rfl
end

section
variable (s : State)
@[simp] theorem State.closeStrip_agenda : s.closeStrip.agenda = s.agenda := rfl
@[simp] theorem State.closeStrip_ev : s.closeStrip.ev = s.ev := rfl
@[simp] theorem State.closeStrip_tick : s.closeStrip.tick = s.tick := rfl
@[simp] theorem State.closeStrip_draw : s.closeStrip.draw = s.draw := rfl
@[simp] theorem State.closeStrip_nextId : s.closeStrip.nextId = s.nextId := rfl
@[simp] theorem State.closeStrip_me : s.closeStrip.me = s.me := rfl
@[simp] theorem State.closeStrip_others : s.closeStrip.others = s.others := rfl
@[simp] theorem State.closeStrip_time : s.closeStrip.time = s.time := rfl
@[simp] theorem State.closeStrip_bootst : s.closeStrip.bootst = s.bootst := rfl
@[simp] theorem State.closeStrip_flash : s.closeStrip.flash = s.flash := rfl
@[simp] theorem State.closeStrip_clus : s.closeStrip.clus = s.clus := rfl
@[simp] theorem State.closeStrip_roles : s.closeStrip.roles = s.roles := rfl
@[simp] theorem State.closeStrip_scol : s.closeStrip.scol = s.scol := rfl
@[simp] theorem State.closeStrip_tabVersion : s.closeStrip.tabVersion = s.tabVersion := rfl
@[simp] theorem State.closeStrip_bhs : s.closeStrip.bhs = s.bhs := rfl
@[simp] theorem State.closeStrip_cores : s.closeStrip.cores = s.cores := rfl
@[simp] theorem State.closeStrip_slots : s.closeStrip.slots = s.slots := rfl
@[simp] theorem State.closeStrip_subs : s.closeStrip.subs = s.subs := rfl
@[simp] theorem State.closeStrip_hmReq : s.closeStrip.hmReq = s.hmReq := rfl
@[simp] theorem State.closeStrip_pfen : s.closeStrip.pfen = s.pfen := rfl
@[simp] theorem State.closeStrip_fwlock : s.closeStrip.fwlock = s.fwlock := rfl
@[simp] theorem State.closeStrip_fwbase : s.closeStrip.fwbase = s.fwbase := rfl
@[simp] theorem State.closeStrip_fwsize : s.closeStrip.fwsize = s.fwsize := rfl
@[simp] theorem State.closeStrip_fwdrop : s.closeStrip.fwdrop = s.fwdrop := rfl
@[simp] theorem State.closeStrip_monImage : s.closeStrip.monImage = s.monImage := rfl
@[simp] theorem State.closeStrip_policies : s.closeStrip.policies = s.policies := rfl
@[simp] theorem State.closeStrip_slid : s.closeStrip.slid = s.slid := rfl
@[simp] theorem State.closeStrip_mem : s.closeStrip.mem = s.mem := rfl
@[simp] theorem State.closeStrip_bad : s.closeStrip.bad = s.bad := rfl
@[simp] theorem State.closeStrip_full : s.closeStrip.full = s.full := rfl
@[simp] theorem State.closeStrip_tlb : s.closeStrip.tlb = s.tlb := rfl
@[simp] theorem State.closeStrip_raced : s.closeStrip.raced = s.raced := rfl
@[simp] theorem State.closeStrip_accums : s.closeStrip.accums = s.accums := rfl
@[simp] theorem State.closeStrip_parts : s.closeStrip.parts = s.parts := rfl
@[simp] theorem State.closeStrip_launches : s.closeStrip.launches = s.launches := rfl
@[simp] theorem State.closeStrip_splits : s.closeStrip.splits = s.splits := rfl
@[simp] theorem State.closeStrip_calls : s.closeStrip.calls = s.calls := rfl
@[simp] theorem State.closeStrip_served : s.closeStrip.served = s.served := rfl
@[simp] theorem State.closeStrip_rbe : s.closeStrip.rbe = s.rbe := rfl
@[simp] theorem State.closeStrip_binds : s.closeStrip.binds = s.binds := rfl
@[simp] theorem State.closeStrip_rsids : s.closeStrip.rsids = s.rsids := rfl
@[simp] theorem State.closeStrip_raysets : s.closeStrip.raysets = s.raysets := rfl
@[simp] theorem State.closeStrip_laneRes : s.closeStrip.laneRes = s.laneRes := rfl
@[simp] theorem State.closeStrip_colls : s.closeStrip.colls = s.colls := rfl
@[simp] theorem State.closeStrip_outs : s.closeStrip.outs = s.outs := rfl
@[simp] theorem State.closeStrip_breached : s.closeStrip.breached = s.breached := rfl
end

section
variable (s : State) (p c : Nat) (l : Level)
@[simp] theorem State.breach_agenda : (s.breach p c l).agenda = s.agenda := by unfold State.breach; split <;> rfl
@[simp] theorem State.breach_ev : (s.breach p c l).ev = s.ev := by unfold State.breach; split <;> rfl
@[simp] theorem State.breach_tick : (s.breach p c l).tick = s.tick := by unfold State.breach; split <;> rfl
@[simp] theorem State.breach_draw : (s.breach p c l).draw = s.draw := by unfold State.breach; split <;> rfl
@[simp] theorem State.breach_nextId : (s.breach p c l).nextId = s.nextId := by unfold State.breach; split <;> rfl
@[simp] theorem State.breach_me : (s.breach p c l).me = s.me := by unfold State.breach; split <;> rfl
@[simp] theorem State.breach_others : (s.breach p c l).others = s.others := by unfold State.breach; split <;> rfl
@[simp] theorem State.breach_time : (s.breach p c l).time = s.time := by unfold State.breach; split <;> rfl
@[simp] theorem State.breach_bootst : (s.breach p c l).bootst = s.bootst := by unfold State.breach; split <;> rfl
@[simp] theorem State.breach_flash : (s.breach p c l).flash = s.flash := by unfold State.breach; split <;> rfl
@[simp] theorem State.breach_clus : (s.breach p c l).clus = s.clus := by unfold State.breach; split <;> rfl
@[simp] theorem State.breach_roles : (s.breach p c l).roles = s.roles := by unfold State.breach; split <;> rfl
@[simp] theorem State.breach_scol : (s.breach p c l).scol = s.scol := by unfold State.breach; split <;> rfl
@[simp] theorem State.breach_tabVersion : (s.breach p c l).tabVersion = s.tabVersion := by unfold State.breach; split <;> rfl
@[simp] theorem State.breach_bhs : (s.breach p c l).bhs = s.bhs := by unfold State.breach; split <;> rfl
@[simp] theorem State.breach_cores : (s.breach p c l).cores = s.cores := by unfold State.breach; split <;> rfl
@[simp] theorem State.breach_slots : (s.breach p c l).slots = s.slots := by unfold State.breach; split <;> rfl
@[simp] theorem State.breach_subs : (s.breach p c l).subs = s.subs := by unfold State.breach; split <;> rfl
@[simp] theorem State.breach_hmReq : (s.breach p c l).hmReq = s.hmReq := by unfold State.breach; split <;> rfl
@[simp] theorem State.breach_pfen : (s.breach p c l).pfen = s.pfen := by unfold State.breach; split <;> rfl
@[simp] theorem State.breach_fwlock : (s.breach p c l).fwlock = s.fwlock := by unfold State.breach; split <;> rfl
@[simp] theorem State.breach_fwbase : (s.breach p c l).fwbase = s.fwbase := by unfold State.breach; split <;> rfl
@[simp] theorem State.breach_fwsize : (s.breach p c l).fwsize = s.fwsize := by unfold State.breach; split <;> rfl
@[simp] theorem State.breach_fwdrop : (s.breach p c l).fwdrop = s.fwdrop := by unfold State.breach; split <;> rfl
@[simp] theorem State.breach_monImage : (s.breach p c l).monImage = s.monImage := by unfold State.breach; split <;> rfl
@[simp] theorem State.breach_policies : (s.breach p c l).policies = s.policies := by unfold State.breach; split <;> rfl
@[simp] theorem State.breach_slid : (s.breach p c l).slid = s.slid := by unfold State.breach; split <;> rfl
@[simp] theorem State.breach_mem : (s.breach p c l).mem = s.mem := by unfold State.breach; split <;> rfl
@[simp] theorem State.breach_bad : (s.breach p c l).bad = s.bad := by unfold State.breach; split <;> rfl
@[simp] theorem State.breach_full : (s.breach p c l).full = s.full := by unfold State.breach; split <;> rfl
@[simp] theorem State.breach_tlb : (s.breach p c l).tlb = s.tlb := by unfold State.breach; split <;> rfl
@[simp] theorem State.breach_recent : (s.breach p c l).recent = s.recent := by unfold State.breach; split <;> rfl
@[simp] theorem State.breach_raced : (s.breach p c l).raced = s.raced := by unfold State.breach; split <;> rfl
@[simp] theorem State.breach_accums : (s.breach p c l).accums = s.accums := by unfold State.breach; split <;> rfl
@[simp] theorem State.breach_parts : (s.breach p c l).parts = s.parts := by unfold State.breach; split <;> rfl
@[simp] theorem State.breach_launches : (s.breach p c l).launches = s.launches := by unfold State.breach; split <;> rfl
@[simp] theorem State.breach_splits : (s.breach p c l).splits = s.splits := by unfold State.breach; split <;> rfl
@[simp] theorem State.breach_calls : (s.breach p c l).calls = s.calls := by unfold State.breach; split <;> rfl
@[simp] theorem State.breach_served : (s.breach p c l).served = s.served := by unfold State.breach; split <;> rfl
@[simp] theorem State.breach_rbe : (s.breach p c l).rbe = s.rbe := by unfold State.breach; split <;> rfl
@[simp] theorem State.breach_binds : (s.breach p c l).binds = s.binds := by unfold State.breach; split <;> rfl
@[simp] theorem State.breach_rsids : (s.breach p c l).rsids = s.rsids := by unfold State.breach; split <;> rfl
@[simp] theorem State.breach_raysets : (s.breach p c l).raysets = s.raysets := by unfold State.breach; split <;> rfl
@[simp] theorem State.breach_laneRes : (s.breach p c l).laneRes = s.laneRes := by unfold State.breach; split <;> rfl
@[simp] theorem State.breach_colls : (s.breach p c l).colls = s.colls := by unfold State.breach; split <;> rfl
@[simp] theorem State.breach_outs : (s.breach p c l).outs = s.outs := by unfold State.breach; split <;> rfl
end

section
variable (s : State) (a n : Nat)
@[simp] theorem State.wipe_agenda : (s.wipe a n).agenda = s.agenda := rfl
@[simp] theorem State.wipe_ev : (s.wipe a n).ev = s.ev := rfl
@[simp] theorem State.wipe_tick : (s.wipe a n).tick = s.tick := rfl
@[simp] theorem State.wipe_draw : (s.wipe a n).draw = s.draw := rfl
@[simp] theorem State.wipe_nextId : (s.wipe a n).nextId = s.nextId := rfl
@[simp] theorem State.wipe_me : (s.wipe a n).me = s.me := rfl
@[simp] theorem State.wipe_others : (s.wipe a n).others = s.others := rfl
@[simp] theorem State.wipe_time : (s.wipe a n).time = s.time := rfl
@[simp] theorem State.wipe_bootst : (s.wipe a n).bootst = s.bootst := rfl
@[simp] theorem State.wipe_flash : (s.wipe a n).flash = s.flash := rfl
@[simp] theorem State.wipe_clus : (s.wipe a n).clus = s.clus := rfl
@[simp] theorem State.wipe_roles : (s.wipe a n).roles = s.roles := rfl
@[simp] theorem State.wipe_scol : (s.wipe a n).scol = s.scol := rfl
@[simp] theorem State.wipe_tabVersion : (s.wipe a n).tabVersion = s.tabVersion := rfl
@[simp] theorem State.wipe_bhs : (s.wipe a n).bhs = s.bhs := rfl
@[simp] theorem State.wipe_cores : (s.wipe a n).cores = s.cores := rfl
@[simp] theorem State.wipe_slots : (s.wipe a n).slots = s.slots := rfl
@[simp] theorem State.wipe_subs : (s.wipe a n).subs = s.subs := rfl
@[simp] theorem State.wipe_hmReq : (s.wipe a n).hmReq = s.hmReq := rfl
@[simp] theorem State.wipe_pfen : (s.wipe a n).pfen = s.pfen := rfl
@[simp] theorem State.wipe_fwlock : (s.wipe a n).fwlock = s.fwlock := rfl
@[simp] theorem State.wipe_fwbase : (s.wipe a n).fwbase = s.fwbase := rfl
@[simp] theorem State.wipe_fwsize : (s.wipe a n).fwsize = s.fwsize := rfl
@[simp] theorem State.wipe_fwdrop : (s.wipe a n).fwdrop = s.fwdrop := rfl
@[simp] theorem State.wipe_monImage : (s.wipe a n).monImage = s.monImage := rfl
@[simp] theorem State.wipe_policies : (s.wipe a n).policies = s.policies := rfl
@[simp] theorem State.wipe_slid : (s.wipe a n).slid = s.slid := rfl
@[simp] theorem State.wipe_tlb : (s.wipe a n).tlb = s.tlb := rfl
@[simp] theorem State.wipe_raced : (s.wipe a n).raced = s.raced := rfl
@[simp] theorem State.wipe_accums : (s.wipe a n).accums = s.accums := rfl
@[simp] theorem State.wipe_parts : (s.wipe a n).parts = s.parts := rfl
@[simp] theorem State.wipe_launches : (s.wipe a n).launches = s.launches := rfl
@[simp] theorem State.wipe_splits : (s.wipe a n).splits = s.splits := rfl
@[simp] theorem State.wipe_calls : (s.wipe a n).calls = s.calls := rfl
@[simp] theorem State.wipe_served : (s.wipe a n).served = s.served := rfl
@[simp] theorem State.wipe_rbe : (s.wipe a n).rbe = s.rbe := rfl
@[simp] theorem State.wipe_binds : (s.wipe a n).binds = s.binds := rfl
@[simp] theorem State.wipe_rsids : (s.wipe a n).rsids = s.rsids := rfl
@[simp] theorem State.wipe_raysets : (s.wipe a n).raysets = s.raysets := rfl
@[simp] theorem State.wipe_laneRes : (s.wipe a n).laneRes = s.laneRes := rfl
@[simp] theorem State.wipe_colls : (s.wipe a n).colls = s.colls := rfl
@[simp] theorem State.wipe_outs : (s.wipe a n).outs = s.outs := rfl
@[simp] theorem State.wipe_breached : (s.wipe a n).breached = s.breached := rfl
end

section
variable (s : State) (u : Nat)
@[simp] theorem State.switchTo_agenda : (s.switchTo u).agenda = s.agenda := by unfold State.switchTo; split <;> (try split) <;> rfl
@[simp] theorem State.switchTo_ev : (s.switchTo u).ev = s.ev := by unfold State.switchTo; split <;> (try split) <;> rfl
@[simp] theorem State.switchTo_tick : (s.switchTo u).tick = s.tick := by unfold State.switchTo; split <;> (try split) <;> rfl
@[simp] theorem State.switchTo_draw : (s.switchTo u).draw = s.draw := by unfold State.switchTo; split <;> (try split) <;> rfl
@[simp] theorem State.switchTo_nextId : (s.switchTo u).nextId = s.nextId := by unfold State.switchTo; split <;> (try split) <;> rfl
@[simp] theorem State.switchTo_time : (s.switchTo u).time = s.time := by unfold State.switchTo; split <;> (try split) <;> rfl
@[simp] theorem State.switchTo_bootst : (s.switchTo u).bootst = s.bootst := by unfold State.switchTo; split <;> (try split) <;> rfl
@[simp] theorem State.switchTo_flash : (s.switchTo u).flash = s.flash := by unfold State.switchTo; split <;> (try split) <;> rfl
@[simp] theorem State.switchTo_clus : (s.switchTo u).clus = s.clus := by unfold State.switchTo; split <;> (try split) <;> rfl
@[simp] theorem State.switchTo_roles : (s.switchTo u).roles = s.roles := by unfold State.switchTo; split <;> (try split) <;> rfl
@[simp] theorem State.switchTo_scol : (s.switchTo u).scol = s.scol := by unfold State.switchTo; split <;> (try split) <;> rfl
@[simp] theorem State.switchTo_tabVersion : (s.switchTo u).tabVersion = s.tabVersion := by unfold State.switchTo; split <;> (try split) <;> rfl
@[simp] theorem State.switchTo_bhs : (s.switchTo u).bhs = s.bhs := by unfold State.switchTo; split <;> (try split) <;> rfl
@[simp] theorem State.switchTo_cores : (s.switchTo u).cores = s.cores := by unfold State.switchTo; split <;> (try split) <;> rfl
@[simp] theorem State.switchTo_slots : (s.switchTo u).slots = s.slots := by unfold State.switchTo; split <;> (try split) <;> rfl
@[simp] theorem State.switchTo_subs : (s.switchTo u).subs = s.subs := by unfold State.switchTo; split <;> (try split) <;> rfl
@[simp] theorem State.switchTo_hmReq : (s.switchTo u).hmReq = s.hmReq := by unfold State.switchTo; split <;> (try split) <;> rfl
@[simp] theorem State.switchTo_pfen : (s.switchTo u).pfen = s.pfen := by unfold State.switchTo; split <;> (try split) <;> rfl
@[simp] theorem State.switchTo_fwlock : (s.switchTo u).fwlock = s.fwlock := by unfold State.switchTo; split <;> (try split) <;> rfl
@[simp] theorem State.switchTo_fwbase : (s.switchTo u).fwbase = s.fwbase := by unfold State.switchTo; split <;> (try split) <;> rfl
@[simp] theorem State.switchTo_fwsize : (s.switchTo u).fwsize = s.fwsize := by unfold State.switchTo; split <;> (try split) <;> rfl
@[simp] theorem State.switchTo_fwdrop : (s.switchTo u).fwdrop = s.fwdrop := by unfold State.switchTo; split <;> (try split) <;> rfl
@[simp] theorem State.switchTo_monImage : (s.switchTo u).monImage = s.monImage := by unfold State.switchTo; split <;> (try split) <;> rfl
@[simp] theorem State.switchTo_policies : (s.switchTo u).policies = s.policies := by unfold State.switchTo; split <;> (try split) <;> rfl
@[simp] theorem State.switchTo_slid : (s.switchTo u).slid = s.slid := by unfold State.switchTo; split <;> (try split) <;> rfl
@[simp] theorem State.switchTo_mem : (s.switchTo u).mem = s.mem := by unfold State.switchTo; split <;> (try split) <;> rfl
@[simp] theorem State.switchTo_bad : (s.switchTo u).bad = s.bad := by unfold State.switchTo; split <;> (try split) <;> rfl
@[simp] theorem State.switchTo_full : (s.switchTo u).full = s.full := by unfold State.switchTo; split <;> (try split) <;> rfl
@[simp] theorem State.switchTo_tlb : (s.switchTo u).tlb = s.tlb := by unfold State.switchTo; split <;> (try split) <;> rfl
@[simp] theorem State.switchTo_recent : (s.switchTo u).recent = s.recent := by unfold State.switchTo; split <;> (try split) <;> rfl
@[simp] theorem State.switchTo_raced : (s.switchTo u).raced = s.raced := by unfold State.switchTo; split <;> (try split) <;> rfl
@[simp] theorem State.switchTo_accums : (s.switchTo u).accums = s.accums := by unfold State.switchTo; split <;> (try split) <;> rfl
@[simp] theorem State.switchTo_parts : (s.switchTo u).parts = s.parts := by unfold State.switchTo; split <;> (try split) <;> rfl
@[simp] theorem State.switchTo_launches : (s.switchTo u).launches = s.launches := by unfold State.switchTo; split <;> (try split) <;> rfl
@[simp] theorem State.switchTo_splits : (s.switchTo u).splits = s.splits := by unfold State.switchTo; split <;> (try split) <;> rfl
@[simp] theorem State.switchTo_calls : (s.switchTo u).calls = s.calls := by unfold State.switchTo; split <;> (try split) <;> rfl
@[simp] theorem State.switchTo_served : (s.switchTo u).served = s.served := by unfold State.switchTo; split <;> (try split) <;> rfl
@[simp] theorem State.switchTo_rbe : (s.switchTo u).rbe = s.rbe := by unfold State.switchTo; split <;> (try split) <;> rfl
@[simp] theorem State.switchTo_binds : (s.switchTo u).binds = s.binds := by unfold State.switchTo; split <;> (try split) <;> rfl
@[simp] theorem State.switchTo_rsids : (s.switchTo u).rsids = s.rsids := by unfold State.switchTo; split <;> (try split) <;> rfl
@[simp] theorem State.switchTo_raysets : (s.switchTo u).raysets = s.raysets := by unfold State.switchTo; split <;> (try split) <;> rfl
@[simp] theorem State.switchTo_laneRes : (s.switchTo u).laneRes = s.laneRes := by unfold State.switchTo; split <;> (try split) <;> rfl
@[simp] theorem State.switchTo_colls : (s.switchTo u).colls = s.colls := by unfold State.switchTo; split <;> (try split) <;> rfl
@[simp] theorem State.switchTo_outs : (s.switchTo u).outs = s.outs := by unfold State.switchTo; split <;> (try split) <;> rfl
@[simp] theorem State.switchTo_breached : (s.switchTo u).breached = s.breached := by unfold State.switchTo; split <;> (try split) <;> rfl
end

end Sys2Proof.Machine
end

