-- ==== Sys2Proof/Laws/Monad.lean ====
section
/-! SUPPORT. What the pieces of a meaning answer: sequencing, the ways to stop, and the outcome of a meaning. -/

namespace Sys2Proof.Machine

section sequencing

variable {ε α β : Type}

/-- What follows a piece is reached only where the piece answers. -/
@[simp] theorem run_bind (s : State) (f : α → EStateM ε State β) (x : EStateM ε State α) :
    (x >>= f).run s = match x.run s with
      | .error e t => .error e t
      | .ok a t => (f a).run t := by
  cases h : x.run s <;> exact (congrArg _ rfl).trans (by simp only [bind, EStateM.bind, EStateM.run] at h ⊢; rw [h])

/-- A function of what a piece answers. -/
@[simp] theorem run_map (s : State) (f : α → β) (x : EStateM ε State α) :
    (f <$> x).run s = match x.run s with
      | .error e t => .error e t
      | .ok a t => .ok (f a) t := by
  cases h : x.run s <;> exact (congrArg _ rfl).trans (by simp only [Functor.map, EStateM.map, EStateM.run] at h ⊢; rw [h])

end sequencing

@[simp] theorem run_pure {ε α : Type} (s : State) (a : α) : (pure a : EStateM ε State α).run s = .ok a s := rfl
@[simp] theorem run_get (s : State) : (get : M State).run s = .ok s s := rfl
@[simp] theorem run_set (s t : State) : (set t : M Unit).run s = .ok () t := rfl
@[simp] theorem run_modify {ε : Type} (s : State) (f : State → State) : (modify f : EStateM ε State Unit).run s = .ok () (f s) := rfl
@[simp] theorem run_throw {α : Type} (e : Stop) (s : State) : (throw e : M α).run s = .error e s := rfl
@[simp] theorem run_me (s : State) : me.run s = .ok s.me s := rfl
@[simp] theorem run_modMe (f : Strand → Strand) (s : State) : (modMe f).run s = .ok () { s with me := f s.me } := rfl
@[simp] theorem run_modMyPart (f : Part → Part) (s : State) :
    (modMyPart f).run s = .ok () (match s.me.owner.pid? with
      | none => s
      | some pid => s.modPart pid f) := rfl
@[simp] theorem run_advance (n : Nat) (s : State) :
    (advance n).run s = .ok () { s with me := { s.me with pc := s.me.pc + wd n } } := rfl
@[simp] theorem run_trapAt {α : Type} (c : Nat) (v : Word) (r : Route) (s : State) :
    (trapAt c v r : M α).run s = .error (.trap ⟨c, v, r⟩ false) s := rfl
@[simp] theorem run_stall {α : Type} (s : State) : (stall : M α).run s = .error (.stall false) s := rfl
@[simp] theorem run_stallKeep {α : Type} (s : State) : (stallKeep : M α).run s = .error (.stall true) s := rfl
@[simp] theorem run_free (s : State) :
    free.run s = .ok (Config.free s.tick s.draw) { s with draw := s.draw + 1 } := rfl
@[simp] theorem run_newId (s : State) : newId.run s = .ok s.nextId { s with nextId := s.nextId + 1 } := rfl

theorem run_waitFor (b : Bool) (s : State) :
    (waitFor b).run s = if b then .ok () s else .error (.stall false) s := by cases b <;> rfl

theorem run_illegal {α : Type} (i : Instr) (s : State) :
    (illegal i : M α).run s = .error (.trap ⟨1, Instr.words i, .sup⟩ false) s := rfl

/-- A meaning that completes. -/
theorem runInstr_ok {m : M Unit} {s s' : State} (h : m.run s = .ok () s') : runInstr m s = .next s' := by
  simp [runInstr, h]

/-- A meaning that traps commits nothing of itself. -/
theorem runInstr_trap {m : M Unit} {s s' : State} {t : Trap} (h : m.run s = .error (.trap t false) s') :
    runInstr m s = .next (s.takeTrap t false false) := by
  simp [runInstr, h]

/-- A meaning that waits leaves the state as it was. -/
theorem runInstr_stall {m : M Unit} {s s' : State} (h : m.run s = .error (.stall false) s') :
    runInstr m s = .next s := by
  simp [runInstr, h]

/-- The outcome of a meaning is always a next state. -/
theorem runInstr_next (m : M Unit) (s : State) : ∃ t, runInstr m s = .next t := by
  unfold runInstr
  cases m.run s with
  | ok a s' => exact ⟨_, rfl⟩
  | error e s' => cases e <;> exact ⟨_, rfl⟩

/-- A one-word instruction whose effect completes. -/
theorem scalar_ok {m : M Unit} {s s' : State} (h : m.run s = .ok () s') :
    scalar m s = .next { s' with me := { s'.me with pc := s'.me.pc + wd 4 } } :=
  runInstr_ok (by simp [h])

/-- A two-word instruction whose effect completes. -/
theorem scalar2_ok {m : M Unit} {s s' : State} (h : m.run s = .ok () s') :
    scalar2 m s = .next { s' with me := { s'.me with pc := s'.me.pc + wd 8 } } :=
  runInstr_ok (by simp [h])

theorem scalar_trap {m : M Unit} {s s' : State} {t : Trap} (h : m.run s = .error (.trap t false) s') :
    scalar m s = .next (s.takeTrap t false false) :=
  runInstr_trap (s' := s') (by simp [h])

theorem scalar2_trap {m : M Unit} {s s' : State} {t : Trap} (h : m.run s = .error (.trap t false) s') :
    scalar2 m s = .next (s.takeTrap t false false) :=
  runInstr_trap (s' := s') (by simp [h])

theorem scalar_stall {m : M Unit} {s s' : State} (h : m.run s = .error (.stall false) s') : scalar m s = .next s :=
  runInstr_stall (s' := s') (by simp [h])

theorem scalar2_stall {m : M Unit} {s s' : State} (h : m.run s = .error (.stall false) s') : scalar2 m s = .next s :=
  runInstr_stall (s' := s') (by simp [h])

end Sys2Proof.Machine
end

