-- ==== Sys2Proof/Laws/Access.lean ====
section
/-! SUPPORT. Every operation on memory keeps its canonical form (log 1): writes of bytes, spilling and filling of accumulators, writes
of the device, and the loads and stores of a strand's paths; and how meanings put together from such operations keep it. -/

namespace Sys2Proof.Machine

/-- A fold whose steps keep a property keeps it. -/
theorem foldl_keeps {α β : Type} {p : α → Prop} {f : α → β → α} (hf : ∀ x b, p x → p (f x b)) {l : List β} {x : α} (h : p x) :
    p (l.foldl f x) :=
  List.foldlRecOn l f h fun y hy b _ => hf y b hy

/-- So does a loop. -/
theorem loop_keeps {α : Type} {p : α → Prop} {f : Nat → α → α} (hf : ∀ i x, p x → p (f i x)) {n : Nat} {x : α} (h : p x) :
    p (loop n f x) := foldl_keeps (fun x i => hf i x) h

/-- A state with the memory of a canonical one is canonical. -/
theorem State.Inv.of_mem {s t : State} (h : s.Inv) (e : t.mem = s.mem) : t.Inv := by
  unfold State.Inv; rw [e]; exact h

theorem State.Inv.breach {s : State} (h : s.Inv) (p c : Nat) (lv : Level) : (s.breach p c lv).Inv := h.of_mem (by simp)

theorem State.Inv.noteWrite {s : State} (h : s.Inv) (p c : Nat) (lv : Level) (a n : Nat) : (s.noteWrite p c lv a n).Inv := by
  unfold State.noteWrite
  split
  · exact h
  · dsimp only
    split
    · exact h
    · exact h.breach _ _ _

theorem State.Inv.noteStore {s : State} (h : s.Inv) (pl : Place) (n : Nat) : (s.noteStore pl n).Inv := by
  unfold State.noteStore
  split
  · dsimp only
    split
    · exact (h.noteWrite _ _ _ _ _).breach _ _ _
    · exact h.noteWrite _ _ _ _ _
  · exact foldl_keeps (p := State.Inv) (fun _ p hx => foldl_keeps (p := State.Inv) (fun _ lv hy => hy.breach p.pid 0 lv) hx) h
  · exact h

theorem State.Inv.putBacking {s : State} (h : s.Inv) (p : Part) (i j : Nat) (l : List Byte) : (s.putBacking p i j l).Inv :=
  loop_keeps (p := State.Inv) (fun k t ht => by
    split
    · exact Memory.wf_write _ _ ht
    · exact ht) h

theorem State.Inv.freeEntry {s : State} (h : s.Inv) (c : Accum) : (s.freeEntry c).Inv := by
  unfold State.freeEntry
  split
  · split
    · exact h.putBacking _ _ _ _
    · exact h
  · exact h

/-- A spill keeps the canonical form. -/
theorem State.Inv.spill {s t : State} (h : s.Inv) {home keep f g : Nat} (e : s.spill home keep f g = some t) : t.Inv := by
  unfold State.spill at e
  simp only [Option.bind_eq_bind, Option.bind_eq_some_iff] at e
  obtain ⟨p, -, c, -, i, -, e⟩ := e
  rw [← Option.some.inj e]
  exact (h.putBacking p i 0 c.entry).of_mem rfl

theorem State.Inv.unspill {s : State} (h : s.Inv) (c : Accum) : (s.unspill c).Inv := (h.freeEntry c).of_mem rfl

theorem State.Inv.respill {s : State} (h : s.Inv) (c : Accum) : (s.respill c).Inv := by
  unfold State.respill
  dsimp only
  split
  · exact h
  · cases e : s.spill _ _ _ _ with
    | none => exact h
    | some t => exact h.spill e

theorem State.Inv.fill {s : State} (h : s.Inv) (c : Accum) : (s.fill c).Inv := by
  unfold State.fill
  split
  · exact h
  · exact (h.unspill c).respill c

theorem State.Inv.touch {s : State} (h : s.Inv) (a n : Nat) : (s.touch a n).Inv :=
  foldl_keeps (p := State.Inv) (fun _ c hx => hx.fill c) h

theorem State.Inv.collapse {s : State} (h : s.Inv) (c : Accum) : (s.collapse c).Inv :=
  Memory.wf_writeL _ _ (h.freeEntry c)

/-- A write of bytes keeps the canonical form. -/
theorem State.Inv.put {s : State} (h : s.Inv) (a : Nat) (l : List Byte) : (s.put a l).Inv := by
  unfold State.put
  dsimp only
  refine State.Inv.of_mem (loop_keeps (p := State.Inv) (fun i t ht => ?_) ?_) rfl
  · split
    · exact ht
    · exact Memory.wf_write _ _ ht
  · refine foldl_keeps (p := State.Inv) (fun _ c hx => hx.respill c) ?_
    change Memory.wf (List.foldl State.unspill _ _).mem = true
    exact foldl_keeps (p := State.Inv) (fun _ c hx => hx.unspill c)
      (foldl_keeps (p := State.Inv) (fun _ c hx => hx.collapse c) h)

theorem State.Inv.putN {s : State} (h : s.Inv) (a n v : Nat) : (s.putN a n v).Inv := h.put _ _

/-- A write of an engine, the host or the device keeps the canonical form. -/
theorem State.Inv.putBy {s : State} (h : s.Inv) (w a : Nat) (l : List Byte) (b : Bool) : (s.putBy w a l b).Inv := by
  have h' : State.Inv (((s.put a l).cover a l.length).race a l.length w b) := (h.put a l).of_mem rfl
  unfold State.putBy
  dsimp only
  split
  · exact h'.noteWrite _ _ _ _ _
  · exact h'

theorem State.Inv.putDev {s : State} (h : s.Inv) (a : Nat) (l : List Byte) : (s.putDev a l).Inv := h.putBy _ _ _ _

theorem State.Inv.wipe {s : State} (h : s.Inv) (a n : Nat) : (s.wipe a n).Inv := Memory.wf_filter _ h

theorem State.Inv.dropAccums {s : State} (h : s.Inv) (p : Part) : (s.dropAccums p).Inv :=
  State.Inv.of_mem (foldl_keeps (p := State.Inv) (fun _ c hx => hx.freeEntry c) h) rfl

theorem State.Inv.putIpaF {p : Part} {svc : Bool} :
    ∀ (fuel ipa : Nat) (l : List Byte) (s : State), s.Inv → (State.putIpaF p svc fuel ipa l s).1.Inv := by
  intro fuel
  induction fuel with
  | zero => exact fun _ _ _ h => h
  | succ n ih =>
    intro ipa l s h
    unfold State.putIpaF
    split
    · exact h
    · dsimp only
      split
      · exact h
      · exact ih _ _ _ (h.putDev _ _)

theorem State.Inv.putIpa {s : State} (h : s.Inv) (p : Part) (ipa : Nat) (l : List Byte) (svc : Bool) :
    (s.putIpa p ipa l svc).1.Inv := State.Inv.putIpaF _ _ _ _ h

/-! ### Meanings -/

/-- The state in which a computation ends, whether it completes, traps or waits. -/
def ended {α : Type} : EStateM.Result Stop State α → State
  | .error _ t => t
  | .ok _ t => t

/-- A computation of the machine keeps the canonical form. -/
def Keeps {α : Type} (m : M α) : Prop := ∀ s, s.Inv → (ended (m.run s)).Inv

theorem Keeps.pure {α : Type} (a : α) : Keeps (pure a : M α) := fun _ h => h
theorem Keeps.me : Keeps me := fun _ h => h
theorem Keeps.throw {α : Type} (e : Stop) : Keeps (throw e : M α) := fun _ h => h
theorem Keeps.trapAt {α : Type} (c : Nat) (v : Word) (r : Route) : Keeps (trapAt c v r : M α) := fun _ h => h
theorem Keeps.stall {α : Type} : Keeps (stall : M α) := fun _ h => h
theorem Keeps.set {t : State} (h : t.Inv) : Keeps (set t : M Unit) := fun _ _ => h
theorem Keeps.modify {f : State → State} (hf : ∀ s, s.Inv → (f s).Inv) : Keeps (modify f : M Unit) := fun s h => hf s h
theorem Keeps.modMe (f : Strand → Strand) : Keeps (modMe f) := fun _ h => h
theorem Keeps.free : Keeps free := fun _ h => h

theorem Keeps.bind {α β : Type} {m : M α} {f : α → M β} (hm : Keeps m) (hf : ∀ a, Keeps (f a)) : Keeps (m >>= f) := fun s h => by
  have k := hm s h
  rw [run_bind]
  generalize m.run s = r at k
  rcases r with ⟨a, t⟩ | ⟨_, _⟩
  · exact hf a t k
  · exact k

/-- What a meaning reads is the state that it runs in, which is canonical. -/
theorem Keeps.get_bind {α : Type} {f : State → M α} (hf : ∀ s, s.Inv → Keeps (f s)) : Keeps (get >>= f) :=
  fun s h => hf s h s h

theorem Keeps.ite {α : Type} {c : Prop} [Decidable c] {a b : M α} (ha : Keeps a) (hb : Keeps b) :
    Keeps (if c then a else b) := by
  split
  · exact ha
  · exact hb

/-- A choice among alternatives draws a free value, and nothing else. -/
theorem Keeps.freeBelow (n : Nat) : Keeps (freeBelow n) := Keeps.ite (Keeps.pure _) (Keeps.free.bind fun _ => Keeps.pure _)

theorem Keeps.freeBool : Keeps freeBool := (Keeps.freeBelow 2).bind fun _ => Keeps.pure _

theorem Keeps.look (r : Reader) (d : Nat) (m : BitVec 8) :
    ∀ (l : List Recent) (fixed : BitVec 8) (v : Nat), Keeps (look r d m l fixed v) := by
  intro l
  induction l with
  | nil => exact fun _ _ => Keeps.pure _
  | cons x t ih =>
    intro fixed v
    unfold Sys2Proof.Machine.look
    refine Keeps.ite ((ih _ _).bind fun _ => Keeps.pure _) (Keeps.bind ?_ fun b => Keeps.ite ?_ ?_)
    · exact Keeps.ite Keeps.freeBool (Keeps.pure _)
    · exact (ih _ _).bind fun _ => Keeps.pure _
    · exact (ih _ _).bind fun _ => Keeps.pure _

theorem Keeps.readAs (r : Reader) (a n : Nat) : Keeps (readAs r a n) :=
  (Keeps.modify fun _ h => h.touch a n).bind fun _ => Keeps.get_bind fun _ _ => Keeps.ite (Keeps.pure _)
    (Keeps.bind (Keeps.look _ _ _ _ _ _) fun _ =>
      Keeps.bind (Keeps.modify fun _ h => State.Inv.of_mem h rfl) fun _ => Keeps.pure _)

/-- A load keeps the canonical form. -/
theorem Keeps.loadPath (vector : Bool) (pl : Place) (n : Nat) : Keeps (loadPath vector pl n) :=
  Keeps.get_bind fun _ _ => Keeps.ite (Keeps.readAs _ _ _)
    ((Keeps.modify fun _ h => h.touch _ _).bind fun _ => Keeps.get_bind fun _ _ => Keeps.pure _)

theorem Keeps.orderPoint (r : Reader) (d : Nat) (m : BitVec 8) (g : Recent → Bool) :
    ∀ l : List Recent, Keeps (orderPoint r d m g l) := by
  intro l
  induction l with
  | nil => exact Keeps.pure _
  | cons x t ih =>
    unfold Sys2Proof.Machine.orderPoint
    refine Keeps.ite (Keeps.ite (Keeps.freeBool.bind fun b => Keeps.ite (ih.bind fun _ => Keeps.pure _) ?_) ?_)
      (ih.bind fun _ => Keeps.pure _)
    · exact Keeps.pure _
    · exact Keeps.pure _

/-- An access that writes keeps the canonical form. -/
theorem Keeps.writeAs (vector ordered : Bool) (hid : List Viewer) (pl : Place) (n : Nat) (f : Nat → Option Nat) :
    Keeps (writeAs vector ordered hid pl n f) := by
  unfold Sys2Proof.Machine.writeAs
  refine (Keeps.modify fun _ h => h.touch _ _).bind fun _ => Keeps.get_bind fun s _ => ?_
  dsimp only
  refine Keeps.ite ((Keeps.orderPoint _ _ _ _ _).bind fun x => ?_) ((Keeps.pure _).bind fun x => ?_)
  all_goals
    split
    · exact Keeps.bind (Keeps.modify fun _ h => State.Inv.of_mem h rfl) fun _ => Keeps.pure _
    · refine Keeps.bind (Keeps.modify fun s h => State.Inv.noteStore ?_ _ _) fun _ => Keeps.pure _
      refine State.Inv.of_mem (s := if _ then _ else _) ?_ rfl
      split
      · exact h.putN _ _ _
      · refine loop_keeps (p := fun q => Memory.wf q = true) (fun i q hq => ?_) h
        split
        · exact Memory.wf_write _ _ hq
        · exact hq

theorem Keeps.storeAs (vector ordered : Bool) (pl : Place) (n v : Nat) : Keeps (storeAs vector ordered pl n v) :=
  Keeps.get_bind fun _ _ => (Keeps.writeAs _ _ _ _ _ _).bind fun _ => Keeps.pure _

theorem Keeps.storePath (vector : Bool) (pl : Place) (n v : Nat) : Keeps (storePath vector pl n v) := Keeps.storeAs _ _ _ _ _

theorem Keeps.atomicAt (vector : Bool) (pl : Place) (n scope : Nat) (f : Nat → Option Nat) :
    Keeps (atomicAt vector pl n scope f) := Keeps.get_bind fun _ _ => Keeps.writeAs _ _ _ _ _ _

theorem Keeps.spillFor (home keep : Nat) : Keeps (spillFor home keep) := by
  intro s h
  unfold Sys2Proof.Machine.spillFor
  simp only [run_bind, run_get]
  by_cases hh : s.held home < 65536
  · simpa [hh, ended] using h
  · simp only [hh, if_false, run_bind, run_free]
    cases e : s.spill home keep (Config.free s.tick s.draw) (Config.free s.tick (s.draw + 1)) with
    | none => exact h
    | some t => exact (h.spill e).of_mem rfl

/-- An accumulating add keeps the canonical form. -/
theorem Keeps.detAdd (a fmt v w : Nat) : Keeps (detAdd a fmt v w) := by
  unfold Sys2Proof.Machine.detAdd
  refine (Keeps.modify fun _ h => h.touch _ _).bind fun _ => Keeps.get_bind fun s h => ?_
  dsimp only
  split
  · exact Keeps.ite (Keeps.bind (Keeps.set (State.Inv.of_mem h rfl)) fun _ => Keeps.pure _) (Keeps.pure _)
  · exact Keeps.bind (Keeps.spillFor _ _) fun _ =>
      Keeps.ite (Keeps.bind (Keeps.modify fun _ h => State.Inv.of_mem h rfl) fun _ => Keeps.pure _) (Keeps.pure _)

end Sys2Proof.Machine
end

