-- ==== Sys2Proof/Laws/PerInstr.lean ====
section
/-! SUPPORT. A family of lemmas, one for every instruction: what its encoding looks like (R73, R74). -/

namespace Sys2Proof.Laws

/-- A field of a packed word, by its value. -/
theorem fld_packWord (c : Nat) (fs : List (Nat × Nat)) (lo n : Nat) :
    fld (packWord c fs) lo n = BitVec.ofNat n ((fs.foldl (fun x f => x + f.1 * 2 ^ f.2) c) % 2 ^ 32 / 2 ^ lo) := by
  have h : ∀ fs c, packWord c fs = BitVec.ofNat 32 (fs.foldl (fun x f => x + f.1 * 2 ^ f.2) c) := by
    intro fs
    induction fs with
    | nil => intro c; rfl
    | cons f t ih => intro c; simp [packWord, ih]
  rw [h]
  simp [fld, BitVec.extractLsb', BitVec.toNat_ofNat, Nat.shiftRight_eq_div_pow]

/-- Fields above bit 1 leave the kind of a word alone. -/
theorem kind_packWord (c : Nat) (fs : List (Nat × Nat)) (h : (fs.map Prod.snd).all (2 ≤ ·) = true) :
    wordKind (packWord c fs) = BitVec.ofNat 2 c := by
  rw [wordKind, fld_packWord]
  apply BitVec.eq_of_toNat_eq
  have e : ∀ (fs : List (Nat × Nat)) (c : Nat), (fs.map Prod.snd).all (2 ≤ ·) = true →
      (fs.foldl (fun x f => x + f.1 * 2 ^ f.2) c) % 4 = c % 4 := by
    intro fs
    induction fs with
    | nil => intro c _; rfl
    | cons f t ih =>
      intro c h
      simp only [List.map_cons, List.all_cons, Bool.and_eq_true, decide_eq_true_eq] at h
      rw [List.foldl_cons, ih _ h.2]
      obtain ⟨k, hk⟩ := Nat.exists_eq_add_of_le h.1
      rw [hk, Nat.pow_add, show f.1 * (2 ^ 2 * 2 ^ k) = 4 * (f.1 * 2 ^ k) by ring, Nat.add_mul_mod_self_left]
  have := e fs c h
  simp only [BitVec.toNat_ofNat, Nat.pow_zero, Nat.div_one]
  omega

end Sys2Proof.Laws

namespace Sys2Proof.Laws.Encoding

/-- R73, R74: an instruction of the opcode words is one word of kind 00, or a word of kind 01 and one of kind 11; a step
without an encoding has no words. -/
def Statement (i : Instr) : Prop :=
  (i.encodable = true ∧ ∃ w, encode i = [w] ∧ wordKind w = 0) ∨
  (i.encodable = true ∧ ∃ w1 w2, encode i = [w1, w2] ∧ wordKind w1 = 1 ∧ wordKind w2 = 3) ∨
  (i.encodable = false ∧ encode i = [])

end Sys2Proof.Laws.Encoding

namespace Sys2Proof.Laws

theorem oneWord {i : Instr} {c : Nat} {fs : List (Nat × Nat)} (e : i.encodable = true) (h : encode i = [packWord c fs])
    (hf : (fs.map Prod.snd).all (2 ≤ ·) = true) (k : BitVec.ofNat 2 c = 0) : Encoding.Statement i :=
  .inl ⟨e, _, h, (kind_packWord _ _ hf).trans k⟩

theorem twoWords {i : Instr} {c1 c2 : Nat} {f1 f2 : List (Nat × Nat)} (e : i.encodable = true)
    (h : encode i = [packWord c1 f1, packWord c2 f2]) (h1 : (f1.map Prod.snd).all (2 ≤ ·) = true)
    (h2 : (f2.map Prod.snd).all (2 ≤ ·) = true) (k1 : BitVec.ofNat 2 c1 = 1) (k2 : BitVec.ofNat 2 c2 = 3) :
    Encoding.Statement i :=
  .inr (.inl ⟨e, _, _, h, (kind_packWord _ _ h1).trans k1, (kind_packWord _ _ h2).trans k2⟩)

theorem noWord {i : Instr} (e : i.encodable = false) (h : encode i = []) : Encoding.Statement i := .inr (.inr ⟨e, h⟩)

end Sys2Proof.Laws

namespace Sys2Proof.Laws.Encoding

theorem add : ∀ x0 x1 x2, Statement (.add x0 x1 x2) := fun _ _ _ => oneWord rfl rfl rfl rfl
theorem sub : ∀ x0 x1 x2, Statement (.sub x0 x1 x2) := fun _ _ _ => oneWord rfl rfl rfl rfl
theorem and : ∀ x0 x1 x2, Statement (.and x0 x1 x2) := fun _ _ _ => oneWord rfl rfl rfl rfl
theorem or : ∀ x0 x1 x2, Statement (.or x0 x1 x2) := fun _ _ _ => oneWord rfl rfl rfl rfl
theorem xor : ∀ x0 x1 x2, Statement (.xor x0 x1 x2) := fun _ _ _ => oneWord rfl rfl rfl rfl
theorem andn : ∀ x0 x1 x2, Statement (.andn x0 x1 x2) := fun _ _ _ => oneWord rfl rfl rfl rfl
theorem orn : ∀ x0 x1 x2, Statement (.orn x0 x1 x2) := fun _ _ _ => oneWord rfl rfl rfl rfl
theorem sll : ∀ x0 x1 x2, Statement (.sll x0 x1 x2) := fun _ _ _ => oneWord rfl rfl rfl rfl
theorem srl : ∀ x0 x1 x2, Statement (.srl x0 x1 x2) := fun _ _ _ => oneWord rfl rfl rfl rfl
theorem sra : ∀ x0 x1 x2, Statement (.sra x0 x1 x2) := fun _ _ _ => oneWord rfl rfl rfl rfl
theorem rol : ∀ x0 x1 x2, Statement (.rol x0 x1 x2) := fun _ _ _ => oneWord rfl rfl rfl rfl
theorem ror : ∀ x0 x1 x2, Statement (.ror x0 x1 x2) := fun _ _ _ => oneWord rfl rfl rfl rfl
theorem slt : ∀ x0 x1 x2, Statement (.slt x0 x1 x2) := fun _ _ _ => oneWord rfl rfl rfl rfl
theorem sltu : ∀ x0 x1 x2, Statement (.sltu x0 x1 x2) := fun _ _ _ => oneWord rfl rfl rfl rfl
theorem min : ∀ x0 x1 x2, Statement (.min x0 x1 x2) := fun _ _ _ => oneWord rfl rfl rfl rfl
theorem max : ∀ x0 x1 x2, Statement (.max x0 x1 x2) := fun _ _ _ => oneWord rfl rfl rfl rfl
theorem minu : ∀ x0 x1 x2, Statement (.minu x0 x1 x2) := fun _ _ _ => oneWord rfl rfl rfl rfl
theorem maxu : ∀ x0 x1 x2, Statement (.maxu x0 x1 x2) := fun _ _ _ => oneWord rfl rfl rfl rfl
theorem mul : ∀ x0 x1 x2, Statement (.mul x0 x1 x2) := fun _ _ _ => oneWord rfl rfl rfl rfl
theorem mulh : ∀ x0 x1 x2, Statement (.mulh x0 x1 x2) := fun _ _ _ => oneWord rfl rfl rfl rfl
theorem mulhu : ∀ x0 x1 x2, Statement (.mulhu x0 x1 x2) := fun _ _ _ => oneWord rfl rfl rfl rfl
theorem div : ∀ x0 x1 x2, Statement (.div x0 x1 x2) := fun _ _ _ => oneWord rfl rfl rfl rfl
theorem divu : ∀ x0 x1 x2, Statement (.divu x0 x1 x2) := fun _ _ _ => oneWord rfl rfl rfl rfl
theorem rem : ∀ x0 x1 x2, Statement (.rem x0 x1 x2) := fun _ _ _ => oneWord rfl rfl rfl rfl
theorem remu : ∀ x0 x1 x2, Statement (.remu x0 x1 x2) := fun _ _ _ => oneWord rfl rfl rfl rfl
theorem clz : ∀ x0 x1, Statement (.clz x0 x1) := fun _ _ => oneWord rfl rfl rfl rfl
theorem ctz : ∀ x0 x1, Statement (.ctz x0 x1) := fun _ _ => oneWord rfl rfl rfl rfl
theorem popc : ∀ x0 x1, Statement (.popc x0 x1) := fun _ _ => oneWord rfl rfl rfl rfl
theorem addw : ∀ x0 x1 x2, Statement (.addw x0 x1 x2) := fun _ _ _ => oneWord rfl rfl rfl rfl
theorem subw : ∀ x0 x1 x2, Statement (.subw x0 x1 x2) := fun _ _ _ => oneWord rfl rfl rfl rfl
theorem mulw : ∀ x0 x1 x2, Statement (.mulw x0 x1 x2) := fun _ _ _ => oneWord rfl rfl rfl rfl
theorem addi : ∀ x0 x1 x2, Statement (.addi x0 x1 x2) := fun _ _ _ => oneWord rfl rfl rfl rfl
theorem andi : ∀ x0 x1 x2, Statement (.andi x0 x1 x2) := fun _ _ _ => oneWord rfl rfl rfl rfl
theorem ori : ∀ x0 x1 x2, Statement (.ori x0 x1 x2) := fun _ _ _ => oneWord rfl rfl rfl rfl
theorem xori : ∀ x0 x1 x2, Statement (.xori x0 x1 x2) := fun _ _ _ => oneWord rfl rfl rfl rfl
theorem slti : ∀ x0 x1 x2, Statement (.slti x0 x1 x2) := fun _ _ _ => oneWord rfl rfl rfl rfl
theorem sltiu : ∀ x0 x1 x2, Statement (.sltiu x0 x1 x2) := fun _ _ _ => oneWord rfl rfl rfl rfl
theorem slli : ∀ x0 x1 x2, Statement (.slli x0 x1 x2) := fun _ _ _ => oneWord rfl rfl rfl rfl
theorem srli : ∀ x0 x1 x2, Statement (.srli x0 x1 x2) := fun _ _ _ => oneWord rfl rfl rfl rfl
theorem srai : ∀ x0 x1 x2, Statement (.srai x0 x1 x2) := fun _ _ _ => oneWord rfl rfl rfl rfl
theorem rori : ∀ x0 x1 x2, Statement (.rori x0 x1 x2) := fun _ _ _ => oneWord rfl rfl rfl rfl
theorem lhi : ∀ x0 x1, Statement (.lhi x0 x1) := fun _ _ => oneWord rfl rfl rfl rfl
theorem apc : ∀ x0 x1, Statement (.apc x0 x1) := fun _ _ => oneWord rfl rfl rfl rfl
theorem lb : ∀ x0 x1 x2, Statement (.lb x0 x1 x2) := fun _ _ _ => oneWord rfl rfl rfl rfl
theorem lh : ∀ x0 x1 x2, Statement (.lh x0 x1 x2) := fun _ _ _ => oneWord rfl rfl rfl rfl
theorem lw : ∀ x0 x1 x2, Statement (.lw x0 x1 x2) := fun _ _ _ => oneWord rfl rfl rfl rfl
theorem ld : ∀ x0 x1 x2, Statement (.ld x0 x1 x2) := fun _ _ _ => oneWord rfl rfl rfl rfl
theorem lbu : ∀ x0 x1 x2, Statement (.lbu x0 x1 x2) := fun _ _ _ => oneWord rfl rfl rfl rfl
theorem lhu : ∀ x0 x1 x2, Statement (.lhu x0 x1 x2) := fun _ _ _ => oneWord rfl rfl rfl rfl
theorem lwu : ∀ x0 x1 x2, Statement (.lwu x0 x1 x2) := fun _ _ _ => oneWord rfl rfl rfl rfl
theorem ldsync : ∀ x0 x1 x2, Statement (.ldsync x0 x1 x2) := fun _ _ _ => oneWord rfl rfl rfl rfl
theorem sb : ∀ x0 x1 x2, Statement (.sb x0 x1 x2) := fun _ _ _ => oneWord rfl rfl rfl rfl
theorem sh : ∀ x0 x1 x2, Statement (.sh x0 x1 x2) := fun _ _ _ => oneWord rfl rfl rfl rfl
theorem sw : ∀ x0 x1 x2, Statement (.sw x0 x1 x2) := fun _ _ _ => oneWord rfl rfl rfl rfl
theorem sd : ∀ x0 x1 x2, Statement (.sd x0 x1 x2) := fun _ _ _ => oneWord rfl rfl rfl rfl
theorem fclr : ∀ x0 x1, Statement (.fclr x0 x1) := fun _ _ => oneWord rfl rfl rfl rfl
theorem amoSwap : ∀ x0 x1 x2 x3 x4 x5, Statement (.amoSwap x0 x1 x2 x3 x4 x5) := fun _ _ _ _ _ _ => oneWord rfl rfl rfl rfl
theorem amoAdd : ∀ x0 x1 x2 x3 x4 x5, Statement (.amoAdd x0 x1 x2 x3 x4 x5) := fun _ _ _ _ _ _ => oneWord rfl rfl rfl rfl
theorem amoAnd : ∀ x0 x1 x2 x3 x4 x5, Statement (.amoAnd x0 x1 x2 x3 x4 x5) := fun _ _ _ _ _ _ => oneWord rfl rfl rfl rfl
theorem amoOr : ∀ x0 x1 x2 x3 x4 x5, Statement (.amoOr x0 x1 x2 x3 x4 x5) := fun _ _ _ _ _ _ => oneWord rfl rfl rfl rfl
theorem amoXor : ∀ x0 x1 x2 x3 x4 x5, Statement (.amoXor x0 x1 x2 x3 x4 x5) := fun _ _ _ _ _ _ => oneWord rfl rfl rfl rfl
theorem amoMin : ∀ x0 x1 x2 x3 x4 x5, Statement (.amoMin x0 x1 x2 x3 x4 x5) := fun _ _ _ _ _ _ => oneWord rfl rfl rfl rfl
theorem amoMax : ∀ x0 x1 x2 x3 x4 x5, Statement (.amoMax x0 x1 x2 x3 x4 x5) := fun _ _ _ _ _ _ => oneWord rfl rfl rfl rfl
theorem amoMinu : ∀ x0 x1 x2 x3 x4 x5, Statement (.amoMinu x0 x1 x2 x3 x4 x5) := fun _ _ _ _ _ _ => oneWord rfl rfl rfl rfl
theorem amoMaxu : ∀ x0 x1 x2 x3 x4 x5, Statement (.amoMaxu x0 x1 x2 x3 x4 x5) := fun _ _ _ _ _ _ => oneWord rfl rfl rfl rfl
theorem amoCas : ∀ x0 x1 x2 x3 x4 x5, Statement (.amoCas x0 x1 x2 x3 x4 x5) := fun _ _ _ _ _ _ => oneWord rfl rfl rfl rfl
theorem amoFadd : ∀ x0 x1 x2 x3 x4 x5, Statement (.amoFadd x0 x1 x2 x3 x4 x5) := fun _ _ _ _ _ _ => oneWord rfl rfl rfl rfl
theorem fence : ∀ x0 x1 x2, Statement (.fence x0 x1 x2) := fun _ _ _ => oneWord rfl rfl rfl rfl
theorem beq : ∀ x0 x1 x2, Statement (.beq x0 x1 x2) := fun _ _ _ => oneWord rfl rfl rfl rfl
theorem bne : ∀ x0 x1 x2, Statement (.bne x0 x1 x2) := fun _ _ _ => oneWord rfl rfl rfl rfl
theorem blt : ∀ x0 x1 x2, Statement (.blt x0 x1 x2) := fun _ _ _ => oneWord rfl rfl rfl rfl
theorem bge : ∀ x0 x1 x2, Statement (.bge x0 x1 x2) := fun _ _ _ => oneWord rfl rfl rfl rfl
theorem bltu : ∀ x0 x1 x2, Statement (.bltu x0 x1 x2) := fun _ _ _ => oneWord rfl rfl rfl rfl
theorem bgeu : ∀ x0 x1 x2, Statement (.bgeu x0 x1 x2) := fun _ _ _ => oneWord rfl rfl rfl rfl
theorem jal : ∀ x0 x1, Statement (.jal x0 x1) := fun _ _ => oneWord rfl rfl rfl rfl
theorem jalr : ∀ x0 x1 x2, Statement (.jalr x0 x1 x2) := fun _ _ _ => oneWord rfl rfl rfl rfl
theorem getc : ∀ x0 x1, Statement (.getc x0 x1) := fun _ _ => oneWord rfl rfl rfl rfl
theorem putc : ∀ x0 x1, Statement (.putc x0 x1) := fun _ _ => oneWord rfl rfl rfl rfl
theorem trapSoft : ∀ x0, Statement (.trapSoft x0) := fun _ => oneWord rfl rfl rfl rfl
theorem tlbi : ∀ x0 x1, Statement (.tlbi x0 x1) := fun _ _ => oneWord rfl rfl rfl rfl
theorem launch : ∀ x0 x1 x2, Statement (.launch x0 x1 x2) := fun _ _ _ => oneWord rfl rfl rfl rfl
theorem testScan : ∀ x0 x1, Statement (.testScan x0 x1) := fun _ _ => oneWord rfl rfl rfl rfl
theorem swb : ∀ x0 x1, Statement (.swb x0 x1) := fun _ _ => oneWord rfl rfl rfl rfl
theorem dfin : ∀ x0 x1, Statement (.dfin x0 x1) := fun _ _ => oneWord rfl rfl rfl rfl
theorem route : ∀ x0 x1, Statement (.route x0 x1) := fun _ _ => oneWord rfl rfl rfl rfl
theorem barDef : ∀ x0 x1, Statement (.barDef x0 x1) := fun _ _ => oneWord rfl rfl rfl rfl
theorem barArr : ∀ x0, Statement (.barArr x0) := fun _ => oneWord rfl rfl rfl rfl
theorem barWait : ∀ x0, Statement (.barWait x0) := fun _ => oneWord rfl rfl rfl rfl
theorem barAw : ∀ x0, Statement (.barAw x0) := fun _ => oneWord rfl rfl rfl rfl
theorem semSig : ∀ x0 x1, Statement (.semSig x0 x1) := fun _ _ => oneWord rfl rfl rfl rfl
theorem semWait : ∀ x0 x1, Statement (.semWait x0 x1) := fun _ _ => oneWord rfl rfl rfl rfl
theorem semPoll : ∀ x0 x1, Statement (.semPoll x0 x1) := fun _ _ => oneWord rfl rfl rfl rfl
theorem postCall : ∀ x0 x1 x2, Statement (.postCall x0 x1 x2) := fun _ _ _ => oneWord rfl rfl rfl rfl
theorem awaitCall : ∀ x0 x1, Statement (.awaitCall x0 x1) := fun _ _ => oneWord rfl rfl rfl rfl
theorem probeCall : ∀ x0 x1, Statement (.probeCall x0 x1) := fun _ _ => oneWord rfl rfl rfl rfl
theorem otok : ∀ x0 x1, Statement (.otok x0 x1) := fun _ _ => oneWord rfl rfl rfl rfl
theorem xflush : ∀ x0, Statement (.xflush x0) := fun _ => oneWord rfl rfl rfl rfl
theorem vadd : ∀ x0 x1 x2 x3, Statement (.vadd x0 x1 x2 x3) := fun _ _ _ _ => oneWord rfl rfl rfl rfl
theorem vsub : ∀ x0 x1 x2 x3, Statement (.vsub x0 x1 x2 x3) := fun _ _ _ _ => oneWord rfl rfl rfl rfl
theorem vrsub : ∀ x0 x1 x2 x3, Statement (.vrsub x0 x1 x2 x3) := fun _ _ _ _ => oneWord rfl rfl rfl rfl
theorem vmul : ∀ x0 x1 x2 x3, Statement (.vmul x0 x1 x2 x3) := fun _ _ _ _ => oneWord rfl rfl rfl rfl
theorem vmulh : ∀ x0 x1 x2 x3, Statement (.vmulh x0 x1 x2 x3) := fun _ _ _ _ => oneWord rfl rfl rfl rfl
theorem vdiv : ∀ x0 x1 x2 x3, Statement (.vdiv x0 x1 x2 x3) := fun _ _ _ _ => oneWord rfl rfl rfl rfl
theorem vrem : ∀ x0 x1 x2 x3, Statement (.vrem x0 x1 x2 x3) := fun _ _ _ _ => oneWord rfl rfl rfl rfl
theorem vavg : ∀ x0 x1 x2 x3, Statement (.vavg x0 x1 x2 x3) := fun _ _ _ _ => oneWord rfl rfl rfl rfl
theorem vmin : ∀ x0 x1 x2 x3, Statement (.vmin x0 x1 x2 x3) := fun _ _ _ _ => oneWord rfl rfl rfl rfl
theorem vmax : ∀ x0 x1 x2 x3, Statement (.vmax x0 x1 x2 x3) := fun _ _ _ _ => oneWord rfl rfl rfl rfl
theorem vand : ∀ x0 x1 x2 x3, Statement (.vand x0 x1 x2 x3) := fun _ _ _ _ => oneWord rfl rfl rfl rfl
theorem vor : ∀ x0 x1 x2 x3, Statement (.vor x0 x1 x2 x3) := fun _ _ _ _ => oneWord rfl rfl rfl rfl
theorem vxor : ∀ x0 x1 x2 x3, Statement (.vxor x0 x1 x2 x3) := fun _ _ _ _ => oneWord rfl rfl rfl rfl
theorem vsll : ∀ x0 x1 x2 x3, Statement (.vsll x0 x1 x2 x3) := fun _ _ _ _ => oneWord rfl rfl rfl rfl
theorem vsrl : ∀ x0 x1 x2 x3, Statement (.vsrl x0 x1 x2 x3) := fun _ _ _ _ => oneWord rfl rfl rfl rfl
theorem vsra : ∀ x0 x1 x2 x3, Statement (.vsra x0 x1 x2 x3) := fun _ _ _ _ => oneWord rfl rfl rfl rfl
theorem vadds : ∀ x0 x1 x2 x3, Statement (.vadds x0 x1 x2 x3) := fun _ _ _ _ => oneWord rfl rfl rfl rfl
theorem vsubs : ∀ x0 x1 x2 x3, Statement (.vsubs x0 x1 x2 x3) := fun _ _ _ _ => oneWord rfl rfl rfl rfl
theorem vwmul : ∀ x0 x1 x2 x3, Statement (.vwmul x0 x1 x2 x3) := fun _ _ _ _ => oneWord rfl rfl rfl rfl
theorem vdot4 : ∀ x0 x1 x2 x3, Statement (.vdot4 x0 x1 x2 x3) := fun _ _ _ _ => oneWord rfl rfl rfl rfl
theorem vceq : ∀ x0 x1 x2 x3, Statement (.vceq x0 x1 x2 x3) := fun _ _ _ _ => oneWord rfl rfl rfl rfl
theorem vcne : ∀ x0 x1 x2 x3, Statement (.vcne x0 x1 x2 x3) := fun _ _ _ _ => oneWord rfl rfl rfl rfl
theorem vclt : ∀ x0 x1 x2 x3, Statement (.vclt x0 x1 x2 x3) := fun _ _ _ _ => oneWord rfl rfl rfl rfl
theorem vcle : ∀ x0 x1 x2 x3, Statement (.vcle x0 x1 x2 x3) := fun _ _ _ _ => oneWord rfl rfl rfl rfl
theorem vsel : ∀ x0 x1 x2 x3, Statement (.vsel x0 x1 x2 x3) := fun _ _ _ _ => oneWord rfl rfl rfl rfl
theorem vmv : ∀ x0 x1 x2, Statement (.vmv x0 x1 x2) := fun _ _ _ => oneWord rfl rfl rfl rfl
theorem vabs : ∀ x0 x1 x2, Statement (.vabs x0 x1 x2) := fun _ _ _ => oneWord rfl rfl rfl rfl
theorem vneg : ∀ x0 x1 x2, Statement (.vneg x0 x1 x2) := fun _ _ _ => oneWord rfl rfl rfl rfl
theorem vsqrt : ∀ x0 x1 x2, Statement (.vsqrt x0 x1 x2) := fun _ _ _ => oneWord rfl rfl rfl rfl
theorem vrcp : ∀ x0 x1 x2, Statement (.vrcp x0 x1 x2) := fun _ _ _ => oneWord rfl rfl rfl rfl
theorem vexp2 : ∀ x0 x1 x2, Statement (.vexp2 x0 x1 x2) := fun _ _ _ => oneWord rfl rfl rfl rfl
theorem vlog2 : ∀ x0 x1 x2, Statement (.vlog2 x0 x1 x2) := fun _ _ _ => oneWord rfl rfl rfl rfl
theorem vaddVs : ∀ x0 x1 x2 x3, Statement (.vaddVs x0 x1 x2 x3) := fun _ _ _ _ => oneWord rfl rfl rfl rfl
theorem vsubVs : ∀ x0 x1 x2 x3, Statement (.vsubVs x0 x1 x2 x3) := fun _ _ _ _ => oneWord rfl rfl rfl rfl
theorem vrsubVs : ∀ x0 x1 x2 x3, Statement (.vrsubVs x0 x1 x2 x3) := fun _ _ _ _ => oneWord rfl rfl rfl rfl
theorem vmulVs : ∀ x0 x1 x2 x3, Statement (.vmulVs x0 x1 x2 x3) := fun _ _ _ _ => oneWord rfl rfl rfl rfl
theorem vmulhVs : ∀ x0 x1 x2 x3, Statement (.vmulhVs x0 x1 x2 x3) := fun _ _ _ _ => oneWord rfl rfl rfl rfl
theorem vdivVs : ∀ x0 x1 x2 x3, Statement (.vdivVs x0 x1 x2 x3) := fun _ _ _ _ => oneWord rfl rfl rfl rfl
theorem vremVs : ∀ x0 x1 x2 x3, Statement (.vremVs x0 x1 x2 x3) := fun _ _ _ _ => oneWord rfl rfl rfl rfl
theorem vavgVs : ∀ x0 x1 x2 x3, Statement (.vavgVs x0 x1 x2 x3) := fun _ _ _ _ => oneWord rfl rfl rfl rfl
theorem vminVs : ∀ x0 x1 x2 x3, Statement (.vminVs x0 x1 x2 x3) := fun _ _ _ _ => oneWord rfl rfl rfl rfl
theorem vmaxVs : ∀ x0 x1 x2 x3, Statement (.vmaxVs x0 x1 x2 x3) := fun _ _ _ _ => oneWord rfl rfl rfl rfl
theorem vandVs : ∀ x0 x1 x2 x3, Statement (.vandVs x0 x1 x2 x3) := fun _ _ _ _ => oneWord rfl rfl rfl rfl
theorem vorVs : ∀ x0 x1 x2 x3, Statement (.vorVs x0 x1 x2 x3) := fun _ _ _ _ => oneWord rfl rfl rfl rfl
theorem vxorVs : ∀ x0 x1 x2 x3, Statement (.vxorVs x0 x1 x2 x3) := fun _ _ _ _ => oneWord rfl rfl rfl rfl
theorem vsllVs : ∀ x0 x1 x2 x3, Statement (.vsllVs x0 x1 x2 x3) := fun _ _ _ _ => oneWord rfl rfl rfl rfl
theorem vsrlVs : ∀ x0 x1 x2 x3, Statement (.vsrlVs x0 x1 x2 x3) := fun _ _ _ _ => oneWord rfl rfl rfl rfl
theorem vsraVs : ∀ x0 x1 x2 x3, Statement (.vsraVs x0 x1 x2 x3) := fun _ _ _ _ => oneWord rfl rfl rfl rfl
theorem mif : ∀ x0, Statement (.mif x0) := fun _ => oneWord rfl rfl rfl rfl
theorem mbrk : ∀ x0, Statement (.mbrk x0) := fun _ => oneWord rfl rfl rfl rfl
theorem mand : ∀ x0 x1 x2, Statement (.mand x0 x1 x2) := fun _ _ _ => oneWord rfl rfl rfl rfl
theorem mor : ∀ x0 x1 x2, Statement (.mor x0 x1 x2) := fun _ _ _ => oneWord rfl rfl rfl rfl
theorem mxor : ∀ x0 x1 x2, Statement (.mxor x0 x1 x2) := fun _ _ _ => oneWord rfl rfl rfl rfl
theorem mnot : ∀ x0 x1, Statement (.mnot x0 x1) := fun _ _ => oneWord rfl rfl rfl rfl
theorem vslideup : ∀ x0 x1 x2 x3, Statement (.vslideup x0 x1 x2 x3) := fun _ _ _ _ => oneWord rfl rfl rfl rfl
theorem vslidedn : ∀ x0 x1 x2 x3, Statement (.vslidedn x0 x1 x2 x3) := fun _ _ _ _ => oneWord rfl rfl rfl rfl
theorem vperm : ∀ x0 x1 x2 x3, Statement (.vperm x0 x1 x2 x3) := fun _ _ _ _ => oneWord rfl rfl rfl rfl
theorem vredO : ∀ x0 x1 x2 x3, Statement (.vredO x0 x1 x2 x3) := fun _ _ _ _ => oneWord rfl rfl rfl rfl
theorem vredR : ∀ x0 x1 x2 x3, Statement (.vredR x0 x1 x2 x3) := fun _ _ _ _ => oneWord rfl rfl rfl rfl
theorem vscan : ∀ x0 x1 x2 x3, Statement (.vscan x0 x1 x2 x3) := fun _ _ _ _ => oneWord rfl rfl rfl rfl
theorem vrecMul : ∀ x0 x1 x2 x3, Statement (.vrecMul x0 x1 x2 x3) := fun _ _ _ _ => oneWord rfl rfl rfl rfl
theorem vrecMax : ∀ x0 x1 x2 x3, Statement (.vrecMax x0 x1 x2 x3) := fun _ _ _ _ => oneWord rfl rfl rfl rfl
theorem vext : ∀ x0 x1 x2, Statement (.vext x0 x1 x2) := fun _ _ _ => oneWord rfl rfl rfl rfl
theorem vld : ∀ x0 x1 x2, Statement (.vld x0 x1 x2) := fun _ _ _ => oneWord rfl rfl rfl rfl
theorem vlds : ∀ x0 x1 x2 x3, Statement (.vlds x0 x1 x2 x3) := fun _ _ _ _ => oneWord rfl rfl rfl rfl
theorem vldff : ∀ x0 x1 x2, Statement (.vldff x0 x1 x2) := fun _ _ _ => oneWord rfl rfl rfl rfl
theorem vpop : ∀ x0 x1 x2, Statement (.vpop x0 x1 x2) := fun _ _ _ => oneWord rfl rfl rfl rfl
theorem vst : ∀ x0 x1 x2, Statement (.vst x0 x1 x2) := fun _ _ _ => oneWord rfl rfl rfl rfl
theorem vsts : ∀ x0 x1 x2 x3, Statement (.vsts x0 x1 x2 x3) := fun _ _ _ _ => oneWord rfl rfl rfl rfl
theorem vpush : ∀ x0 x1 x2, Statement (.vpush x0 x1 x2) := fun _ _ _ => oneWord rfl rfl rfl rfl
theorem vsetl : ∀ x0 x1 x2, Statement (.vsetl x0 x1 x2) := fun _ _ _ => oneWord rfl rfl rfl rfl
theorem vtag : ∀ x0 x1, Statement (.vtag x0 x1) := fun _ _ => oneWord rfl rfl rfl rfl
theorem fadd : ∀ x0 x1 x2 x3 x4, Statement (.fadd x0 x1 x2 x3 x4) := fun _ _ _ _ _ => oneWord rfl rfl rfl rfl
theorem fsub : ∀ x0 x1 x2 x3 x4, Statement (.fsub x0 x1 x2 x3 x4) := fun _ _ _ _ _ => oneWord rfl rfl rfl rfl
theorem fmul : ∀ x0 x1 x2 x3 x4, Statement (.fmul x0 x1 x2 x3 x4) := fun _ _ _ _ _ => oneWord rfl rfl rfl rfl
theorem fdiv : ∀ x0 x1 x2 x3 x4, Statement (.fdiv x0 x1 x2 x3 x4) := fun _ _ _ _ _ => oneWord rfl rfl rfl rfl
theorem fsqrt : ∀ x0 x1 x2 x3, Statement (.fsqrt x0 x1 x2 x3) := fun _ _ _ _ => oneWord rfl rfl rfl rfl
theorem fmin : ∀ x0 x1 x2 x3, Statement (.fmin x0 x1 x2 x3) := fun _ _ _ _ => oneWord rfl rfl rfl rfl
theorem fmax : ∀ x0 x1 x2 x3, Statement (.fmax x0 x1 x2 x3) := fun _ _ _ _ => oneWord rfl rfl rfl rfl
theorem feq : ∀ x0 x1 x2 x3, Statement (.feq x0 x1 x2 x3) := fun _ _ _ _ => oneWord rfl rfl rfl rfl
theorem flt : ∀ x0 x1 x2 x3, Statement (.flt x0 x1 x2 x3) := fun _ _ _ _ => oneWord rfl rfl rfl rfl
theorem fle : ∀ x0 x1 x2 x3, Statement (.fle x0 x1 x2 x3) := fun _ _ _ _ => oneWord rfl rfl rfl rfl
theorem fclass : ∀ x0 x1 x2, Statement (.fclass x0 x1 x2) := fun _ _ _ => oneWord rfl rfl rfl rfl
theorem fcvt : ∀ x0 x1 x2 x3 x4 x5, Statement (.fcvt x0 x1 x2 x3 x4 x5) := fun _ _ _ _ _ _ => oneWord rfl rfl rfl rfl
theorem nop : ∀ x0, Statement (.nop x0) := fun _ => oneWord rfl rfl rfl rfl
theorem pfL1 : ∀ x0, Statement (.pfL1 x0) := fun _ => oneWord rfl rfl rfl rfl
theorem pfL2 : ∀ x0, Statement (.pfL2 x0) := fun _ => oneWord rfl rfl rfl rfl
theorem pfSt : ∀ x0, Statement (.pfSt x0) := fun _ => oneWord rfl rfl rfl rfl
theorem limm : ∀ x0 x1, Statement (.limm x0 x1) := fun _ _ => twoWords rfl rfl rfl rfl rfl rfl
theorem lbL : ∀ x0 x1 x2, Statement (.lbL x0 x1 x2) := fun _ _ _ => twoWords rfl rfl rfl rfl rfl rfl
theorem lhL : ∀ x0 x1 x2, Statement (.lhL x0 x1 x2) := fun _ _ _ => twoWords rfl rfl rfl rfl rfl rfl
theorem lwL : ∀ x0 x1 x2, Statement (.lwL x0 x1 x2) := fun _ _ _ => twoWords rfl rfl rfl rfl rfl rfl
theorem ldL : ∀ x0 x1 x2, Statement (.ldL x0 x1 x2) := fun _ _ _ => twoWords rfl rfl rfl rfl rfl rfl
theorem lbuL : ∀ x0 x1 x2, Statement (.lbuL x0 x1 x2) := fun _ _ _ => twoWords rfl rfl rfl rfl rfl rfl
theorem lhuL : ∀ x0 x1 x2, Statement (.lhuL x0 x1 x2) := fun _ _ _ => twoWords rfl rfl rfl rfl rfl rfl
theorem lwuL : ∀ x0 x1 x2, Statement (.lwuL x0 x1 x2) := fun _ _ _ => twoWords rfl rfl rfl rfl rfl rfl
theorem ldsyncL : ∀ x0 x1 x2, Statement (.ldsyncL x0 x1 x2) := fun _ _ _ => twoWords rfl rfl rfl rfl rfl rfl
theorem sbL : ∀ x0 x1 x2, Statement (.sbL x0 x1 x2) := fun _ _ _ => twoWords rfl rfl rfl rfl rfl rfl
theorem shL : ∀ x0 x1 x2, Statement (.shL x0 x1 x2) := fun _ _ _ => twoWords rfl rfl rfl rfl rfl rfl
theorem swL : ∀ x0 x1 x2, Statement (.swL x0 x1 x2) := fun _ _ _ => twoWords rfl rfl rfl rfl rfl rfl
theorem sdL : ∀ x0 x1 x2, Statement (.sdL x0 x1 x2) := fun _ _ _ => twoWords rfl rfl rfl rfl rfl rfl
theorem fclrL : ∀ x0 x1, Statement (.fclrL x0 x1) := fun _ _ => twoWords rfl rfl rfl rfl rfl rfl
theorem jalL : ∀ x0 x1, Statement (.jalL x0 x1) := fun _ _ => twoWords rfl rfl rfl rfl rfl rfl
theorem fma : ∀ x0 x1 x2 x3 x4 x5, Statement (.fma x0 x1 x2 x3 x4 x5) := fun _ _ _ _ _ _ => twoWords rfl rfl rfl rfl rfl rfl
theorem fms : ∀ x0 x1 x2 x3 x4 x5, Statement (.fms x0 x1 x2 x3 x4 x5) := fun _ _ _ _ _ _ => twoWords rfl rfl rfl rfl rfl rfl
theorem fnma : ∀ x0 x1 x2 x3 x4 x5, Statement (.fnma x0 x1 x2 x3 x4 x5) := fun _ _ _ _ _ _ => twoWords rfl rfl rfl rfl rfl rfl
theorem fnms : ∀ x0 x1 x2 x3 x4 x5, Statement (.fnms x0 x1 x2 x3 x4 x5) := fun _ _ _ _ _ _ => twoWords rfl rfl rfl rfl rfl rfl
theorem vfma : ∀ x0 x1 x2 x3 x4 x5, Statement (.vfma x0 x1 x2 x3 x4 x5) := fun _ _ _ _ _ _ => twoWords rfl rfl rfl rfl rfl rfl
theorem vfms : ∀ x0 x1 x2 x3 x4 x5, Statement (.vfms x0 x1 x2 x3 x4 x5) := fun _ _ _ _ _ _ => twoWords rfl rfl rfl rfl rfl rfl
theorem vfnma : ∀ x0 x1 x2 x3 x4 x5, Statement (.vfnma x0 x1 x2 x3 x4 x5) := fun _ _ _ _ _ _ => twoWords rfl rfl rfl rfl rfl rfl
theorem vfnms : ∀ x0 x1 x2 x3 x4 x5, Statement (.vfnms x0 x1 x2 x3 x4 x5) := fun _ _ _ _ _ _ => twoWords rfl rfl rfl rfl rfl rfl
theorem vmopO : ∀ x0 x1 x2 x3 x4, Statement (.vmopO x0 x1 x2 x3 x4) := fun _ _ _ _ _ => twoWords rfl rfl rfl rfl rfl rfl
theorem vmopR : ∀ x0 x1 x2 x3 x4, Statement (.vmopR x0 x1 x2 x3 x4) := fun _ _ _ _ _ => twoWords rfl rfl rfl rfl rfl rfl
theorem vmzero : ∀ x0, Statement (.vmzero x0) := fun _ => twoWords rfl rfl rfl rfl rfl rfl
theorem vmrd : ∀ x0, Statement (.vmrd x0) := fun _ => twoWords rfl rfl rfl rfl rfl rfl
theorem vldx : ∀ x0 x1 x2 x3 x4, Statement (.vldx x0 x1 x2 x3 x4) := fun _ _ _ _ _ => twoWords rfl rfl rfl rfl rfl rfl
theorem vstx : ∀ x0 x1 x2 x3 x4, Statement (.vstx x0 x1 x2 x3 x4) := fun _ _ _ _ _ => twoWords rfl rfl rfl rfl rfl rfl
theorem vstxo : ∀ x0 x1 x2 x3 x4, Statement (.vstxo x0 x1 x2 x3 x4) := fun _ _ _ _ _ => twoWords rfl rfl rfl rfl rfl rfl
theorem vamoSwap : ∀ x0 x1 x2 x3 x4 x5 x6 x7 x8, Statement (.vamoSwap x0 x1 x2 x3 x4 x5 x6 x7 x8) := fun _ _ _ _ _ _ _ _ _ => twoWords rfl rfl rfl rfl rfl rfl
theorem vamoAdd : ∀ x0 x1 x2 x3 x4 x5 x6 x7 x8, Statement (.vamoAdd x0 x1 x2 x3 x4 x5 x6 x7 x8) := fun _ _ _ _ _ _ _ _ _ => twoWords rfl rfl rfl rfl rfl rfl
theorem vamoAnd : ∀ x0 x1 x2 x3 x4 x5 x6 x7 x8, Statement (.vamoAnd x0 x1 x2 x3 x4 x5 x6 x7 x8) := fun _ _ _ _ _ _ _ _ _ => twoWords rfl rfl rfl rfl rfl rfl
theorem vamoOr : ∀ x0 x1 x2 x3 x4 x5 x6 x7 x8, Statement (.vamoOr x0 x1 x2 x3 x4 x5 x6 x7 x8) := fun _ _ _ _ _ _ _ _ _ => twoWords rfl rfl rfl rfl rfl rfl
theorem vamoXor : ∀ x0 x1 x2 x3 x4 x5 x6 x7 x8, Statement (.vamoXor x0 x1 x2 x3 x4 x5 x6 x7 x8) := fun _ _ _ _ _ _ _ _ _ => twoWords rfl rfl rfl rfl rfl rfl
theorem vamoMin : ∀ x0 x1 x2 x3 x4 x5 x6 x7 x8, Statement (.vamoMin x0 x1 x2 x3 x4 x5 x6 x7 x8) := fun _ _ _ _ _ _ _ _ _ => twoWords rfl rfl rfl rfl rfl rfl
theorem vamoMax : ∀ x0 x1 x2 x3 x4 x5 x6 x7 x8, Statement (.vamoMax x0 x1 x2 x3 x4 x5 x6 x7 x8) := fun _ _ _ _ _ _ _ _ _ => twoWords rfl rfl rfl rfl rfl rfl
theorem vamoMinu : ∀ x0 x1 x2 x3 x4 x5 x6 x7 x8, Statement (.vamoMinu x0 x1 x2 x3 x4 x5 x6 x7 x8) := fun _ _ _ _ _ _ _ _ _ => twoWords rfl rfl rfl rfl rfl rfl
theorem vamoMaxu : ∀ x0 x1 x2 x3 x4 x5 x6 x7 x8, Statement (.vamoMaxu x0 x1 x2 x3 x4 x5 x6 x7 x8) := fun _ _ _ _ _ _ _ _ _ => twoWords rfl rfl rfl rfl rfl rfl
theorem vamoFadd : ∀ x0 x1 x2 x3 x4 x5 x6 x7 x8, Statement (.vamoFadd x0 x1 x2 x3 x4 x5 x6 x7 x8) := fun _ _ _ _ _ _ _ _ _ => twoWords rfl rfl rfl rfl rfl rfl
theorem vplane : ∀ x0 x1 x2 x3, Statement (.vplane x0 x1 x2 x3) := fun _ _ _ _ => twoWords rfl rfl rfl rfl rfl rfl
theorem vcvt : ∀ x0 x1 x2 x3 x4, Statement (.vcvt x0 x1 x2 x3 x4) := fun _ _ _ _ _ => twoWords rfl rfl rfl rfl rfl rfl
theorem vredmax : ∀ x0 x1 x2, Statement (.vredmax x0 x1 x2) := fun _ _ _ => twoWords rfl rfl rfl rfl rfl rfl
theorem vredmin : ∀ x0 x1 x2, Statement (.vredmin x0 x1 x2) := fun _ _ _ => twoWords rfl rfl rfl rfl rfl rfl
theorem vins : ∀ x0 x1 x2, Statement (.vins x0 x1 x2) := fun _ _ _ => twoWords rfl rfl rfl rfl rfl rfl
theorem vbcast : ∀ x0 x1, Statement (.vbcast x0 x1) := fun _ _ => twoWords rfl rfl rfl rfl rfl rfl
theorem viota : ∀ x0, Statement (.viota x0) := fun _ => twoWords rfl rfl rfl rfl rfl rfl
theorem vcompress : ∀ x0 x1 x2, Statement (.vcompress x0 x1 x2) := fun _ _ _ => twoWords rfl rfl rfl rfl rfl rfl
theorem mpopc : ∀ x0 x1, Statement (.mpopc x0 x1) := fun _ _ => twoWords rfl rfl rfl rfl rfl rfl
theorem mfirst : ∀ x0 x1, Statement (.mfirst x0 x1) := fun _ _ => twoWords rfl rfl rfl rfl rfl rfl
theorem vclz : ∀ x0 x1, Statement (.vclz x0 x1) := fun _ _ => twoWords rfl rfl rfl rfl rfl rfl
theorem vpopc : ∀ x0 x1, Statement (.vpopc x0 x1) := fun _ _ => twoWords rfl rfl rfl rfl rfl rfl
theorem postv : ∀ x0 x1 x2 x3 x4, Statement (.postv x0 x1 x2 x3 x4) := fun _ _ _ _ _ => twoWords rfl rfl rfl rfl rfl rfl
theorem vpopNw : ∀ x0 x1 x2 x3 x4, Statement (.vpopNw x0 x1 x2 x3 x4) := fun _ _ _ _ _ => twoWords rfl rfl rfl rfl rfl rfl
theorem vpushNw : ∀ x0 x1 x2 x3 x4, Statement (.vpushNw x0 x1 x2 x3 x4) := fun _ _ _ _ _ => twoWords rfl rfl rfl rfl rfl rfl
theorem hint : ∀ x0 x1, Statement (.hint x0 x1) := fun _ _ => oneWord rfl rfl rfl rfl
theorem twoWordHint : ∀ x0 x1, Statement (.twoWordHint x0 x1) := fun _ _ => twoWords rfl rfl rfl rfl rfl rfl
theorem illegalInstruction : ∀ x0 x1, Statement (.illegalInstruction x0 x1) := fun _ _ => noWord rfl rfl
theorem tret : Statement (.tret) := oneWord rfl rfl rfl rfl
theorem idle : Statement (.idle) := oneWord rfl rfl rfl rfl
theorem endStrand : Statement (.endStrand) := oneWord rfl rfl rfl rfl
theorem yield : Statement (.yield) := oneWord rfl rfl rfl rfl
theorem brk : Statement (.brk) := oneWord rfl rfl rfl rfl
theorem tlbia : Statement (.tlbia) := oneWord rfl rfl rfl rfl
theorem ion : Statement (.ion) := oneWord rfl rfl rfl rfl
theorem ioff : Statement (.ioff) := oneWord rfl rfl rfl rfl
theorem melse : Statement (.melse) := oneWord rfl rfl rfl rfl
theorem mend : Statement (.mend) := oneWord rfl rfl rfl rfl
theorem asyncTrapEntry : Statement (.asyncTrapEntry) := noWord rfl rfl
theorem wdogExpiry : Statement (.wdogExpiry) := noWord rfl rfl
theorem vlenWrite : Statement (.vlenWrite) := noWord rfl rfl
theorem vtypeWrite : Statement (.vtypeWrite) := noWord rfl rfl
theorem fflagsWrite : Statement (.fflagsWrite) := noWord rfl rfl
theorem portenWrite : Statement (.portenWrite) := noWord rfl rfl
theorem vbackWrite : Statement (.vbackWrite) := noWord rfl rfl
theorem vqctlDrop : Statement (.vqctlDrop) := noWord rfl rfl
theorem detBackingWrite : Statement (.detBackingWrite) := noWord rfl rfl
theorem lqbaseWrite : Statement (.lqbaseWrite) := noWord rfl rfl
theorem lqdoor : Statement (.lqdoor) := noWord rfl rfl
theorem reloadRcb : Statement (.reloadRcb) := noWord rfl rfl
theorem killRcb : Statement (.killRcb) := noWord rfl rfl
theorem attest : Statement (.attest) := noWord rfl rfl
theorem xgrant : Statement (.xgrant) := noWord rfl rfl
theorem vfirq : Statement (.vfirq) := noWord rfl rfl
theorem createPart : Statement (.createPart) := noWord rfl rfl
theorem destroyPart : Statement (.destroyPart) := noWord rfl rfl
theorem preset : Statement (.preset) := noWord rfl rfl
theorem bhreset : Statement (.bhreset) := noWord rfl rfl
theorem bhpower : Statement (.bhpower) := noWord rfl rfl
theorem winopen : Statement (.winopen) := noWord rfl rfl
theorem winclose : Statement (.winclose) := noWord rfl rfl
theorem s2inv : Statement (.s2inv) := noWord rfl rfl
theorem setrcb : Statement (.setrcb) := noWord rfl rfl
theorem monupd : Statement (.monupd) := noWord rfl rfl
theorem poladd : Statement (.poladd) := noWord rfl rfl
theorem poldel : Statement (.poldel) := noWord rfl rfl
theorem withdrawCore : Statement (.withdrawCore) := noWord rfl rfl
theorem returnCore : Statement (.returnCore) := noWord rfl rfl
theorem removeCore : Statement (.removeCore) := noWord rfl rfl
theorem dispatchSelection : Statement (.dispatchSelection) := noWord rfl rfl
theorem launchRecordTake : Statement (.launchRecordTake) := noWord rfl rfl
theorem launchStart : Statement (.launchStart) := noWord rfl rfl
theorem fenceRecord : Statement (.fenceRecord) := noWord rfl rfl
theorem strandSwitchOut : Statement (.strandSwitchOut) := noWord rfl rfl
theorem strandResume : Statement (.strandResume) := noWord rfl rfl
theorem forcedSave : Statement (.forcedSave) := noWord rfl rfl
theorem poolExhausted : Statement (.poolExhausted) := noWord rfl rfl
theorem periodBoundary : Statement (.periodBoundary) := noWord rfl rfl
theorem parkedWordMoveIn : Statement (.parkedWordMoveIn) := noWord rfl rfl
theorem barrierTimeout : Statement (.barrierTimeout) := noWord rfl rfl
theorem matrixJob : Statement (.matrixJob) := noWord rfl rfl
theorem teCopy : Statement (.teCopy) := noWord rfl rfl
theorem teGather : Statement (.teGather) := noWord rfl rfl
theorem teMcast : Statement (.teMcast) := noWord rfl rfl
theorem tePut : Statement (.tePut) := noWord rfl rfl
theorem tePutadd : Statement (.tePutadd) := noWord rfl rfl
theorem teFeedin : Statement (.teFeedin) := noWord rfl rfl
theorem teFeedout : Statement (.teFeedout) := noWord rfl rfl
theorem feedVectorMove : Statement (.feedVectorMove) := noWord rfl rfl
theorem inboundPut : Statement (.inboundPut) := noWord rfl rfl
theorem seSort : Statement (.seSort) := noWord rfl rfl
theorem rbeRaster : Statement (.rbeRaster) := noWord rfl rfl
theorem rbeOpen : Statement (.rbeOpen) := noWord rfl rfl
theorem rbeClose : Statement (.rbeClose) := noWord rfl rfl
theorem rbeCancel : Statement (.rbeCancel) := noWord rfl rfl
theorem rbeSeqreset : Statement (.rbeSeqreset) := noWord rfl rfl
theorem fragmentBatch : Statement (.fragmentBatch) := noWord rfl rfl
theorem batchCommit : Statement (.batchCommit) := noWord rfl rfl
theorem gapTimeout : Statement (.gapTimeout) := noWord rfl rfl
theorem txuSample : Statement (.txuSample) := noWord rfl rfl
theorem rtBind : Statement (.rtBind) := noWord rfl rfl
theorem rtUnbind : Statement (.rtUnbind) := noWord rfl rfl
theorem rtDrop : Statement (.rtDrop) := noWord rfl rfl
theorem rtTrace : Statement (.rtTrace) := noWord rfl rfl
theorem rtReply : Statement (.rtReply) := noWord rfl rfl
theorem rayBatchRelease : Statement (.rayBatchRelease) := noWord rfl rfl
theorem collectionOpen : Statement (.collectionOpen) := noWord rfl rfl
theorem collectionClose : Statement (.collectionClose) := noWord rfl rfl
theorem rouDeposit : Statement (.rouDeposit) := noWord rfl rfl
theorem rouBatchRelease : Statement (.rouBatchRelease) := noWord rfl rfl
theorem hostIpaAccess : Statement (.hostIpaAccess) := noWord rfl rfl
theorem pfHypAccess : Statement (.pfHypAccess) := noWord rfl rfl
theorem pfdoor : Statement (.pfdoor) := noWord rfl rfl
theorem vfdoor : Statement (.vfdoor) := noWord rfl rfl
theorem vfsup : Statement (.vfsup) := noWord rfl rfl
theorem linkLoss : Statement (.linkLoss) := noWord rfl rfl
theorem deviceReset : Statement (.deviceReset) := noWord rfl rfl
theorem railPllFault : Statement (.railPllFault) := noWord rfl rfl
theorem bulkheadUncorrectableError : Statement (.bulkheadUncorrectableError) := noWord rfl rfl
theorem dispatcherWatchdog : Statement (.dispatcherWatchdog) := noWord rfl rfl
theorem bulkheadResetComplete : Statement (.bulkheadResetComplete) := noWord rfl rfl
theorem powerOnComplete : Statement (.powerOnComplete) := noWord rfl rfl
theorem scrubComplete : Statement (.scrubComplete) := noWord rfl rfl
theorem serviceCoreError : Statement (.serviceCoreError) := noWord rfl rfl
theorem illegalEntry : Statement (.illegalEntry) := noWord rfl rfl
theorem fetchFault : Statement (.fetchFault) := noWord rfl rfl
theorem boundedStreamLimit : Statement (.boundedStreamLimit) := noWord rfl rfl

end Sys2Proof.Laws.Encoding
end

