-- ==== Sys2Proof/Laws/Scalar.lean ====
section
/-! SUPPORT. Operands of scalar instructions: what reading and writing a register can do. -/

namespace Sys2Proof.Machine

/-- Everything that reading a register can do: pop a port, wait, trap on poison, or give the register. -/
theorem readS_run (r : SReg) (s : State) :
    (readS r).run s =
      if s.me.isPort r then (popPort (r.toNat - 28)).run s
      else if s.me.spend.getLsbD r.toNat then .error (.stall false) s
      else if s.me.spoison.getLsbD r.toNat then .error (.trap ⟨0x0F, wd (4 * r.toNat), .sup⟩ false) s
      else .ok (s.me.sreg r) s := by
  simp only [readS, run_bind, run_me]
  split <;> (try rfl)
  split <;> (try rfl)
  split <;> rfl

/-- Everything that taking a word from a port can do: wait, or remove the oldest word and remember its error mark. -/
theorem popPort_run (n : Nat) (s : State) :
    (popPort n).run s = match nth s.me.ports.toList n [] with
      | [] => .error (.stall false) s
      | (x, bad) :: rest =>
        .ok x { s with me := { s.me with ports := s.me.ports.setIfInBounds n rest, taint := s.me.taint || bad } } := by
  simp only [popPort, run_bind, run_me]
  split <;> simp_all

theorem readS_plain {r : SReg} {s : State} (h : s.me.readable r) : (readS r).run s = .ok (s.me.sreg r) s := by
  simp [readS_run, h.1, h.2.1, h.2.2]

theorem readS_poison {r : SReg} {s : State} (hp : s.me.isPort r = false) (hs : s.me.spend.getLsbD r.toNat = false)
    (h : s.me.spoison.getLsbD r.toNat = true) :
    (readS r).run s = .error (.trap ⟨0x0F, wd (4 * r.toNat), .sup⟩ false) s := by
  simp [readS_run, hp, hs, h]

theorem readS_port {r : SReg} {s : State} {x : Word × Bool} {l : List (Word × Bool)} (hp : s.me.isPort r = true)
    (h : s.me.waiting r = x :: l) : (readS r).run s = .ok x.1 { s with me := s.me.popped r } := by
  have h' : nth s.me.ports.toList (r.toNat - 28) [] = x :: l := h
  simp [readS_run, hp, popPort_run, h', Strand.popped, Strand.waiting]

/-- Everything that writing a register can do: push to a port, wait, or write. -/
theorem writeS_run (r : SReg) (x : Word) (s : State) :
    (writeS r x).run s =
      if s.me.isPort r then (pushPort (r.toNat - 28) x).run s
      else if s.me.spend.getLsbD r.toNat then .error (.stall false) s
      else .ok () { s with me := s.me.setS r x } := by
  simp only [writeS, run_bind, run_me]
  split <;> (try rfl)
  split <;> rfl

theorem writeS_plain {r : SReg} {x : Word} {s : State} (h : s.me.writable r) :
    (writeS r x).run s = .ok () { s with me := s.me.setS r x } := by
  simp [writeS_run, h.1, h.2]

theorem op2_plain {d a b : SReg} {f : Word → Word → Word} {s : State} (ha : s.me.readable a) (hb : s.me.readable b)
    (hd : s.me.writable d) :
    (op2 d a b f).run s = .ok () { s with me := s.me.setS d (f (s.me.sreg a) (s.me.sreg b)) } := by
  simp [op2, readS_plain, writeS_plain, ha, hb, hd]

theorem op1_plain {d a : SReg} {f : Word → Word} {s : State} (ha : s.me.readable a) (hd : s.me.writable d) :
    (op1 d a f).run s = .ok () { s with me := s.me.setS d (f (s.me.sreg a)) } := by
  simp [op1, readS_plain, writeS_plain, ha, hd]

/-- A register reads as written; s0 stays 0. -/
theorem Strand.sreg_setS_same (t : Strand) (r : SReg) (x : Word) : (t.setS r x).sreg r = if r = 0 then 0 else x := by
  by_cases h : r = 0
  · simp [Strand.sreg, h]
  · have hr := r.isLt
    unfold Strand.sreg Strand.setS
    rw [if_neg h, if_neg h, if_neg h]
    simp [List.getD, hr]

/-- A write leaves every other register alone. -/
theorem Strand.sreg_setS_other (t : Strand) {r q : SReg} (x : Word) (h : q ≠ r) : (t.setS r x).sreg q = t.sreg q := by
  unfold Strand.setS
  split
  · rfl
  · have hn : r.toNat ≠ q.toNat := fun e => h (BitVec.eq_of_toNat_eq e.symm)
    simp [Strand.sreg, List.getD, hn]

theorem Strand.sreg_zero (t : Strand) : t.sreg 0 = 0 := by simp [Strand.sreg]

end Sys2Proof.Machine
end

