-- ==== Sys2Proof/Tests/Slice0.lean ====
section
/-! SUPPORT. Tests: ill-formed instructions are refused, words written out from the spec's encodings decode, worked examples of
the spec come out, and for every statement with hypotheses a state that meets them. -/

set_option Elab.async false

open Sys2Proof Sys2Proof.Machine

/-- A live strand at MON on a service core, in service memory (log 12). -/
def mon : State := State.reset.withFetchWord 32 0

/-- The strand of a state, changed. -/
def on (s : State) (f : Strand → Strand) : State := { s with me := f s.me }

/-- Tables of both stages that map the first GiB of virtual addresses to itself, the second one as DET memory, and the third to host memory: stage 2 from
0 of HYP memory, stage 1 from 0x10000. -/
def tables : List Host.Cell :=
  [(0x10000, 0x12001), (0x12000, 0x12801), (0x12800, 0x3F), (0x12808, 0x400000BF), (svcAt 0x10000, 0x2001), (svcAt 0x12000, 0x2801),
   (svcAt 0x12800, 0x1F), (svcAt 0x12808, 0x4000001F),
   (0x12810, 0x8000003F), (svcAt 0x12810, 0x80000000001F)].foldl (fun m x => Mem.writeL m x.1 (leBytes 8 x.2)) []

/-- A partition with bulkhead 0. -/
def part0 : Part := newPart 0 1 8 [] [] 0

/-- A strand at SUP of that partition, on a core of bulkhead 0 with 64 KiB of scratch, under a context whose core map names its
core and the one above. -/
def dev : State := { mon with
  bhs := ⟨.owned, some 0, false, false, false⟩ :: List.replicate 31 Bulkhead.dark
  scol := [8]
  fwbase := 1
  fwsize := 1
  mem := tables
  parts := [{ part0 with rcbs := [⟨0x80000, 0, false, [0x001, 0x401]⟩] }]
  splits := [⟨1, 0, 1, 1, [0, 1], []⟩]
  slots := [⟨⟨0, 0, 0, 0⟩, 0, 1⟩]
  nextId := 10
  me := { Strand.fresh 1 (.part 0 0x80000 0x80080 1) with
    live := true, pl := .sup, place := some (⟨0, 0, 0, 0⟩, 0), ptbase := 0x10000, gvl := 2048 } }

/-- Does a run end well, with a value and a state of some kind? -/
def runIs (x : EStateM ε State α) (s : State) (p : α → State → Bool) : Bool :=
  match x.run s with
  | .ok a t => p a t
  | .error _ _ => false

theorem runIs_ok {x : EStateM ε State α} {s : State} {p : α → State → Bool} (h : runIs x s p = true) :
    ∃ a t, x.run s = .ok a t ∧ p a t = true := by
  unfold runIs at h
  split at h
  · exact ⟨_, _, ‹_›, h⟩
  · cases h

/-- An address that has a place. -/
theorem hasPlace {va : Word} {acc : Acc} {s : State} {pl : Place} {q : State → Bool}
    (h : runIs (placeE va acc) s (fun b u => match b with
      | .ok x => decide (x = pl) && q u
      | .error _ => false) = true) : ∃ u, (placeE va acc).run s = .ok (.ok pl) u ∧ q u = true := by
  obtain ⟨a, u, h1, h2⟩ := runIs_ok h
  cases a with
  | error e => cases h2
  | ok x =>
    simp only [Bool.and_eq_true, decide_eq_true_eq] at h2
    exact ⟨u, h2.1 ▸ h1, h2.2⟩

/-- An address that has none. -/
theorem noPlace {va : Word} {acc : Acc} {s : State} {e : PErr}
    (h : runIs (placeE va acc) s (fun b _ => match b with
      | .ok _ => false
      | .error x => decide (x = e)) = true) : ∃ u, (placeE va acc).run s = .ok (.error e) u := by
  obtain ⟨a, u, h1, h2⟩ := runIs_ok h
  cases a with
  | ok x => cases h2
  | error x => exact ⟨u, of_decide_eq_true h2 ▸ h1⟩

/-- A run that ends with a value in a state. -/
theorem runsTo [DecidableEq α] {x : EStateM ε State α} {s t : State} {a : α}
    (h : runIs x s (fun b u => decide (b = a) && decide (u = t)) = true) : x.run s = .ok a t := by
  obtain ⟨b, u, h1, h2⟩ := runIs_ok h
  simp only [Bool.and_eq_true, decide_eq_true_eq] at h2
  rw [h1, h2.1, h2.2]
/-- A result that is a value. -/
theorem isOk [DecidableEq α] {x : Except ε α} {a : α} (h : (match x with
    | .ok b => decide (b = a)
    | .error _ => false) = true) : x = .ok a := by
  cases x with
  | ok b => rw [of_decide_eq_true h]
  | error e => cases h

/-- Does a run end in an error? -/
def runErr (x : EStateM ε State α) (s : State) : Bool :=
  match x.run s with
  | .ok _ _ => false
  | .error _ _ => true

theorem runErr_ok {x : EStateM ε State α} {s : State} (h : runErr x s = true) : ∃ e t, x.run s = .error e t := by
  unfold runErr at h
  split at h
  · cases h
  · exact ⟨_, _, ‹_›⟩

/-- A result that is an error. -/
theorem isErr [DecidableEq ε] {x : Except ε α} {e : ε} (h : (match x with
    | .ok _ => false
    | .error f => decide (f = e)) = true) : x = .error e := by
  cases x with
  | ok b => cases h
  | error f => rw [of_decide_eq_true h]


/-! ### Well-formed instructions -/

theorem test_wf_refuses : ∀ i ∈ ([.vwmul 1 2 3 0, .vwmul 2 3 4 0, .vwmul 2 4 3 0, .vdot4 1 1 2 0, .vdot4 1 2 1 0, .vceq 0 1 2 0,
    .vcne 0 1 2 0, .vclt 0 1 2 0, .vcle 0 1 2 0, .mand 0 1 2, .mor 0 1 2, .mxor 0 1 2, .mnot 0 1, .vslideup 3 3 4 0,
    .vslidedn 3 3 4 0, .vperm 3 3 4 0, .vperm 3 4 3 0, .fadd 1 2 3 0 5, .fsub 1 2 3 0 6, .fmul 1 2 3 0 5, .fdiv 1 2 3 0 6,
    .fsqrt 1 2 0 5, .fcvt 1 2 0 1 0 5, .fcvt 1 2 1 3 0 0, .fma 1 2 3 4 0 5, .fms 1 2 3 4 0 6, .fnma 1 2 3 4 0 5,
    .fnms 1 2 3 4 0 6, .vfma 1 2 3 4 0 5, .vfms 1 2 3 4 0 6, .vfnma 1 2 3 4 0 5, .vfnms 1 2 3 4 0 6] : List Instr),
    i.wf = false := by decide

theorem test_wf_refuses_more : ∀ i ∈ ([.vmopO 4 16 17 0 0, .vmopO 8 9 17 0 0, .vmopR 8 17 15 0 0, .vmopR 1 16 17 0 0, .vmzero 7,
    .vmrd 9, .vamoSwap 1 2 3 4 0 0 0 0 0, .vamoAdd 1 2 3 4 0 0 0 0 0, .vamoAnd 1 2 3 4 0 0 0 0 0, .vamoOr 1 2 3 4 0 0 0 0 0,
    .vamoXor 1 2 3 4 0 0 0 0 0, .vamoMin 1 2 3 4 0 0 0 0 0, .vamoMax 1 2 3 4 0 0 0 0 0, .vamoMinu 1 2 3 4 0 0 0 0 0,
    .vamoMaxu 1 2 3 4 0 0 0 0 0, .vamoFadd 1 2 3 4 0 0 0 0 0, .vcvt 1 2 3 6 0, .vcompress 5 5 0, .postv 1 2 60 4 0,
    .hint 1 3] : List Instr), i.wf = false := by decide

theorem test_wf_accepts : ∀ i ∈ ([.vwmul 2 4 5 0, .vceq 1 1 2 0, .fadd 1 2 3 0 7, .fcvt 1 2 1 4 0 0, .vmopO 8 16 17 0 0,
    .vamoAdd 0 2 3 4 0 0 0 0 0, .vamoAdd 1 2 3 4 0 0 0 0 1, .postv 1 2 60 3 0, .hint 1 4] : List Instr), i.wf = true := by decide

/-! ### Words of the spec's examples -/

/-- One word: R10, R100, R200-R226, R256, R268, R274-R277, R236. -/
theorem test_decode_one : ∀ p ∈ ([(0x001CC504, .add 5 6 7), (0x000000F8, .nop 0), (0xFF08C540, .lw 5 6 (-8)),
    (0x0C614490, .vaddVs 4 5 6 3), (0x0508004C, .fence 4 2 1), (0x200E8E40, .ld 14 20 0x100), (0x0048004C, .fence 1 2 0),
    (0x0204004C, .fence 8 1 0), (0x08440570, .getc 5 0x211), (0x08414074, .putc 10 0x210), (0x0C814074, .putc 10 0x320),
    (0x04816578, .testScan 5 11), (0x01800078, .endStrand), (0x006144A8, .vsetl 4 5 6), (0x20A003A8, .vtag 3 10),
    (0x00308180, .vadd 1 2 3 0), (0xC4510288, .vclt 2 4 5 1), (0x6001048C, .vneg 4 4 0), (0x6081C69C, .vredO 6 7 8 0),
    (0xC2C2CA9C, .vrecMax 10 11 12 0), (0xE071859C, .vext 5 6 7), (0x00008098, .mif 2), (0x20000098, .melse),
    (0x40000098, .mend), (0xE0108288, .vcle 2 2 1 0), (0x41714790, .vrsubVs 7 5 23 0)] : List (Nat × Instr)),
    decodeTableWord 32 p.1 = some p.2 := by decide

/-- One word: R222-R229, R284, R303, R312, R319, R328. -/
theorem test_decode_more : ∀ p ∈ ([(0x015A82A0, .vlds 2 11 10 0), (0x020282A0, .vldff 2 10 0), (0x0C0281A4, .vst 1 10 3),
    (0x030085A0, .vpop 5 2 0), (0x030085A4, .vpush 5 2 0), (0x0000DD7C, .route 1 6), (0x009CC07C, .barDef 6 7),
    (0x0100C07C, .barArr 6), (0x0180C07C, .barWait 6), (0x0200C07C, .barAw 6), (0x029CC07C, .semSig 6 7),
    (0x031CC07C, .semWait 6 7), (0x0380C57C, .semPoll 5 6), (0x0435887C, .postCall 8 12 13), (0x0481097C, .awaitCall 9 8),
    (0x0501097C, .probeCall 9 8), (0x0582B47C, .otok 20 21), (0x0602007C, .xflush 16)] : List (Nat × Instr)),
    decodeTableWord 32 p.1 = some p.2 := by decide

/-- Two words: R95, R100, R203, R204, R212, R263-R273, R278, R284-R286. -/
theorem test_decode_two : ∀ p ∈ ([(0xACF12705, 0x000091A3, .limm 7 0x123456789), (0x8ACCC509, 0x0000091B, .ldL 5 6 0x123456),
    (0x00000111, 0x00000023, .jalL 1 0x400000), (0x201A8149, 0x00300003, .vstx 1 10 3 0 3),
    (0x601A8049, 0x00202A1F, .vamoFadd 0 10 3 7 0 2 2 0 0), (0x80050149, 0x00030003, .vplane 1 20 0 3),
    (0x00508241, 0x00000007, .vfma 2 2 5 1 0 0), (0x40608341, 0x0000000F, .vfnma 3 2 6 3 0 0),
    (0x00511045, 0x0000000F, .vmopO 16 4 5 0 3), (0x40001045, 0x00000003, .vmzero 16),
    (0x0001084D, 0x00022003, .vcvt 8 4 8 0 1), (0x1003144D, 0x0000001B, .vcompress 20 12 4),
    (0x0001494D, 0x0018000F, .vins 9 5 6), (0x0000054D, 0x00000013, .vbcast 5 0), (0x0800004D, 0x0024001F, .mpopc 9 2),
    (0x23418851, 0x00000003, .postv 8 12 16 3 2), (0x00248555, 0x00000193, .vpopNw 5 2 9 0 100)] : List (Nat × Nat × Instr)),
    decodeTableWord 64 (p.1 + p.2.1 * 2 ^ 32) = some p.2.2 := by decide

/-- R74, R97: a reserved kind, a second word as a start, a pair without its second word, an unassigned minor and major. -/
theorem test_decode_refuses : (∀ w ∈ [2, 3, 0x00000111, 0x0F800004, 0x000000C0], decodeTableWord 32 w = none) := by decide

/-! ### Worked numbers -/

/-- R217: 3.5 to a 32-bit integer, to nearest even 4 and toward zero 3, both inexact; −2^40 saturates and is invalid, and so is
−1 to an unsigned one; 65,536 to f16 toward zero is the largest finite number. -/
theorem test_fcvt : fToI f32 (cvtInt 6) 0 0x40600000 = (4, fNX) ∧ fToI f32 (cvtInt 6) 1 0x40600000 = (3, fNX) ∧
    fToI f32 (cvtInt 6) 0 0xD3800000 = (-2 ^ 31, fNV) ∧ fToI f32 (cvtInt 7) 0 0xBF800000 = (0, fNV) ∧
    fToF f32 f16 1 0x47800000 false = (0x7BFF, fOF ||| fNX) := by decide

/-! ### States that meet the hypotheses of the statements -/

/-- IntegerResults, ConstantResults, ZeroRegister, ControlFlow, SoftwareTraps, FloatResults and all that name readable and writable
registers. -/
theorem witness_registers : ∀ r : SReg, mon.me.readable r ∧ mon.me.writable r ∧ dev.me.readable r ∧ dev.me.writable r := by
  unfold Strand.readable Strand.writable
  decide

theorem witness_groups : ∀ g < 5, mon.allows g ∧ dev.allows g := by
  intro g hg
  refine ⟨fun p h => (nomatch h), fun p h => ?_⟩
  cases (show dev.myPart? = some { part0 with rcbs := [⟨0x80000, 0, false, [0x001, 0x401]⟩] } from rfl).symm.trans h
  revert g
  decide

/-- SourceOperands: a word waits at the first and at the last port, none at the second; s9 is poisoned, s10 waits for an entry. -/
theorem witness_SourceOperands :
    let t := (on mon (fun t => { t with porten := 15, ports := #v[[(7, true)], [], [], [(8, false), (9, false)]], spoison := 0x200, spend := 0x400 })).me
    t.isPort 28 = true ∧ t.isPort 31 = true ∧ t.isPort 29 = true ∧ t.waiting 28 = [(7, true)] ∧
    t.waiting 29 = [] ∧ t.waiting 31 = [(8, false), (9, false)] ∧
    (t.popped 31).waiting 31 = [(9, false)] ∧ t.isPort 9 = false ∧ t.spend.getLsbD 9 = false ∧
    t.spoison.getLsbD 9 = true ∧ t.isPort 10 = false ∧ t.spend.getLsbD 10 = true ∧ t.isPort 27 = false := by decide

/-- ControlFlow: a jump to a multiple of 4, and one that is none. -/
theorem witness_ControlFlow :
    let s := on mon (fun t => t.setS 5 8)
    ((s.me.sreg 5 + BitVec.ofInt 64 (-4 : BitVec 14).toInt).toNat % 4 = 0) ∧
    ((s.me.sreg 5 + BitVec.ofInt 64 (1 : BitVec 14).toInt).toNat % 4 ≠ 0) := by decide

/-- FloatResults, TrapCauses: the static modes, and FRM under DYN with its last mode and its first reserved value. -/
theorem witness_modes : mon.me.mode? 0 = some 0 ∧ mon.me.mode? 4 = some 4 ∧ (on mon fun t => { t with frm := 4 }).me.mode? 7 = some 4 ∧
    (on mon fun t => { t with frm := 5 }).me.mode? 7 = none := by decide

/-- NanResults, MinMaxResults: NaNs of both kinds, ordered operands and the two zeros. -/
theorem witness_nans : unpack f32 0x7FC00000 = .nan false ∧ unpack bf16 0x7F81 = .nan true ∧ (fLess f32 false 0 0x3F800000).1 = true ∧
    0x80 = f8e4.sign true ∧ 0 = f8e4.sign false ∧ (unpack f64 0).isNan = false := by decide

/-- LoadResults, StoreResults: a place in service memory at the first and the last address of it. -/
theorem witness_LoadResults : (placeE 0 .r).run mon = .ok (.ok ⟨svcAt 0, .svc, false⟩) mon ∧
    (placeE 0x7FFFFFF .w).run mon = .ok (.ok ⟨svcAt 0x7FFFFFF, .svc, false⟩) mon ∧ mon.settled (svcAt 0) 8 ∧ mon.resting (svcAt 0) 8 ∧
    mon.badAt (svcAt 0) 8 = false ∧ { mon with bad := [svcAt 0 / 64] }.badAt (svcAt 0) 8 = true ∧ mon.plainAt (svcAt 0) 8 ∧
    mon.Inv :=
  ⟨rfl, rfl, fun _ h => (nomatch h), fun _ h => (nomatch h), rfl, by decide, fun _ h => (nomatch h), by unfold State.Inv; decide⟩

/-- LoadResults, StoreResults, AtomicResults: a place in HBM, through both stages. -/
theorem witness_places : ∀ acc ∈ [Acc.r, .w, .rw], ∃ s1, (placeE 0x20000 acc).run dev = .ok (.ok ⟨0x20000, .pma, false⟩) s1 ∧
    s1.Inv ∧ s1.settled 0x20000 8 ∧ s1.plainAt 0x20000 8 ∧ s1.resting 0x20000 8 ∧ s1.badAt 0x20000 8 = false := by
  have h : ∀ acc ∈ [Acc.r, .w, .rw], ∃ s1, (placeE 0x20000 acc).run dev = .ok (.ok ⟨0x20000, .pma, false⟩) s1 ∧
      Memory.wf s1.mem = true ∧ s1.recent = [] ∧ s1.accums = [] ∧ s1.bad = [] := by
    intro acc ha
    simp only [List.mem_cons, List.not_mem_nil, or_false] at ha
    rcases ha with rfl | rfl | rfl <;> exact ⟨_, rfl, by decide, rfl, rfl, rfl⟩
  intro acc ha
  obtain ⟨s1, h1, h2, h3, h4, h5⟩ := h acc ha
  refine ⟨s1, h1, h2, ?_, ?_, ?_, ?_⟩
  · intro x hx; rw [h3] at hx; nomatch hx
  · intro x hx; rw [h4] at hx; nomatch hx
  · intro x hx; rw [h4] at hx; nomatch hx
  · simp [State.badAt, h5]

/-- AccessFaults: misaligned addresses; an address without a place, of a load on a service strand, of a store and of an atomic through the
tables. -/
theorem witness_AccessFaults : ((1 : Word).toNat % 2 ≠ 0 ∧ (4 : Word).toNat % nth [2, 2, 4, 8] (3 : BitVec 2).toNat 8 ≠ 0 ∧
      (8 : Word).toNat % 2 ^ (3 : BitVec 2).toNat = 0) ∧
    (∃ s1, (placeE 0x8000000 .r).run mon = .ok (.error ⟨false, .mon⟩) s1) ∧
    ∀ acc ∈ [Acc.w, .rw], ∃ s1, (placeE 0xC0000000 acc).run dev = .ok (.error ⟨false, .sup⟩) s1 := by
  refine ⟨by decide, noPlace (by decide +kernel), fun acc ha => noPlace ?_⟩
  revert acc
  exact List.all_eq_true.1 (by decide +kernel)

/-- The scratch of `dev`'s launch. -/
def devSplit : Split := ⟨1, 0, 1, 1, [0, 1], []⟩

/-- Tables of every level: in stage 1 the fourth GiB by pages of 16 MiB, 2 MiB and 64 KiB, with two entries that are malformed, in
stage 2 the same memory. -/
def deepTables : List Host.Cell :=
  [(0x12818, 0x13001), (0x12820, 0x13F), (0x12828, 0x14000003F), (0x20000, 3), (0x13000, 0x3F), (0x13008, 0x13801), (0x13800, 0x1003F), (0x13900, 0x20013F), (0x13808, 0x10013F),
    (svcAt 0x12818, 0x3001), (svcAt 0x13000, 0x1F), (svcAt 0x13008, 0x3801), (svcAt 0x13800, 0x1001F), (svcAt 0x13900, 0x20011F),
    (svcAt 0x13808, 0x3F)].foldl (fun m x => Mem.writeL m x.1 (leBytes 8 x.2)) tables

/-- `dev` with them. -/
def deep : State := { dev with mem := deepTables }

/-- Its partition. -/
def deepPart : Part := deep.parts.headD part0

/-- `dev` with windows of its partition into partition 1, whose bulkhead 1 is up or not, and into one that does not exist. -/
def windowed (st : BhState) : State := { dev with
  parts := [{ part0 with windows := [⟨3, 1, 0, false, 0x10000, 0x20000, 0, []⟩, ⟨4, 9, 0, true, 0, 0x1000, 0, []⟩] }, newPart 1 2 8 [] [] 0]
  bhs := ⟨.owned, some 0, false, false, false⟩ :: ⟨st, some 1, false, false, false⟩ :: List.replicate 30 Bulkhead.dark }

/-- AccessFaults, region 01: no window; an offset at the length and the last below it; a store without W and one with it; an exporting
partition that is not there, one whose home is up, one whose home is not. -/
theorem witness_AccessFaults_windows :
    let s := windowed .owned
    let p := s.parts.headD part0
    let at' := fun w off => 2 ^ 46 + w * 2 ^ 42 + off
    (at' 15 0 / 2 ^ 46 % 4 = 1 ∧ (p.windows.find? (·.win == at' 15 0 / 2 ^ 42 % 16)).isNone = true ∧
      (p.windows.find? (·.win == at' 3 0x20000 / 2 ^ 42 % 16)).map (fun w => (w.len, w.wr, w.exp)) = some (0x20000, false, 1) ∧
      (p.windows.find? (·.win == at' 4 0xFFF / 2 ^ 42 % 16)).map (fun w => (w.len, w.wr, w.exp)) = some (0x1000, true, 9)) ∧
    (at' 3 0x20000 % 2 ^ 42 = 0x20000 ∧ at' 3 0x1FFFF % 2 ^ 42 = 0x1FFFF) ∧
    (s.part? 9).isNone = true ∧ (s.part? 1).any (fun q => q.bh 0 == 1 && q.nb == 1) = true ∧ (s.bh 1).state = .owned ∧
    ((windowed .reset).bh 1).state ≠ .owned := by
  decide +kernel

/-- A strand of the hypervisor there. -/
def deepHyp : State := { deep with me := { deep.me with owner := .hyp } }

/-- AccessFaults, translation: service strands; an offset below S and at S. -/
theorem witness_AccessFaults_strands : deepHyp.me.owner = .hyp ∧ deepHyp.hypSize = 65536 ∧
    deep.me.owner = .part 0 0x80000 0x80080 1 ∧ deep.part? 0 = some deepPart ∧ deep.tlb = [] ∧
    (deep.split? 1 deep.me.clu).any (fun y => y.scr == 1 && (y.at 0xFFFF).isSome) = true := by
  decide +kernel

/-- AccessFaults, translation: at each level of each stage an entry that is a table, a leaf where the level has one (of 1 GiB, 16 MiB,
2 MiB and 64 KiB), and one that is broken: not valid, a leaf at L0 and L1, or misaligned. -/
theorem witness_AccessFaults_tables :
    ([((0x10000, 0, 0x12001) : Nat × Nat × Nat), (0x10000, 1, 0), (0x12000, 0, 0x12801), (0x12000, 3, 0), (0x12800, 0, 0x3F),
      (0x12800, 3, 0x13001), (0x12800, 4, 0x13F), (0x12800, 6, 0), (0x13000, 0, 0x3F), (0x13000, 1, 0x13801), (0x13000, 2, 0),
      (0x13800, 0, 0x1003F), (0x13800, 32, 0x20013F), (0x13800, 1, 0x10013F)].all fun x =>
        match deep.entryAt deepPart (x.1 + 8 * x.2.1) with
        | .ok e => e == x.2.2
        | .error _ => false) = true ∧
    (∀ x ∈ [((0, 0, 0x2001) : Nat × Nat × Nat), (0, 1, 0), (0x2000, 0, 0x2801), (0x2000, 3, 0), (0x2800, 0, 0x1F), (0x2800, 3, 0x3001),
      (0x2800, 5, 0), (0x3000, 0, 0x1F), (0x3000, 1, 0x3801), (0x3000, 2, 0), (0x3800, 0, 0x1001F), (0x3800, 32, 0x20011F),
      (0x3800, 1, 0x3F)], x.1 + 8 * x.2.1 + 8 ≤ deep.hypSize ∧ deep.natAt (deep.hypAt (x.1 + 8 * x.2.1)) 8 = x.2.2) := by
  decide +kernel

/-- AccessFaults, translation: an IPA with a leaf, and one without; an output address of a home that is up, one past the partition. -/
theorem witness_AccessFaults_regions :
    ((deep.stage2 deepPart 0xC0000000).toBool = true ∧ (deep.region deepPart 0 0x5000 true true false).toBool = true ∧
      (2 ^ 34 * deepPart.nb ≤ 2 ^ 34) ∧ (deep.bh (deepPart.bh 0)).state = .owned) ∧
    deep.stage2 deepPart 0x140000000 = .error ⟨false, some 0x140000000, false⟩ ∧
    deep.region deepPart 0 (2 ^ 34) true false false = .error ⟨false, some 0, false⟩ :=
  ⟨by decide +kernel, isErr (by decide +kernel), isErr (by decide +kernel)⟩

/-- `dev` with the first granule of its scratch full. -/
def devFull : State := { dev with full := [stashAt 0 0 / 64] }

/-- FullBits: the first granule of the scratch, full and empty; the last dword, one at S; an address outside the aperture; one that is
not aligned. -/
theorem witness_FullBits :
    (inAperture (wd apertureBase) = true ∧ devFull.fullAt (stashAt 0 0) = true ∧ dev.fullAt (stashAt 0 0) = false ∧
      inAperture 0x20000 = false ∧ (wd (apertureBase + 4)).toNat % 8 ≠ 0) ∧
    (∀ x ∈ [(0, some (stashAt 0 0)), (0xFFF8, some (stashAt 0 0xFFF8)), (0x10000, none)],
      (scratchPlace (wd (apertureBase + x.1))).run devFull = .ok x.2 devFull) ∧
    devFull.settled (stashAt 0 0) 8 := by
  refine ⟨by decide, fun x hx => runsTo ?_, fun _ h => (nomatch h)⟩
  revert x
  exact List.all_eq_true.1 (by decide +kernel)

/-- `dev` with an active f32 accumulator at the start of its DET memory. -/
def devDet : State := { dev with accums := [⟨0x40000000, 0, 5, false, false, false, none⟩] }

/-- FloatAtomics: a host page; an element of a DET page that is active as f32, one that meets it with another format. -/
theorem witness_FloatAtomics : (∃ s1, (placeE 0x80000000 .rw).run dev = .ok (.ok ⟨hostAt 0, .host, false⟩) s1 ∧ true = true) ∧
    (∃ s1, (placeE 0x40000000 .rw).run devDet = .ok (.ok ⟨0x40000000, .pma, true⟩) s1 ∧
      (detFmt 2 = some 0 && s1.accums.find? (·.meets 0x40000000 4) = devDet.accums.head? &&
        !s1.badAt 0x40000000 4) = true) ∧
    (∃ s1, (placeE 0x40000002 .rw).run devDet = .ok (.ok ⟨0x40000002, .pma, true⟩) s1 ∧
      (detFmt 0 = some 1 && s1.accums.find? (·.meets 0x40000002 2) = devDet.accums.head?) = true) :=
  ⟨hasPlace (q := fun _ => true) (by decide +kernel), hasPlace (by decide +kernel), hasPlace (by decide +kernel)⟩

/-- A vector store of strand 2, or a scalar one, that strand 1's vector path has observed, and that everybody may still miss. -/
def missedStore (vector : Bool) : Recent := ⟨0x20000, 0, 1, 2, vector, 0, [(1, true)], [], [],
  [.vec, .scal, .record, .sibV ⟨0, 0, 0, 0⟩, .engines [], .calls [1] []]⟩

/-- `dev` with a strand beside it on its core and stores of that one in sight. -/
def devStores : State := { dev with
  others := [{ dev.me with uid := 2, place := some (⟨0, 0, 0, 0⟩, 1) }]
  recent := [missedStore true, missedStore false] }

/-- FenceResults: classes that the clauses name, on a strand with an empty queue, in a cluster; a store of another strand that its vector
path holds, and one to HBM that a strand of its core has made. -/
theorem witness_FenceResults : (devStores.me.vq = [] ∧ (1 : BitVec 4).getLsbD 0 = true ∧ (2 : BitVec 4).getLsbD 1 = true ∧
      (8 : BitVec 4).getLsbD 3 = true ∧ (4 : BitVec 4).getLsbD 2 = true) ∧
    ((missedStore true).heldBy devStores.me.uid true = true ∧ (missedStore true).uid ≠ devStores.me.uid ∧
      (missedStore false).vector = false ∧ (missedStore false).addr < 2 ^ 40) ∧
    ((devStores.strand? 2).map devStores.coreOf = some devStores.myCore ∧ devStores.myCore.isSome = true ∧
      (devStores.strandCluster devStores.me).isSome = true) := by decide +kernel

/-- `deep` with the trap vectors of SUP and of HYP, and a HYP trap image. -/
def vectors (v w : Word) : State :=
  let s := on deep fun t => { t with sup := { t.sup with vec := v }, hyp := { t.hyp with vec := w } }
  s.modPart 0 fun p => { p with image := List.replicate 64 0 }

/-- TrapEntry: a handler at SUP whose fetch fails at stage 1, at stage 2, one that starts with a second word; one at HYP that can be
fetched. -/
theorem witness_TrapEntry_faults :
    ((vectors 0x100000001 1).me.pl.num ≤ 1 ∧ (vectors 0x100000001 1).me.sup.vec.getLsbD 0 = true ∧
      (vectors 0x20001 1).me.hyp.vec.getLsbD 0 = true ∧ wordKind 3 = 3 ∧ wordKind 0 ≠ 3) ∧
    (∀ x ∈ [((0x100000001, Level.sup, 0x100000000, Fetch.fault .sup) : Word × Level × Word × Fetch),
      (0x140000001, .sup, 0x140000000, .fault (.s2 0x140000000)), (0x20001, .sup, 0x20000, .word 3), (0x20001, .hyp, 0, .word 0)],
      (vectors x.1 1).peek x.2.1 x.2.2.1 = x.2.2.2) ∧ ∀ j, Route.sup ≠ .s2 j :=
  ⟨by decide +kernel, by decide +kernel, fun _ h => (nomatch h)⟩

/-- TrapEntry: a handler at SUP and one at MON that can be fetched; a level without one. -/
theorem witness_TrapEntry : (let s := on dev (fun t => { t with sup := { t.sup with vec := 0x20001 } })
     Level.of (max Route.sup.level s.me.pl.num) = .sup ∧ (s.me.bank .sup).vec.getLsbD 0 = true ∧
       s.peek .sup 0x20000 = .word 0 ∧ wordKind 0 ≠ 3) ∧
    (let s := on mon (fun t => { t with mon := { t.mon with vec := 0x103 } })
     Level.of (max Route.mon.level s.me.pl.num) = .mon ∧ (s.me.bank .mon).vec.getLsbD 0 = true ∧
       s.peek .mon (0x100 + 64 * 255) = .word 0) ∧ (dev.me.bank .sup).vec.getLsbD 0 = false :=
  ⟨⟨by decide, by decide, rfl, by decide⟩, ⟨by decide, by decide, rfl⟩, by decide⟩

/-- TrapCauses: an APP strand, a service strand, a partition with every group masked. -/
theorem witness_TrapCauses : (on dev fun t => { t with pl := .app }).me.pl.num < Level.sup.num ∧ mon.me.owner.pid? = none ∧
    (let s := { dev with parts := [{ part0 with fmask := 31 }] }
     s.myPart? = some { part0 with fmask := 31 } ∧ ∀ g < 5, ({ part0 with fmask := 31 } : Part).fmask.getLsbD g = true) :=
  ⟨by decide, rfl, rfl, by decide⟩

/-- TrapReturn: below SUP; a PPL above the level; a misaligned pc; a return. -/
theorem witness_TrapReturn : (on dev fun t => { t with pl := .app }).me.pl = .app ∧ dev.me.pl ≠ .app ∧
    (let s := on dev (fun t => { t with sup := { t.sup with cause := 0x800 } })
     s.me.pl.num < (s.me.bank s.me.pl).cause.toNat / 2 ^ 10 % 4) ∧
    (let s := on dev (fun t => { t with sup := { t.sup with cause := 0x400, pc := 2 } })
     (s.me.bank s.me.pl).cause.toNat / 2 ^ 10 % 4 ≤ s.me.pl.num ∧ (s.me.bank s.me.pl).pc.toNat % 4 ≠ 0) ∧
    (dev.me.bank dev.me.pl).cause.toNat / 2 ^ 10 % 4 ≤ dev.me.pl.num ∧ (dev.me.bank dev.me.pl).pc.toNat % 4 = 0 := by decide

/-- A started launch of queue 0 in the context of `dev`. -/
def launch1 : Launch := ⟨1, 0, some 0, 0, 0, [], 0x80000, 0x80080, .app, .started, 5⟩

/-- `dev` on a full core with a strand of its context switched out. -/
def devFullCore : State := { dev with
  launches := [launch1]
  others := { dev.me with uid := 5, place := none } :: (below 3).map fun i => { dev.me with uid := 2 + i, place := some (⟨0, 0, 0, 0⟩, i + 1) } }

/-- InterruptControl: a mark, none; work that waits for a full core, none. -/
theorem witness_InterruptControl : dev.me.pl ≠ .app ∧ (on dev fun t => { t with mark := true }).idleOver = true ∧
    dev.idleOver = false ∧ dev.yieldTo dev.me = false ∧ devFullCore.yieldTo devFullCore.me = true := by decide +kernel

/-- `dev` at APP as the target of its partition, with every kind of event pending. -/
def devTarget : State :=
  let s := on dev fun t => { t with pl := .app, wdgPend := true }
  { s with parts := s.parts.map fun p => { p with suphome := 0x8000000000000000, reqs := [⟨3, none⟩] } }

/-- AsyncTraps: each event first of those pending, and all at once; none pending; the target strand, open, with requests, of which one
was lost or none; one that masks them; a watchdog that runs out. -/
theorem witness_AsyncTraps :
    (devTarget.pendingAsync = [0x13, 0x14] ∧ (on devTarget fun t => { t with wdgPend := false }).pendingAsync = [0x14] ∧
      (devTarget.modPart 0 fun p => { p with pta := true }).pendingAsync = [0x0B, 0x13, 0x14] ∧ dev.pendingAsync = [] ∧
      (on devTarget fun t => { t with pl := .sup, ie := false }).pendingAsync = []) ∧
    ((devTarget.part? 0).any (fun p => devTarget.supTarget p == some devTarget.me.uid && p.reqs != [] && !p.reqLost) = true ∧
      ((devTarget.modPart 0 fun p => { p with reqLost := true }).part? 0).any (fun p => p.reqs != [] && p.reqLost) = true ∧
      devTarget.me.pl = .app ∧ ∀ k ∈ devTarget.cores, k.scanBy ≠ some devTarget.me.uid) ∧
    ({ dev with ev := ev1 1 }.ev.x = dev.me.uid ∧ dev.me.live = true) := by decide +kernel

/-- ControlReads: a queue that is empty, one that holds an entry, one that holds a `vldff`; a strand of the hypervisor. -/
theorem witness_ControlReads_waits : (∀ c ∈ (0x070 : Nat) :: 0x011 :: readWaits, dev.readsNow c) ∧
    (let s := on dev fun t => { t with vq := [t.entry (.vmzero 8) (.tileZero 8)] }
     s.me.vheld = false ∧ s.me.vq ≠ [] ∧ s.me.ldffQueued = false) ∧
    (on dev fun t => { t with vq := [t.entry (.vldff 1 5 0) (.ld 1 0 .unit true 0)] }).me.ldffQueued = true ∧
    deepHyp.me.owner = .hyp := by
  refine ⟨?_, by decide +kernel, by decide +kernel, rfl⟩
  unfold State.readsNow State.queueQuiet
  decide +kernel

/-- ControlWrites: the partition of `dev` at SUP; FWCTL locked and free, on a device that has booted. -/
theorem witness_ControlWrites : dev.myPart? = dev.parts.head? ∧ 1 ≤ dev.me.pl.num ∧ mon.me.pl = .mon ∧ mon.fwlock = false ∧
    mon.bootst ≠ 0 ∧ ({ mon with fwlock := true } : State).fwlock = true ∧ (∀ w ∈ partWrites 0, (regLevels w.1).isSome = true) := by
  decide +kernel

/-- ControlReads, ControlWrites: readable registers at both ends of the table, one that nothing defines, one above the level. -/
theorem witness_ControlReads : regLevels 0x000 = some (.app, .sup) ∧ regLevels 0x306 = some (.mon, .mon) ∧
    regLevels 0x333 = none ∧ dev.me.pl.num < Level.mon.num ∧ hypReg 0x306 = false ∧ partReg 0x306 = false ∧
    partReg 0x110 = true ∧ dev.me.owner.pid?.isSome = true ∧ dev.vown dev.me = true ∧ regLevels 0x040 = some (.app, .app) ∧
    (∀ p ∈ ctlWrites 0, ∃ l, regLevels p.1 = some l) := by
  refine ⟨rfl, rfl, rfl, by decide, rfl, rfl, rfl, rfl, by decide, rfl, fun p hp => Option.isSome_iff_exists.1 ?_⟩
  revert p
  exact List.all_eq_true.1 (by decide)

/-- `mon` with a core of bulkhead 0 withdrawn, and with its scan under way. -/
def monWd (wd : Bool) (scan : Option Nat) : State := { mon with
  scol := [8], cores := [⟨⟨0, 0, 0, 0⟩, wd, 0, scan, false, 0, 0⟩] }

/-- SystemResults: the end of a service strand; `tlbi`; ranges of `dfin`; operands of `test.scan` and the states of its core. -/
theorem witness_SystemResults : mon.me.vq = [] ∧ mon.me.owner.pid? = none ∧ mon.launchOf mon.me = none ∧ dev.me.pl ≠ .app ∧
    dev.myPart? = dev.parts.head? ∧ (2 ^ 64 < (2 ^ 64 - 1 : Word).toNat + (2 : Word).toNat) ∧ mon.me.pl = .mon ∧
    (0x1000000 : Nat) / 2 ^ 24 ≠ 0 ∧ (0x3FFFF : Nat) < 2 ^ 18 ∧ (0x11FFF : Nat) / 2 ^ 13 % 8 = 0 ∧ (physCore 0).col ≤ 8 ∧
    (mon.ctl (physCore 0)).wd = false ∧ ((monWd true none).ctl (physCore 0)).wd = true ∧
    (monWd true none).drained (physCore 0) = true ∧ ((monWd true none).ctl (physCore 0)).scanBy = none ∧
    ((monWd true (some 0)).ctl (physCore 0)).scanBy = some mon.me.uid ∧
    ((monWd false (some 0)).ctl (physCore 0)).wd = false := by decide +kernel

/-- SystemResults: a page of service memory, up to its end; one of the host, and a page of DET memory. -/
theorem witness_dfin : (dfinPlace 0xFFF 0xFFF).run mon = .ok (some ⟨svcAt 0xFFF, .svc, false⟩) mon ∧
    0xFFF % 4096 + 1 ≤ 4096 ∧ inAperture 0xFFF = false ∧ (dfinPlace 0x80000000 0x80000000).run dev = .ok none dev ∧
    ∃ s1, (dfinPlace 0x40000000 0x40000000).run devDet = .ok (some ⟨0x40000000, .pma, true⟩) s1 := by
  refine ⟨runsTo (by decide +kernel), by decide, by decide, runsTo (by decide +kernel), ?_⟩
  obtain ⟨a, u, h, h2⟩ := runIs_ok (x := dfinPlace 0x40000000 0x40000000) (s := devDet)
    (p := fun a _ => decide (a = some ⟨0x40000000, .pma, true⟩)) (by decide +kernel)
  exact ⟨u, of_decide_eq_true h2 ▸ h⟩

/-- `dev` as the one strand of a launch whose completion word counts one strand. -/
def devLast : State := { dev with
  launches := [{ launch1 with left := 1, record := BitVec.ofNat 512 (0x21000 * 2 ^ 320) }]
  parts := [{ part0 with rcbs := [⟨0x80000, BitVec.ofNat 1024 (2 + 0x10000 * 2 ^ 448), false, [0x001, 0x401]⟩] }]
  mem := Mem.writeL tables 0x21000 (leBytes 8 (1 * 2 ^ 32 + 1)) }

/-- SystemResults: the end of the last strand of a launch. -/
theorem witness_end : devLast.me.vq = [] ∧ (devLast.launchOf devLast.me).any (fun l => l.left == 1 && recBits l.record 320 64 % 8 == 0 &&
      decide (devLast.cwPlace l = some ⟨0x21000, .pma, false⟩)) = true ∧
    wd (devLast.natAt 0x21000 8) = 0x100000001 ∧ devLast.Inv ∧ devLast.plainAt 0x21000 8 ∧ devLast.calls = [] := by
  unfold State.Inv State.plainAt
  decide +kernel

/-- SystemResults: with no load on its way the maintenance of the TLBs changes what paths may miss alone; a load that is on its way. -/
theorem witness_landsTo : dev.onTime ∧ dev.landsTo dev.landAll ∧
    ¬ (on dev fun t => { t with late := [⟨5, 0x20000, true, 8, false, false⟩] }).onTime := by
  have h : dev.onTime := by unfold State.onTime; decide
  refine ⟨h, ⟨dev, rfl, rfl, fun _ => by decide +kernel⟩, ?_⟩
  unfold State.onTime
  decide

/-- SystemResults: whichever way a running scan's coin falls, one of its clauses applies. -/
theorem witness_scan : Config.free (monWd true (some 0)).tick (monWd true (some 0)).draw % 2 = 1 ∨
    Config.free (monWd true (some 0)).tick (monWd true (some 0)).draw % 2 ≠ 1 := Decidable.em _

/-- `dev` with p0 enabled and a ROUTE value in it, and a strand at the position above it. -/
def devPort (route : Word) (q : List (Word × Bool)) : State := { on dev (fun t => { t with porten := 1, routes := t.routes.set 0 route }) with
  others := [{ dev.me with uid := 2, pos := 1, place := some (⟨0, 0, 0, 1⟩, 0), ports := #v[[], [], [], q] }] }

/-- MessagingResults: a route that is not valid; one to a strand with room, and at its limit; semaphores at the ends of their
range and behind it; a value reached, and one that is not. -/
theorem witness_MessagingResults :
    (let s := devPort 0x8000000300000001 (List.replicate 15 (0, false))
     let x := nth s.me.routes.toList (28 - 28) 0
     s.me.isPort 28 = true ∧ x.getLsbD 63 = true ∧ (part0.h, part0.w) = (8, 8) ∧
     x.toNat / 2 ^ 16 % 2 ^ 11 % 8 * 8 + x.toNat % 2 ^ 11 % 8 = 1 ∧ x.toNat / 2 ^ 32 % 4 = 3 ∧
     ((s.part? 0).map fun p => (p.coreAt 0x80000 1).isSome && p.parked.isEmpty) = some true ∧
     ((s.strandAt 0 0x80000 1 0).map fun t => (t.uid, t.place.isSome, (nth t.ports.toList 3 []).length)) = some (2, true, 15)) ∧
    ((devPort 0x8000000300000001 (List.replicate 16 (0, true))).strandAt 0 0x80000 1 0).map (fun t => (nth t.ports.toList 3 []).length) =
      some 16 ∧ (nth (devPort 0 []).me.routes.toList 0 0).getLsbD 63 = false ∧
    (let e := part0.eff 0x80000 0x80080
     e.semlo ≤ 0 ∧ 4095 ≤ e.semhi) ∧ (0 : Word).toNat ≤ part0.sem 0 ∧
    part0.sem 0 < (1 : Word).toNat := by decide +kernel

/-- `dev` with the semaphores 1 to 2 for its context; and with the strand above it switched out, and parked words for it. -/
def devSems : State := { dev with parts := dev.parts.map fun p => { p with
  rcbs := [⟨0x80000, BitVec.ofNat 1024 (2 + 2 ^ 20 + 1 * 2 ^ 320 + 2 * 2 ^ 336), false, []⟩] } }
def devParked (place : Option (CoreId × Nat)) (n : Nat) : State :=
  let s := devPort 0x8000000300000001 []
  { s with
    others := s.others.map fun u => { u with place := place }
    parts := s.parts.map fun p => { p with parked := List.replicate n ⟨2, 3, 0, false⟩ } }

/-- MessagingResults: semaphores on both sides of the bounds; a strand that is switched out, one behind parked words. -/
theorem witness_MessagingResults_parked :
    ((devParked none 0).strandAt 0 0x80000 1 0).map (fun t => (t.uid, t.place)) = some (2, none) ∧
    ((devParked (some (⟨0, 0, 0, 1⟩, 0)) 1).part? 0).any (fun p => p.parked.any fun y => y.uid == 2 && y.port == 3) = true ∧
    (devSems.part? 0).any (fun p => let e := p.eff 0x80000 0x80080
      e.semlo == 1 && e.semhi == 2) = true := by decide +kernel

/-- `dev` with barrier 0 bound to what `x` names, and what arrived, waits and is marked. -/
def devBar (binding : Word) (arrived awp marked : List (Nat × Nat)) : State := { dev with
  parts := dev.parts.map fun p => { p with bars := [⟨0, binding, 0x80000, 0, arrived, awp, marked, 0⟩] } }

/-- What a participant finds at barrier 0: bound, a member, arrived, marked, the arrival that completes. -/
def lookBar (s : State) : Option (List Bool) := (s.part? 0).map fun p =>
  let x := p.bar 0
  [x.v, (p.population x).contains s.me.participant, x.arrived.contains s.me.participant, x.marked.contains s.me.participant,
    (p.population x).all fun m => (s.me.participant :: x.arrived).contains m]

/-- BarrierResults: a barrier of one participant, of two, of none; a participant that has arrived, and one that is marked. -/
theorem witness_BarrierResults : lookBar (devBar 0x8800000000000000 [] [] []) = some [true, true, false, false, true] ∧
    lookBar (devBar 0x9800000000000000 [] [] []) = some [true, true, false, false, false] ∧
    lookBar (devBar 0 [] [] []) = some [false, false, false, false, true] ∧
    lookBar (devBar 0x9800000000000000 [(0, 0)] [] []) = some [true, true, true, false, false] ∧
    lookBar (devBar 0x9800000000000000 [] [] [(0, 0)]) = some [true, true, false, true, false] ∧
    0 < (part0.eff 0x80000 0x80080).barq ∧ (0x0800000000000000 : Word).getLsbD 63 = false := by decide +kernel

/-- `dev` with the first 8 barriers for its context. -/
def devBarq : State := { dev with parts := dev.parts.map fun p => { p with
  rcbs := [⟨0x80000, BitVec.ofNat 1024 (2 + 2 ^ 19 + 8 * 2 ^ 272), false, []⟩] } }

/-- The bounds that R314 sets a binding in a partition of 8 by 8. -/
def bindable (n : Nat) : Bool := n / 2 ^ 63 = 0 ||
  (n / 2 ^ 11 % 2 ^ 5 = 0 && n / 2 ^ 27 % 2 ^ 5 = 0 && n / 2 ^ 43 % 2 ^ 5 = 0 && n / 2 ^ 32 % 2 ^ 11 < part0.w &&
    n / 2 ^ 48 % 2 ^ 11 < part0.h && n / 2 ^ 59 % 2 ^ 4 ≠ 0)

/-- BarrierResults: numbers on both sides of BARQ and past the last barrier; a binding taken away, one of the last column and row, one of
each kind that is illegal; a barrier bound otherwise, with arrivals and without. -/
theorem witness_BarrierResults_defs :
    ((devBarq.part? 0).map fun p => (p.eff 0x80000 0x80080).barq) = some 8 ∧ (1023 < 1024 ∧ ¬ 1024 < 1024) ∧
    ((∀ n ∈ [0, 2 ^ 63 + 2 ^ 59, 2 ^ 63 + 2 ^ 62 + 7 * 2 ^ 48 + 7 * 2 ^ 32], bindable n = true) ∧
      ∀ n ∈ [2 ^ 63, 2 ^ 63 + 2 ^ 59 + 8 * 2 ^ 32, 2 ^ 63 + 2 ^ 59 + 8 * 2 ^ 48, 2 ^ 63 + 2 ^ 59 + 2 ^ 11,
        2 ^ 63 + 2 ^ 59 + 2 ^ 27, 2 ^ 63 + 2 ^ 59 + 2 ^ 43], bindable n = false) ∧
    (∀ arrived ∈ [[], [(1, 0)]], ((devBar 0x9800000000000000 arrived [] []).part? 0).any (fun p =>
      (p.bar 0).binding != 0 && (p.bar 0).arrived == arrived) = true) := by decide +kernel

/-- PostResults: the first post of a strand, to the matrix engine of its own cluster, from a record of zeros; and an address of a
kind that does not exist. -/
theorem witness_PostResults :
    (dev.me.calls.findIdx? (·.isNone) = some 0 ∧ eaOk part0 dev.me 0xFFF00 false = true ∧ eaOk part0 dev.me 9 false = false ∧
      dev.engOf part0 0x80000 (eaKind 0xFFF00) (ownIndex dev.me 0xFFF00) = 0 ∧ callReturns 0xFFF00 = some ([], none) ∧
      (dev.bh (engBh 0 0)).state = .owned ∧ (dev.bh 0).lost = false) ∧
    ∃ s1, (placeE 0x20000 .r).run (on dev fun t => t.setS 5 0x20000) = .ok (.ok ⟨0x20000, .pma, false⟩) s1 ∧
      (s1.recent.isEmpty && s1.accums.isEmpty && !s1.badAt 0x20000 64 && !s1.queueFull 0 0 0 0 0x80000 &&
        !s1.engqOver part0 0x80000 0x80080) = true :=
  ⟨by decide +kernel, hasPlace (by decide +kernel)⟩

/-- `dev` with a call in the last slot of its table. -/
def devCall (st : TStat) : State := on dev fun t => { t with calls := t.calls.set 63 (some ⟨1, 0, 0, 0, st, 7, 1⟩) }

/-- TicketResults: BUSY; a free slot; the last slot with the ticket that is its own, and one that differs in each field; a ticket that
another strand holds, and one that none does. -/
theorem witness_TicketResults_looks :
    (busyTicket.toNat = 2 ^ 64 - 1 ∧ (devCall .done).me.calls.getD 0 none = none ∧
      (devCall .done).me.calls.getD 63 none = some ⟨1, 0, 0, 0, .done, 7, 1⟩) ∧
    (let n := (⟨1, 0, 0, 0, .done, 7, 1⟩ : Slot).ticket 63
     (n % 64 = 63 ∧ n / 2 ^ 6 % 2 ^ 16 = 1 ∧ n / 2 ^ 22 % 16 = 0 ∧ n / 2 ^ 26 % 16 = 0 ∧ n / 2 ^ 30 = 0) ∧
     (∀ d ∈ [6, 22, 26, 30], (devCall .done).me.look (wd (n + 2 ^ d)) = .code 5) ∧
     ({ dev with others := [{ (devCall .done).me with uid := 2 }] } : State).others.any (fun t => t.live && t.holds (wd n)) = true ∧
     dev.others.any (fun t => t.live && t.holds (wd n)) = false) := by decide +kernel

/-- TicketResults, TokenResults: BUSY, a stale ticket, and the ticket of a call with every status. -/
theorem witness_TicketResults : dev.me.look busyTicket = .code 4 ∧ dev.me.look 0 = .code 5 ∧
    (∀ st ∈ [TStat.pending, .done, .fault, .reset], (devCall st).me.look (wd ((⟨1, 0, 0, 0, st, 7, 1⟩ : Slot).ticket 63)) =
      .slot 63 ⟨1, 0, 0, 0, st, 7, 1⟩) := by decide +kernel

/-- `mon` with vectors of a tag, of 4 elements, in every register, whose residency is as after a write. -/
def vec (s : State) (tag : BitVec 4) : State := on s fun t => { t with
  vl := 4, gvl := 2048, tags := Vector.replicate 64 tag, res := Vector.replicate 64 .dirty }

/-- VectorIssue: a vector unit that lags, with room for one more entry. -/
theorem witness_VectorIssue :
    let s := on dev fun t => { t with eager := false, vq := List.replicate 63 (t.entry .melse .melse) }
    s.me.eager = false ∧ s.me.vheld = false ∧ s.vown s.me = true ∧ s.me.vq.length < 64 ∧ s.me.ldffQueued = false ∧
      s.myPart?.isSome = true := by decide +kernel

/-- VectorElements, MaskResults, Reductions, VectorScalars, TileResults: every register resident, on a service strand and in a
partition. -/
theorem witness_vecReady : ∀ s ∈ [mon, dev], ∀ tag ∈ [0, 10, 15], ∀ g < 5, (vec s tag).vecReady g (below 64) := by
  have h : ∀ s ∈ [mon, dev], ∀ tag ∈ ([0, 10, 15] : List (BitVec 4)), ∀ r ∈ below 64, ((vec s tag).me.vres r).inSlot = true := by
    decide +kernel
  have a : ∀ s ∈ [mon, dev], ∀ tag ∈ ([0, 10, 15] : List (BitVec 4)), ∀ g < 5, (vec s tag).allows g := by
    intro s hs tag _ g hg
    simp only [List.mem_cons, List.not_mem_nil, or_false] at hs
    rcases hs with rfl | rfl
    · exact (witness_groups g hg).1
    · exact (witness_groups g hg).2
  intro s hs tag ht g hg
  have a := a s hs tag ht g hg
  have h := h s hs tag ht
  simp only [List.mem_cons, List.not_mem_nil, or_false] at hs
  rcases hs with rfl | rfl <;>
    exact ⟨rfl, rfl, rfl, rfl, rfl, rfl, rfl, rfl, a, rfl, Nat.zero_le 4, rfl, rfl, rfl, rfl, rfl, h⟩

/-- VectorElements: rows that the tags allow, of every list. -/
theorem witness_VectorElements :
    let s := vec mon 10
    s.me.mode? 7 = some 0 ∧ (∃ y ∈ s.me.binRows 1 2 3 4 0, y.i.wf = true ∧ y.ok) ∧ (∃ y ∈ s.me.unRows 1 2 0, y.i.wf = true ∧ y.ok) ∧
    (∃ y ∈ s.me.mixRows 1 2 3 4 0 7 0 8 false, y.i.wf = true ∧ y.ok) ∧ (∃ y ∈ s.me.moveRows 1 2 3 4 0, y.i.wf = true ∧ y.ok) ∧
    (∃ y ∈ s.me.carryRows 1 2 3 0, y.i.wf = true ∧ y.ok) :=
  ⟨by decide, ⟨_, .head _, rfl, (by decide : 10 = 10 ∧ 10 < 12 ∧ (true = true ∨ 10 < 8))⟩, ⟨_, .head _, rfl, trivial⟩,
   ⟨_, .head _, rfl, (by decide : 10 = 10 ∧ 10 = 10 ∧ 10 < 12)⟩, ⟨_, .head _, rfl, rfl⟩,
   ⟨_, .head _, rfl, (by decide : 10 < 12)⟩⟩

/-- MaskResults: a stack of 15 and one of 16 entries, and an empty one. -/
theorem witness_MaskResults : dev.me.place.isSome = true ∧ dev.me.mstack = [] ∧
    (on dev fun t => { t with mstack := List.replicate 15 0 }).me.mstack.length < 16 ∧
    ¬ (on dev fun t => { t with mstack := List.replicate 16 0 }).me.mstack.length < 16 ∧ (vec mon 11).me.vtagOf 63 < 12 := by decide

/-- TileResults: the last group of f64 rows and one past it; an open tile of integers. -/
theorem witness_TileResults : (56 : VReg).toNat % 8 = 0 ∧ 8 * 15 + 7 < vlmax 11 ∧ ¬ 8 * 16 + 7 < vlmax 11 ∧
    (∀ r ∈ group (8 : VReg) 8, (vec mon 0).me.vtagOf r = 0) ∧ (1 : VReg).toNat ∉ group (8 : VReg) 8 ∧
    (on (vec mon 0) fun t => { t with tiles := [⟨8, [⟨[], 0, 0, 0⟩]⟩] }).me.tiles = [⟨(8 : VReg).toNat, [⟨[], 0, 0, 0⟩]⟩] := by
  decide +kernel

/-- `mon` with two f64 elements in each register, service-memory address `a` in s5, and 8 in s6. -/
def vmem (a : Word) : State := on (vec mon 11) fun t => { (t.setS 5 a).setS 6 8 with vl := 2, vtag := 11 }

/-- The elements of a unit-stride access of `vmem 0x100`, and their places. -/
def vmemPlaced : List Placed :=
  [(⟨0, [0x100], 8⟩, [⟨svcAt 0x100, .svc, false⟩]), (⟨1, [0x108], 8⟩, [⟨svcAt 0x108, .svc, false⟩])]

/-- VectorLoads: two elements that have places; and a `vldff` whose second element lies past the end of service memory. -/
theorem witness_VectorLoads :
    ((vmem 0x100).issued (.vld 1 5 0) (.ld 1 0x100 .unit false 0) 4).inStrip.reaches .r noExtra ((vmem 0x100).elements .unit 0x100 64 0)
      vmemPlaced ((vmem 0x100).issued (.vld 1 5 0) (.ld 1 0x100 .unit false 0) 4) ∧
    State.quiet ((vmem 0x100).issued (.vld 1 5 0) (.ld 1 0x100 .unit false 0) 4) vmemPlaced ∧
    VAddr.allows (.index 2 3) (vec mon 7).me 64 ∧ VAddr.fits (.index 2 3) (vec mon 7).me 2 (widthOf 7) ∧ VAddr.allows (.stride 8) mon.me 8 ∧
    (let s := vmem 0x7FFFFF8
     let es := s.elements .unit 0x7FFFFF8 64 0
     let q := s.issued (.vldff 1 5 0) (.ld 1 0x7FFFFF8 .unit true 0) 4
     takeChunk [] es = (es, []) ∧ (es.head?.map (·.e)) ≠ some 1 ∧
     (checkChunk .r noExtra es).run q.inStrip =
       .ok ([(⟨0, [0x7FFFFF8], 8⟩, [⟨svcAt 0x7FFFFF8, .svc, false⟩])], some ⟨1, ⟨6, 0x8000000, .mon⟩, true⟩) q) := by
  refine ⟨⟨by decide +kernel, runsTo (by decide +kernel)⟩, ?_, ⟨by decide, by decide⟩, fun _ => by decide, (by decide : (8 : Nat) ≠ 4),
    by decide +kernel, by decide +kernel, runsTo (by decide +kernel)⟩
  unfold State.quiet State.settled State.plainAt
  decide +kernel

/-- VectorStores, VectorAtomicResults: two elements apart; `vstx` with indices that are apart; a plane of one block. -/
theorem witness_VectorStores :
    ((vmem 0x100).issued (.vst 1 5 0) (.st 1 0x100 .unit false 0) 4).inStrip.reaches .w noExtra ((vmem 0x100).elements .unit 0x100 64 0)
      vmemPlaced ((vmem 0x100).issued (.vst 1 5 0) (.st 1 0x100 .unit false 0) 4) ∧
    apart vmemPlaced ∧ (∀ z ∈ vmemPlaced, ∀ z' ∈ vmemPlaced, z ≠ z' → z.1.at' ≠ z'.1.at') ∧ (vmem 0x100).Inv ∧
    (let s := vmem 0x100
     let es : List Elt := [⟨0, [0x100, 0x101], 1⟩]
     let q := s.issued (.vplane 1 5 0 0) (.plane 1 0x100 0 1) 8
     q.inStrip.reaches .w noExtra es [(⟨0, [0x100, 0x101], 1⟩, [⟨svcAt 0x100, .svc, false⟩, ⟨svcAt 0x101, .svc, false⟩])] q) ∧
    (let s := on (vmem 0x100) fun t => { t with tags := t.tags.set 2 7, v := t.v.set 2 (8 * 2 ^ 64) }
     let q := s.issued (.vamoAdd 1 5 2 3 0 0 0 0 1) (.amo .add 1 0x100 2 0 3 0 0 false true) 8
     (vec s 7).me.vtagOf 3 < 8 ∧ q.inStrip.reaches .rw noExtra (s.elements (.index 2 0) 0x100 64 0) vmemPlaced q) := by
  refine ⟨⟨by decide +kernel, runsTo (by decide +kernel)⟩, ?_, by decide +kernel, ?_,
    ⟨by decide +kernel, runsTo (by decide +kernel)⟩, by decide, by decide +kernel, runsTo (by decide +kernel)⟩
  · unfold apart
    decide +kernel
  · unfold State.Inv
    decide +kernel

/-- VectorTraps: a held queue; a port as destination; a strand without a partition; tags that differ; an index of another width
than the data; a poisoned source; a store whose first element has no
place. -/
theorem witness_VectorTraps :
    ((on mon fun t => { t with vheld := true }).me.vheld = true ∧ (VOp.ext 31 1 0).sd = some 31 ∧
      (on mon fun t => { t with porten := 8 }).me.isPort 31 = true ∧ mon.myPart? = none ∧ mon.me.place.isSome = true ∧
      widthOf ((vec mon 7).me.vtagOf 1) ≠ widthOf mon.me.vtag.toNat) ∧
    ((on (vec mon 10) fun t => { t with tags := t.tags.set 3 11 }).me.vtagOf 2 ≠
        (on (vec mon 10) fun t => { t with tags := t.tags.set 3 11 }).me.vtagOf 3 ∧
      (on (vec mon 10) fun t => { t with vpoison := 1 <<< 63 }).me.vpoison.getLsbD 63 = true ∧
      (vec mon 10).me.actives ((vec mon 10).me.kreg 0) (vlmax 10) = [0, 1, 2, 3]) ∧
    (let s := vmem 0x8000000
     let q := s.issued (.vst 1 5 0) (.st 1 0x8000000 .unit false 0) 4
     (checkChunk .w noExtra (takeChunk [] (s.elements .unit 0x8000000 64 0)).1).run q.inStrip =
       .ok ([], some ⟨0, ⟨7, 0x8000000, .mon⟩, true⟩) q) :=
  ⟨by decide +kernel, by decide +kernel, runsTo (by decide +kernel)⟩

/-- `vec mon 10` with the first stream port bound, and vectors in its FIFO. -/
def streamed (b : Bind) (n : Nat) : State := on (vec mon 10) fun t => { t with
  sports := ⟨b, true, List.replicate n ⟨1, 16, 10, 0, false, false⟩⟩ :: List.replicate 7 SPort.empty }

/-- StreamResults: a vector to take, none; room for one more, none; no binding; a port of the other direction; a limit that the event
ends; a call without and with an active element. -/
theorem witness_StreamResults :
    (((streamed .arrival 1).me.sport 0).fifo = ⟨1, 16, 10, 0, false, false⟩ :: [] ∧ ((streamed .arrival 0).me.sport 0).fifo = [] ∧
      ((streamed .arrival 0).me.sport 0).bind = .arrival ∧ ((streamed .departure 3).me.sport 0).fifo.length < 4 ∧
      4 ≤ ((streamed .departure 4).me.sport 0).fifo.length ∧ ((streamed .departure 4).me.sport 0).bind = .departure ∧
      ((streamed .unbound 0).me.sport 7).bind = .unbound ∧ (7 : BitVec 3).toNat < (streamed .unbound 0).me.sports.length) ∧
    ({ streamed .departure 4 with ev := ev1 (streamed .departure 4).me.uid }.ev.x = (streamed .departure 4).me.uid ∧
      (0xFFFF : BitVec 16) ≠ 0) ∧
    (eaOk part0 dev.me 0xFFF02 true = true ∧ dev.myPart? = dev.parts.head? ∧ (60 : VReg).toNat + (3 : BitVec 4).toNat ≤ 63 ∧
      (vec dev 10).me.isActive ((vec dev 10).me.kreg 0) 2048 3 = true ∧ dev.queueFull 2 0 0 0 0x80000 = false) ∧
    ∀ j, (on (vec dev 10) fun t => { t with vl := 0 }).me.isActive allOnes 2048 j = false :=
  ⟨by decide +kernel, by decide +kernel, by decide +kernel, fun j => by simp [Strand.isActive, on]⟩

/-- Dwords in memory. -/
def withDwords (s : State) (l : List (Nat × Nat)) : State :=
  { s with mem := l.foldl (fun m x => Mem.writeL m x.1 (leBytes 8 x.2)) s.mem }

/-- The bits of a context RCB and of a queue RCB under it (R173). -/
def ctxBits : Nat := 2 + 0x10000 * 2 ^ 448 + 0x81000 * 2 ^ 512 + 0x100000 * 2 ^ 576
def queueBits : Nat := 3 + 0x80000 * 2 ^ 64

/-- A launch record for the position above `dev`'s, two strands, one unit of scratch (R183). -/
def record : BitVec 512 :=
  BitVec.ofNat 512 (0x20000 + 7 * 2 ^ 64 + 1 * 2 ^ 128 + 0x11000 * 2 ^ 192 + 0xB0000 * 2 ^ 320 + 0x80080 * 2 ^ 448)

/-- The fence record of the same queue. -/
def fenceRec : BitVec 512 := BitVec.ofNat 512 ((0x80080 + 2) * 2 ^ 448)

/-- `dev` with its RCBs, its core map, the descriptor of launch queue 0 and two records of its ring in memory; the queue is open. -/
def sys (tail head : Nat) : State :=
  let s := withDwords dev [(0x80000, 2), (0x80038, 0x10000), (0x80040, 0x81000), (0x80048, 0x100000), (0x80080, 3), (0x80088, 0x80000),
    (0x81000, 0x40100000001), (0x90000, 0x27), (0x90008, 0xA0000), (0x90010, tail), (0x90018, head), (0xA0000, 0x20000),
    (0xA0008, 7), (0xA0010, 1), (0xA0018, 0x11000), (0xA0028, 0xB0000), (0xA0038, 0x80080), (0xA0078, 0x80082)]
  { s with parts := [{ part0 with
    rcbs := [⟨0x80000, BitVec.ofNat 1024 ctxBits, false, [0x001, 0x401] ++ List.replicate 62 0⟩,
      ⟨0x80080, BitVec.ofNat 1024 queueBits, false, []⟩]
    lqbase := 0x90001
    queues := ⟨true, false, 0x27, 0xA0000, BitVec.ofNat 32 tail, BitVec.ofNat 32 head, BitVec.ofNat 32 head, [], 0⟩ ::
      List.replicate 63 LQueue.closed }] }

/-- Its partition. -/
def sysPart (tail head : Nat) : Part := (sys tail head).parts.headD part0

/-- Operands of a step. -/
def withEv (s : State) (x y : Nat) (v : Word) : State := { s with ev := ⟨x, y, 0, v, false, []⟩ }

/-- `sys` with a second strand of its context: placed on the core above, or switched out. -/
def sysTwo (place : Option (CoreId × Nat)) : State :=
  let s := sys 2 0
  let t := { dev.me with uid := 2, pos := 1, place := place, vback := 0x200001 }
  { s with others := [t], slots := s.slots ++ match place with
    | some _ => [⟨⟨0, 0, 0, 1⟩, 2, 2⟩]
    | none => [] }

/-- The hypervisor strand of a device with one free bulkhead, one policy, and a request block at 0x4000 of HYP memory; the
partition is there, or not. -/
def hyp (ps : List Part) (bh : Bulkhead) (l : List Nat) : State :=
  withDwords { mon with
    ev := ⟨0, 0, 0, 0x4000, false, []⟩
    me := { Strand.fresh 3 .hyp with live := true, pl := .hyp, place := some (⟨0, 8, 1, 0⟩, 0) }
    slots := [⟨⟨0, 8, 1, 0⟩, 0, 3⟩]
    scol := [8], fwbase := 1, fwsize := 1, mem := tables, parts := ps
    bhs := bh :: List.replicate 31 Bulkhead.dark
    flash := ⟨List.replicate 72 0 ++ [1], 0, [], 0, []⟩
    policies := [⟨5, [], 2 ^ 25⟩, ⟨6, [], 2 ^ 25⟩] }
    (l.zipIdx.map fun (x, i) => (svcAt (0x14000 + 8 * i), x))

/-- A call of `dev` in a queue of an engine, with a record from (value, bit) pairs. -/
def callOf (kind queue : Nat) (l : List (Nat × Nat)) : Call :=
  ⟨9, 1, 0, 0, 0, 0x80000, 0x80080, 1, kind, queue, 0, 0, BitVec.ofNat 512 ((l.map fun x => x.1 * 2 ^ x.2).foldl (· + ·) 0), [], 0, 0,
    [], none, none, 7, 0, 0x10000, .sup, false, 0, [], [], [], [], 0, 0, 0, false⟩

/-- `dev` with one call, which the event names. -/
def engine (c : Call) : State := { dev with calls := [c], ev := ⟨9, 0, 0, 0, false, []⟩ }

/-- A matrix job of one element and one K-block in scratch, with a report and full bits (R333). -/
def matrixCall : Call := callOf 0 0 [(1, 0), (1, 4), (1, 7), (1, 11), (7, 12), (7, 16), (1, 64), (1, 80), (1, 96), (0, 128), (16, 160),
  (0x100, 192), (16, 224), (0x200, 256), (4, 288), (0x300, 352)]

/-- PostResults: a table of FAULT slots alone; an ENGQ cap of 1 with a call under it; a queue that is full; with NW and without. -/
theorem witness_PostResults_full :
    (∀ o ∈ (on dev fun t => { t with calls := List.replicate 64 (some ⟨1, 0, 0, 0, .fault, 7, 1⟩) }).me.calls,
      ∃ x : Slot, o = some x ∧ (x.stat = .fault ∨ x.stat = .reset)) ∧
    ({ dev with calls := [matrixCall] } : State).engqOver { part0 with rcb := BitVec.ofNat 1024 (2 ^ 21 + 2 ^ 288) } 0x80000 0x80080 =
      true ∧
    ({ dev with calls := List.replicate 32 matrixCall } : State).queueFull 0 0 0 0 0x80000 = true ∧
    eaNw 0xFFF00 = false ∧ eaNw 0x1FFF00 = true := by
  refine ⟨?_, by decide +kernel⟩
  intro o ho
  exact ⟨_, List.eq_of_mem_replicate ho, .inl rfl⟩

/-- A copy of two dwords from the start of the scratch (R343). -/
def copyFields (type : Nat) : List (Nat × Nat) :=
  [(type, 0), (1, 4), (3, 8), (0xFFF, 16), (1, 28), (2, 192), (1, 212), (1, 232)]
def copyCall : Call := callOf 1 0 (copyFields 1 ++ [(1, 6), (0xFFF, 32), (1, 44), (0x100, 128)])
def gatherCall : Call := callOf 1 0 (copyFields 2 ++ [(0xFFF, 32), (1, 44), (0x100, 128), (0x200, 384)])
def mcastCall : Call := callOf 1 0 (copyFields 3 ++ [(0xFFF, 32), (1, 44), (0x100, 128), (1, 384)])
def putCall (type peer : Nat) : Call := callOf 1 1 (copyFields type ++ [(if type = 5 then 4 else 0, 10), (0x20000, 128), (peer, 384)])

/-- Feeds of one vector of 16 bytes, by the first port (R343, R347). -/
def feedinCall : Call := callOf 1 2 (copyFields 6 ++ [(0xA0, 384)])
def feedoutCall : Call := callOf 1 2 [(7, 0), (1, 4), (0xFFF, 32), (1, 44), (0x100, 128), (1, 212), (1, 232)]

/-- RegisterWrites: the partition and level of `sys`; an area that is mapped, one that is not; a held entry; a DET whose entries
are used, or not; a queue descriptor that reads; contexts and a buffer to reload, kill and attest. -/
theorem witness_RegisterWrites :
    1 ≤ (sys 2 0).me.pl.num ∧ (sys 2 0).myPart? = some (sysPart 2 0) ∧
    (sys 2 0).unmapped (sysPart 2 0) 0x200000 131072 = none ∧ (sys 2 0).me.vback.getLsbD 0 = false ∧ (sys 2 0).me.vq = [] ∧
    (sys 2 0).vown (sys 2 0).me = true ∧ (sys 2 0).me.tiles = [] ∧
    ((sys 2 0).unmapped (sysPart 2 0) 0x800000000000 4096).isSome = true ∧
    (on (sys 2 0) fun t => { t with vheld := true, vq := [t.entry (.vmzero 8) (.tileZero 8)] }).me.vq =
      dev.me.entry (.vmzero 8) (.tileZero 8) :: [] ∧
    ({ sys 2 0 with accums := [⟨0x40000000, 0, 5, false, false, false, some 0⟩] } : State).entriesUsed (sysPart 2 0) = true ∧
    (sys 2 0).entriesUsed (sysPart 2 0) = false ∧ (sysPart 2 0).lqbase.getLsbD 0 = true ∧
    ((sys 2 0).ipaBytes (sysPart 2 0) ((sysPart 2 0).descIpa 0) 40).isSome = true ∧
    (sys 2 0).rcbValid (sysPart 2 0) 0x80000 = true ∧ ((sysPart 2 0).rcb? 0x80080).isSome = true ∧
    ((sys 2 0).ipaBytes (sysPart 2 0) (0xC0000 + 24) 64).isSome = true ∧
    (∀ q ∈ (sys 2 0).parts, q.pid = 0 → q = sysPart 2 0) ∧ (sys 2 0).onTime := by
  unfold State.onTime
  decide +kernel

/-- The second strand of `sysTwo`. -/
def second (place : Option (CoreId × Nat)) : Strand := (sysTwo place).others.headD dev.me

/-- A launch of `record` in `sys`, and one of the host's at SUP. -/
def queuedLaunch : Launch := mkLaunch 7 0 (some 0) 0 record (List.replicate 128 0) 0x80000 0x80080 .app .waiting
def supLaunch : Launch := { mkLaunch 8 0 none 0 record (List.replicate 128 0) 0x80000 0x80080 .sup .waiting with left := 0 }

/-- `sysTwo` on the core above its first strand. -/
def upper : Option (CoreId × Nat) := some (⟨0, 0, 0, 1⟩, 2)

/-- `sys` with something changed in its partition. -/
def sysWith (place : Option (CoreId × Nat)) (x y : Nat) (f : Part → Part) : State := withEv ((sysTwo place).modPart 0 f) x y 0

/-- `sys` whose strand launches the record at `a` into queue 0, with dwords of the descriptor changed. -/
def launching (a : Word) (l : List (Nat × Nat)) : State := on (withDwords (sys 2 0) l) fun t => (t.setS 5 a).setS 6 0

/-- What `launch` reads of the descriptor, and whether the queue is full then. -/
def seen (s : State) : Option (Nat × Bool) :=
  (s.ipaBytes (sysPart 2 0) 0x90000 40).bind fun l => ((s.refresh 0 0 false).1.part? 0).map fun p => (dwordAt l 0 % 8, (p.queue 0).full)

/-- DispatcherSteps, the instruction: a queue that has no descriptor; EN = 0, PUSH = 0, APPOK = 0; a full queue; one with room, a
record that is not aligned, one that is, a slot that can be written and one that cannot. -/
theorem witness_DispatcherSteps_launch :
    ((64 ≤ (on (sys 2 0) fun t => t.setS 6 64).me.sreg 6) ∧ (sysPart 2 0).descIpa 0 = 0x90000 ∧ 0 < (sysPart 2 0).queues.length ∧
      (sys 2 0).ipaBytes (sysPart 2 0) 0x800000000000 40 = none ∧ (0x20001 : Word).toNat % 64 ≠ 0 ∧ (launching 0x20000 []).me.vq = []) ∧
    (∀ x ∈ [(([] : List (Nat × Nat)), (7, false)), ([(0x90000, 0x26)], (6, false)), ([(0x90000, 0x25)], (5, false)),
      ([(0x90000, 0x23)], (3, false)), ([(0x90010, 4)], (7, true))], seen (launching 0x20000 x.1) = some x.2) ∧
    (let s1 := ((launching 0x20000 [(0x90008, 0x800000000000)]).refresh 0 0 false).1
     (s1.part? 0).any (fun p => !(s1.ipaPlace p ((p.queue 0).slotIpa 2) .w true).toBool) = true) ∧
    (let s1 := ((launching 0x20000 []).refresh 0 0 false).1
     ∃ pl s2, (placeE 0x20000 .r).run (s1.order (· ≤ 1) (· = 0) 2) = .ok (.ok pl) s2 ∧
       (s2.recent.isEmpty && s2.accums.isEmpty && s2.bad.isEmpty && Memory.wf s2.mem &&
        (s2.part? 0).any fun p =>
          (s2.ipaPlace p ((p.queue 0).slotIpa 2) .w true).toOption == some ⟨0xA0080, .pma, false⟩ &&
          ((s2.putDev 0xA0080 (s2.bytesAt pl.addr 64)).ipaPlace p (p.descIpa 0 + 16) .w true).toOption == some ⟨0x90010, .pma, false⟩) = true) := by
  refine ⟨by decide +kernel, by decide +kernel, by decide +kernel, ?_⟩
  obtain ⟨u, h, h2⟩ := hasPlace (pl := ⟨0x20000, .pma, false⟩) (va := 0x20000) (acc := .r)
    (s := ((launching 0x20000 []).refresh 0 0 false).1.order (· ≤ 1) (· = 0) 2)
    (q := fun s2 => s2.recent.isEmpty && s2.accums.isEmpty && s2.bad.isEmpty && Memory.wf s2.mem &&
      (s2.part? 0).any fun p => (s2.ipaPlace p ((p.queue 0).slotIpa 2) .w true).toOption == some ⟨0xA0080, .pma, false⟩ &&
        ((s2.putDev 0xA0080 (s2.bytesAt 0x20000 64)).ipaPlace p (p.descIpa 0 + 16) .w true).toOption == some ⟨0x90010, .pma, false⟩)
    (by decide +kernel)
  exact ⟨_, u, h, h2⟩

/-- DispatcherSteps: a launch whose rectangle has no present position; the cores of `record`'s positions; an area for no bank. -/
theorem witness_DispatcherSteps_cores :
    (let p := sysPart 2 0
     ((p.present queuedLaunch).map fun z => p.coreAt queuedLaunch.ctx z.1).Nodup) ∧
    (sysPart 2 0).present { queuedLaunch with record := record + (1#512 <<< 128) } = [] := by decide +kernel

/-- DispatcherSteps, a barrier at its deadline: nobody waits on it, or the strand that moves. -/
theorem witness_DispatcherSteps_barrier :
    (∀ u ∈ (sysTwo none).strands, u.waitBar = none) ∧
    (let s := on (sysWith none 0 5 fun p => { p with bars := [⟨5, 0, 0x80000, 3, [(0, 0), (1, 0)], [], [(1, 0)], 0⟩] })
       fun t => { t with waitBar := some 5 }
     s.me.resident = true ∧ s.me.owner.pid? = some 0 ∧ s.me.participant = (0, 0) ∧ ∀ u ∈ s.others, u.resident = false) := by
  decide +kernel

/-- DispatcherSteps, the dispatchers: each clause's state. -/
theorem witness_DispatcherSteps :
    (sysTwo upper).named ∧
    (let s := withEv { sys 2 0 with launches := [supLaunch] } 0 0 0
     ((s.trimDc 0).part? 0).bind (fun p => (s.trimDc 0).supWork p) = some (supLaunch, [])) ∧
    (sys 2 0).part? 0 = some (sysPart 2 0) ∧ (sys 2 0).headRecord (sysPart 2 0) 0 = some (some record) ∧
    (sys 2 0).recKind (sysPart 2 0) record = .launch ∧ (sys 2 0).recReady (sysPart 2 0) 0 record .launch = true ∧
    (sys 2 1).headRecord (sysPart 2 1) 0 = some (some fenceRec) ∧ (sys 2 1).recKind (sysPart 2 1) fenceRec = .fence ∧
    (sys 2 1).recReady (sysPart 2 1) 0 fenceRec .fence = true ∧
    (let s := withEv { sys 2 0 with launches := [queuedLaunch] } 7 0 0
     let p := sysPart 2 0
     s.launch? 7 = some queuedLaunch ∧ s.eligible p queuedLaunch = true ∧
       s.fits p queuedLaunch (p.eff queuedLaunch.ctx queuedLaunch.rcb).prio (-1) = some [] ∧ p.present queuedLaunch ≠ [] ∧
       (p.rcb? queuedLaunch.ctx).isSome = true ∧ ∀ u ∈ s.strands, u.uid < s.nextId) := by
  unfold State.named
  decide +kernel

/-- DispatcherSteps, strands: one to switch out, to resume, to save; a pool that is exhausted; a parked word; a barrier at its
deadline. -/
theorem witness_DispatcherSteps_strands :
    ((sysTwo upper).strand? 2 = some (second upper) ∧ (second upper).resident = true ∧ (second upper).owner.pid?.isSome = true ∧
      (second upper).vback.getLsbD 0 = true) ∧
    ((sysTwo none).strand? 2 = some (second none) ∧ (second none).owner.pid?.bind (sysTwo none).part? = some (sysPart 2 0) ∧
      (sysTwo none).resumable (sysPart 2 0) (second none) = some ⟨0, 0, 0, 1⟩ ∧ (sysTwo none).freeSlots ⟨0, 0, 0, 1⟩ ≠ [] ∧
      ∀ o ∈ (sysTwo none).slots, o.uid ≠ 2) ∧
    ((second none).live = true ∧ ({ sysTwo none with slots := [⟨⟨0, 0, 0, 1⟩, 2, 2⟩] } : State).vown (second none) = true ∧
      (second none).tiles = []) ∧
    ((sysWith upper 0 0 fun p => { p with rcb := BitVec.ofNat 1024 (9 + 2 ^ 17 + 1000 * 2 ^ 128 + 10 * 2 ^ 192), pools := [⟨0, 0, 100000⟩] }).part? 0).any
      (fun p => p.exhausted (sysTwo upper).time 0) = true ∧
    ((sysWith upper 2 3 fun p => { p with parked := [⟨2, 3, 77, false⟩] }).part? 0).any (fun p =>
      p.parked.find? (fun w => w.uid = 2 && w.port = 3) = some ⟨2, 3, 77, false⟩) = true ∧
    (nth (second upper).ports.toList 3 []).length < 16 ∧
    ((sysWith none 0 5 fun p => { p with bars := [⟨5, 0, 0x80000, 3, [(0, 0), (1, 0)], [], [(1, 0)], 0⟩] }).part? 0).any (fun p =>
      (p.bar 5).arrived != [] && decide ((p.bar 5).deadline ≤ (sysTwo none).time.toNat)) = true := by
  decide +kernel

/-- Bulkhead 0, owned by partition 0, and free. -/
def ownedBh : Bulkhead := ⟨.owned, some 0, false, false, false⟩
def freeBh : Bulkhead := ⟨.free, none, false, false, false⟩

/-- Does the request block of a hypervisor state hold a request, its block as said? -/
def asks (s : State) (op pid : Nat) (q : List Byte → Bool) : Bool :=
  match s.reqBlock (s.ev.v.toNat / 2 ^ 6 % 2 ^ 42 * 2 ^ 6) with
  | some (o, x, p) => o == op && p == pid && dwordAt x 0 / 2 ^ 13 == 0 && q x
  | none => false

theorem asks_ok {s : State} {op pid : Nat} {q : List Byte → Bool} (h : asks s op pid q = true) :
    ∃ x, s.reqBlock (s.ev.v.toNat / 2 ^ 6 % 2 ^ 42 * 2 ^ 6) = some (op, x, pid) ∧ dwordAt x 0 / 2 ^ 13 = 0 ∧ q x = true := by
  unfold asks at h
  split at h
  · simp only [Bool.and_eq_true, beq_iff_eq] at h
    rename_i e
    exact ⟨_, h.1.1.1 ▸ h.1.1.2 ▸ e, h.1.2, h.2⟩
  · cases h

/-- A request to open window 3 of partition 0 on grant 0 of partition 1, for writing, and its grant table. -/
def winReq : State := withDwords { hyp [part0, { newPart 1 1 8 [] [] 0 with xgrant := 0xC0001 }] ⟨.owned, some 1, false, false, false⟩
  [6, 3 + 16 + 65536, 64] with scol := [8] } [(0xC0000, 3), (0xC0008, 0x20000), (0xC0010, 0x10000)]

/-- MonitorRequests: the caller; then a block of each kind with what its clause asks of it. -/
theorem witness_MonitorRequests :
    (let s := hyp [part0] ownedBh [2]
     s.me.owner = .hyp ∧ 2 ≤ s.me.pl.num ∧ s.me.vq = [] ∧ s.named ∧ s.onTime) ∧
    asks (hyp [] freeBh [1, 1, 8, 0, 5, 0x8000, 64, 0x400, 9]) 1 0 (fun x => allZero (leNat x) createReserved &&
      maskBhs (dwordAt x 1 % 2 ^ 32) == [0] && dwordAt x 2 % 2 ^ 12 == 8 && dwordAt x 6 / 2 ^ 6 % 2 ^ 15 == 1 &&
      partRcbOk (leNat (slice x 64 128)) && dwordAt x 4 % 2 ^ 32 == 5) = true ∧
    (hyp [] freeBh []).part? 0 = none ∧ ((hyp [] freeBh []).bh 0).state = .free ∧
    ((hyp [] freeBh []).hypImage 0x8000 64).isSome = true ∧ ((hyp [] freeBh []).svcRoom 64).isSome = true ∧ (hyp [] freeBh []).Inv ∧
    asks (hyp [part0] ownedBh [2]) 2 0 (restZero · 8) = true ∧ (hyp [part0] ownedBh [2]).part? 0 = some part0 ∧
    asks (hyp [part0] ownedBh [3]) 3 0 (restZero · 8) = true ∧
    asks (hyp [part0] ownedBh [4, 0]) 4 0 (fun x => restZero x 16 && decide (dwordAt x 1 < 32)) = true ∧
    ((hyp [part0] ownedBh [4, 0]).bh 0).state = .owned ∧
    (hyp [part0] ownedBh []).coreOf (hyp [part0] ownedBh []).me = some ⟨0, 8, 1, 0⟩ ∧
    (hyp [part0] ownedBh []).coreBh ⟨0, 8, 1, 0⟩ = none ∧
    asks (hyp [part0] Bulkhead.dark [5, 0x100]) 5 0 (fun x => restZero x 16 && allZero (dwordAt x 1) [(5, 3), (9, 55)] &&
      (dwordAt x 1).testBit 8) = true ∧ (hyp [part0] Bulkhead.dark []).bhen.testBit 0 = true ∧
    asks (hyp [part0] freeBh [5, 0]) 5 0 (fun x => restZero x 16 && !(dwordAt x 1).testBit 8) = true ∧
    asks (hyp [part0] ownedBh [7, 3]) 7 0 (fun x => restZero x 16 && decide (dwordAt x 1 < 16)) = true ∧
    asks (hyp [part0] ownedBh [8, 0, 1]) 8 0 (fun x => restZero x 24 && decide (dwordAt x 2 < 2)) = true ∧
    asks (hyp [part0] ownedBh [9, 0, 0, 0, 0, 0, 0, 0, 9]) 9 0 (fun x => (slice x 8 56).all (· == 0) &&
      partRcbOk (leNat (slice x 64 128))) = true ∧
    asks (hyp [] freeBh [12, 6]) 12 0 (fun x => restZero x 16 && dwordAt x 1 == 6) = true ∧
    (∀ r ∈ (hyp [] freeBh []).svcRanges, 0 < r.1 → 0 < r.2 → 0x400 ≤ r.1) ∧ (∀ k ∈ (hyp [] freeBh []).cores, k.scanBy = none) ∧
    ({ hyp [part0] ownedBh [] with hmReq := some (4, 0) }).hmReq = some (4, 0) ∧ (Bulkhead.dark.rising = false) := by
  unfold State.named State.onTime State.Inv
  decide +kernel

/-- MonitorRequests, WINOPEN: the grant is there and names contiguous memory of its partition. -/
theorem witness_MonitorRequests_window :
    asks winReq 6 0 (fun x => restZero x 24 && allZero (dwordAt x 1) [(9, 3), (17, 47)] && decide (64 ≤ dwordAt x 2) &&
      dwordAt x 1 / 16 % 32 == 1 && dwordAt x 1 / 2 ^ 12 % 16 == 0) = true ∧
    ((winReq.part? 1).bind fun q => (winReq.grant q 0).bind id).any (fun l =>
      let g := leNat l
      g / 2 ^ 8 % 32 == 0 && g.testBit 1 && (winReq.part? 1).any fun q => winReq.contiguous q true (g / 2 ^ 144 % 2 ^ 27)
        (g / 2 ^ 80 % 2 ^ 32 * 2 ^ 16) (winReq.pmaOf q (g / 2 ^ 80 % 2 ^ 32 * 2 ^ 16))) = true ∧
    ∀ r ∈ winReq.parts, r.windows = [] := by
  decide +kernel

/-- MonitorRequests, MONUPD and POLADD: an image that lies in HYP memory and is signed by the firmware key (which signatures are
valid is free, log 9). -/
theorem witness_MonitorRequests_image (l : List Byte) (h : (hyp [] freeBh []).hypImage 0x8000 0x400 = some l)
    (hs : imageSigned l = true) :
    ∃ x, (hyp [] freeBh [11, 0x8000, 0x400]).reqBlock 0x4000 = some (11, x, 0) ∧ restZero x 24 = true ∧
      (hyp [] freeBh []).newImage x = .ok l := by
  obtain ⟨x, h1, -, h2⟩ := asks_ok (s := hyp [] freeBh [11, 0x8000, 0x400]) (op := 11) (pid := 0)
    (q := fun x => restZero x 24 && dwordAt x 1 == 0x8000 && dwordAt x 2 == 0x400) (by decide +kernel)
  simp only [Bool.and_eq_true, beq_iff_eq] at h2
  refine ⟨x, h1, h2.1.1, ?_⟩
  unfold State.newImage
  rw [h2.1.2, h2.2]
  have e : bits 0x400 6 15 * 64 = 0x400 := by decide
  simp only [e, h, hs]
  rfl

/-- A test orchestrator on the service column of `dev`'s die, which names core 0 of cluster 0. -/
def orch (v : Word) : State := { mon with
  ev := ⟨0, 0, 0, v, false, []⟩
  clus := List.replicate 72 (BitVec.ofNat 16 (15 * 512))
  me := { mon.me with place := some (⟨0, 8, 1, 0⟩, 0) }
  scol := [8]
  bhs := ownedBh :: List.replicate 31 Bulkhead.dark }

/-- MonitorRequests, the orchestrator: a core that it may name, withdrawn and drained or not; one that it may not. -/
theorem witness_MonitorRequests_withdraw :
    (orch 0).me.pl = .mon ∧ (orch 0).cwTargetOk (physCore 0) 0 = true ∧ ((orch 0).ctl (physCore 0)).scanBy = none ∧
    ((orch 0).ctl (physCore 0)).wd = false ∧ (orch 0x200000).cwTargetOk (physCore 0x200000) 0x200000 = true ∧
    (let s := (orch 0x200000).modCtl ⟨0, 0, 0, 0⟩ fun k => { k with wd := true }
     (s.ctl (physCore 0x200000)).wd = true ∧ s.drained (physCore 0x200000) = true ∧
       s.cwTargetOk (physCore 0x200000) 0x200000 = true) ∧
    bits ((orch 0).clusOf (physCore 0)) 9 4 ≠ (physCore 0).core ∧ (orch 0).cwTargetOk (physCore 0x20) 0x20 = false := by
  decide +kernel

/-- DeviceSteps: an owned bulkhead; one in reset whose partition has a strand; one that rises; one in scrub. A service core with
each role. -/
theorem witness_DeviceSteps :
    (0 < dev.bhs.length ∧ (dev.bh 0).state = .owned) ∧
    (let s := dev.modBh 0 fun x => { x with state := .reset, dying := true }
     (s.bh 0).state = .reset ∧ (s.bh 0).owner = some 0 ∧ (s.part? 0).isSome = true) ∧
    (let s := (dev.modBh 0 fun x => { x with state := .reset, owner := none }).modCtl ⟨0, 0, 0, 0⟩ fun k => { k with wd := true }
     (s.bh 0).dying = false ∧ (s.bh 0).owner = none ∧ s.cores.any (fun k => k.wd && s.coreBh k.core == some 0) = true) ∧
    ((dev.modBh 0 fun x => { x with rising := true }).bh 0).rising = true ∧
    ((dev.modBh 0 fun x => { x with state := .scrub }).bh 0).state = .scrub ∧ (dev.bh 0).state ≠ .scrub ∧
    dev.flash.monitor.length ≤ 2 ^ 27 ∧
    (∀ v ∈ [0, 1, 2, 3, 4], (nth { dev with roles := [BitVec.ofNat 8 v] }.roles 0 15).toNat % 16 = v) := by
  decide +kernel

/-- A host access. -/
def hostEv (s : State) (off z : Nat) (write : Bool) (data : List Byte) : State := { s with ev := ⟨0, 0, z, wd off, write, data⟩ }

/-- A peer table of one entry: device 5, sending partition 0; it lets a put out and in, and a put-add in (R461). -/
def peered (s : State) : State :=
  withDwords { s with parts := [{ part0 with peertab := 0x90001 }] } [(0x90000, 0xF + 5 * 2 ^ 8 + 2 ^ 32), (0x90008, 0x10000)]

/-- An inbound put of a dword, or put-add, to an address that has a place. -/
def inPut (add : Bool) (dst : Nat) : State := { peered dev with ev := ⟨0, 5, 3 * 2 ^ 5 + 4 * 2 ^ 7, wd dst, add, leBytes 8 7⟩ }

/-- HostSteps: no partition; a window access with a place, one without; a register; supervisor records while strands are live and
with none; the firewall open and shut. -/
theorem witness_HostSteps :
    State.reset.part? 0 = none ∧ dev.part? 0 = some (dev.parts.headD part0) ∧
    (hostEv dev (hostWindow + 0x20000) 8 false []).hostPlaces (dev.parts.headD part0) 0x20000 8 .r = some [(0x20000, 8)] ∧
    (hostEv dev (hostWindow + 0x20000) 0 true (leBytes 8 7)).hostPlaces (dev.parts.headD part0) 0x20000 8 .w = some [(0x20000, 8)] ∧
    dev.Inv ∧ dev.plainAt 0x20000 8 ∧ dev.hostPlaces (dev.parts.headD part0) 0x800000000000 8 .r = none ∧
    (∃ u ∈ dev.strands, u.live = true ∧ u.owner.pid? = some 0) ∧
    (let s := on (sys 2 0) fun t => { t with live := false }
     (∀ u ∈ s.strands, u.live = true → u.owner.pid? ≠ some 0) ∧
     (s.ipaNat (sysPart 2 0) 0xA0000 64).any (fun n => !recFence (BitVec.ofNat 512 n) &&
       s.reason (sysPart 2 0) .sup (BitVec.ofNat 512 n) == 0) = true) ∧
    (hostEv dev hostWindow 8 false []).pfen = false ∧ 0 + 8 ≤ ({ dev with pfen := true } : State).hypSize ∧ 8 ≤ dev.hypSize ∧
    dev.plainAt (dev.hypAt 0) 8 ∧ dev.resting 0x20000 8 ∧ dev.resting (dev.hypAt 0) 8 ∧
    ¬ ({ dev with accums := [⟨0x40000000, 0, 5, false, false, false, some 0⟩] } : State).resting 0x40000000 8 := by
  unfold State.Inv State.plainAt State.resting
  decide +kernel

/-- The peer entry of `inPut`. -/
def inEntry : Peer := ⟨5, 0, true, true, true, 0x10000, 0⟩

/-- HostSteps, puts from peers: no entry; one that matches, for an address that has a place, in a partition or at its host, and for one
without; a transfer in flight to the peer whose link is lost. -/
theorem witness_HostSteps_peers : dev.inbound part0 5 0 false = none ∧
    (∀ x ∈ [(true, 0x20000), (false, 0x20000), (true, 0x80000000), (false, 0xC0000000)],
      (inPut x.1 x.2).inbound ((inPut x.1 x.2).parts.headD part0) 5 0 x.1 = some inEntry) ∧
    (let c := inboundCall ((inPut true 0x20000).parts.headD part0) inEntry
     bits (inPut true 0x20000).ev.z 7 3 = 4 ∧ ∃ s1, (operand c 0x20000 .rw).run (inPut true 0x20000) = .ok ⟨0x20000, .pma, false⟩ s1 ∧
       s1.Inv ∧ s1.accums = []) ∧
    (let c := inboundCall ((inPut true 0x80000000).parts.headD part0) inEntry
     ∃ s1, (operand c 0x80000000 .rw).run (inPut true 0x80000000) = .ok ⟨hostAt 0, .host, false⟩ s1) ∧
    (let c := inboundCall ((inPut false 0xC0000000).parts.headD part0) inEntry
     ∃ f s1, (inboundBody c false 4 8 0xC0000000 (leBytes 8 7)).run (inPut false 0xC0000000) = .error f s1) ∧
    (let c := inboundCall ((inPut false 0x20000).parts.headD part0) inEntry
     ∃ s1, (inboundBody c false 4 8 0x20000 (leBytes 8 7)).run (inPut false 0x20000) = .ok () s1) ∧
    (let c : Call := { putCall 4 0 with started := true, peer := some (5, 0), todo := [1] }
     ([c].filter fun c => c.kind = 1 && c.started && (c.peer.map (·.1)) = some 5) = [c] ∧ c.todo ++ c.held.map Prod.fst ≠ []) := by
  refine ⟨by decide +kernel, by decide +kernel, ⟨by decide +kernel, ?_⟩, ?_, ?_, ?_, by decide +kernel⟩
  · obtain ⟨a, u, h, h2⟩ := runIs_ok (x := operand (inboundCall ((inPut true 0x20000).parts.headD part0) inEntry) 0x20000 .rw)
      (s := inPut true 0x20000) (p := fun a u => decide (a = ⟨0x20000, .pma, false⟩) && Memory.wf u.mem && decide (u.accums = []))
      (by decide +kernel)
    simp only [Bool.and_eq_true, decide_eq_true_eq] at h2
    exact ⟨u, h2.1.1 ▸ h, h2.1.2, h2.2⟩
  · obtain ⟨a, u, h, h2⟩ := runIs_ok (x := operand (inboundCall ((inPut true 0x80000000).parts.headD part0) inEntry) 0x80000000 .rw)
      (s := inPut true 0x80000000) (p := fun a _ => decide (a = ⟨hostAt 0, .host, false⟩)) (by decide +kernel)
    exact ⟨u, of_decide_eq_true h2 ▸ h⟩
  · exact runErr_ok (by decide +kernel)
  · obtain ⟨a, u, h, -⟩ := runIs_ok (x := inboundBody (inboundCall ((inPut false 0x20000).parts.headD part0) inEntry) false 4 8 0x20000
      (leBytes 8 7)) (s := inPut false 0x20000) (p := fun _ _ => true) (by decide +kernel)
    exact ⟨u, h⟩

/-- The leaves of both stages that `tables` give the first GiB, and the translation that they make. -/
def leaf1 : Leaf := ⟨0, 2 ^ 30, true, true, true, true, false, false⟩
def leaf2 : Leaf := ⟨0, 2 ^ 30, true, true, true, false, false, false⟩
def firstGiB : Page := ⟨0, 0, 2 ^ 30, leaf1, leaf2⟩

/-- The partition of `dev`. -/
def thePart : Part := dev.parts.headD part0

/-- May a TLB entry of these tables stand for the first GiB: its page, or a table on the way to it? -/
def goodTlb (t : Tlb) : Bool := t.what = .page firstGiB || t.what = .table 0 0x12000 || t.what = .table 1 0x12800

/-- The entries of `tables` for it. -/
def tableDwords : List (Nat × Nat) := [(0x10000, 0x12001), (0x12000, 0x12801), (0x12800, 0x3F), (svcAt 0x10000, 0x2001),
  (svcAt 0x12000, 0x2801), (svcAt 0x12800, 0x1F)]

/-- A state in which the first GiB translates to itself, whichever way a free choice goes. -/
structure Steady (s : State) : Prop where
  parts : s.parts = [thePart]
  tabs : ∀ x ∈ tableDwords, s.natAt x.1 8 = x.2
  owned : (s.bh 0).state = .owned
  base : s.fwbase = 1
  size : s.fwsize = 1
  plain : s.accums = []
  wf : Memory.wf s.mem = true
  tlb : ∀ t ∈ s.tlb, goodTlb t = true

/-- It is steady still when none of this changes. -/
theorem Steady.of {s t : State} (h : Steady s)
    (e : (t.parts, t.mem, t.bhs, t.fwbase, t.fwsize, t.accums) = (s.parts, s.mem, s.bhs, s.fwbase, s.fwsize, s.accums))
    (tlb : ∀ x ∈ t.tlb, goodTlb x = true) : Steady t := by
  simp only [Prod.mk.injEq] at e
  obtain ⟨parts, mem, bhs, base, size, plain⟩ := e
  refine ⟨parts.trans h.parts, fun x hx => ?_, ?_, base.trans h.base, size.trans h.size, plain.trans h.plain, mem ▸ h.wf, tlb⟩
  · rw [← h.tabs x hx]
    simp only [State.natAt, State.bytesAt, State.byteAt, mem, plain]
  · have := h.owned
    simp only [State.bh, bhs] at *
    exact this

theorem bits_low (a lo n : Nat) (h : a < 2 ^ lo) : bits a lo n = 0 := by
  simp [bits, Nat.shiftRight_eq_div_pow, Nat.div_eq_of_lt h]

theorem Steady.stage2 {s : State} (h : Steady s) (a : Nat) (ha : a < 2 ^ 30) : s.stage2 thePart a = .ok leaf2 := by
  have t1 : s.natAt (svcAt 0x10000) 8 = 0x2001 := h.tabs (svcAt 0x10000, 0x2001) (by decide)
  have t2 : s.natAt (svcAt 0x12000) 8 = 0x2801 := h.tabs (svcAt 0x12000, 0x2801) (by decide)
  have t3 : s.natAt (svcAt 0x12800) 8 = 0x1F := h.tabs (svcAt 0x12800, 0x1F) (by decide)
  have b1 := bits_low a 46 10 (by omega)
  have b2 := bits_low a 38 8 (by omega)
  have b3 := bits_low a 30 8 (by omega)
  have hs : s.hypSize = 65536 := by simp [State.hypSize, h.size, h.base]
  have h0 : ∀ o, s.hypAt o = svcAt (65536 + o) := by intro o; simp [State.hypAt, h.base]
  have r : bits thePart.s2root.toNat 13 35 <<< 13 = 0 := by decide +kernel
  have e1 : pteOa 0x2001 = 0x2000 := by decide
  have e2 : pteOa 0x2801 = 0x2800 := by decide
  have c1 : (!bit 0x2001 0 || bits 0x2001 48 8 != 0) = false := by decide
  have c2 : (!bit 0x2801 0 || bits 0x2801 48 8 != 0) = false := by decide
  have c3 : (!bit 0x1F 0 || bits 0x1F 48 8 != 0) = false := by decide
  have d1 : bit 0x2001 1 = false := by decide
  have d2 : bit 0x2801 1 = false := by decide
  have d3 : bit 0x1F 1 = true := by decide
  have f1 : ((2048 : Nat) = 0 || bits 0x2001 2 7 != 0 || 0x2000 % 2048 != 0) = false := by decide
  have f2 : ((2048 : Nat) = 0 || bits 0x2801 2 7 != 0 || 0x2800 % 2048 != 0) = false := by decide
  have g : pteLeafOk true ⟨30, 8, 512, 2 ^ 30⟩ 0x1F = true := by decide
  have l : (⟨pteOa 0x1F, pteSize ⟨30, 8, 512, 2 ^ 30⟩ 0x1F, bit 0x1F 2, bit 0x1F 3, bit 0x1F 4, bit 0x1F 5, bit 0x1F 6, bit 0x1F 7⟩ : Leaf) = leaf2 := by
    decide
  simp only [State.stage2, r, levels, walk, b1, b2, b3, hs, h0, Nat.mul_zero, Nat.add_zero, Nat.zero_add]
  simp only [t1, e1, c1, d1, f1, if_true, if_false, Bool.false_eq_true, show (8 : Nat) ≤ 65536 by decide]
  simp only [show 65536 + 0x2000 = 0x12000 by decide, show (0x2000 : Nat) + 8 ≤ 65536 by decide, t2, e2, c2, d2, f2, if_true, if_false, Bool.false_eq_true]
  simp only [show 65536 + 0x2800 = 0x12800 by decide, show (0x2800 : Nat) + 8 ≤ 65536 by decide, t3, c3, d3, g, l, if_true, if_false, Bool.false_eq_true]

theorem Steady.region {s : State} (h : Steady s) (a : Nat) (ha : a < 2 ^ 30) (w : Bool) (ipa : Nat) :
    s.region thePart ipa a w false false = .ok ⟨a, .pma, false⟩ := by
  have r : bits a 46 2 = 0 := bits_low a 46 2 (by omega)
  have q : bits a 0 46 = a := by simp [bits]; omega
  have n : thePart.nb = 1 := by decide +kernel
  have b : thePart.bh 0 = 0 := by decide +kernel
  have m : thePart.pmaAt a = (0, a) := by
    simp only [Part.pmaAt, n, Nat.mod_one, b, Nat.div_one]
    congr 1
    omega
  have g : a < 17179869184 := by omega
  simp [State.region, r, q, n, State.pmaPlace, m, h.owned, hbmAt, g]

theorem Steady.ipaPlace {s : State} (h : Steady s) (a : Nat) (ha : a < 2 ^ 30) :
    s.ipaPlace thePart a .r = .ok ⟨a, .pma, false⟩ := by
  have e : leaf2.oa + a % leaf2.size = a := by simp [leaf2]; omega
  simp only [State.ipaPlace, h.stage2 a ha, e, h.region a ha]
  rfl

/-- The levels and the table that a walk goes on from. -/
def fromOf : Option Cached → List Lvl × Nat
  | some (.table i t) => (levels.drop (i + 1), t)
  | _ => (levels, rootOf 0x10000)

/-- A walk from each table on the way leads to the page of the first GiB, and meets the tables behind it. -/
theorem Steady.walkFrom {s : State} (h : Steady s) (a : Nat) (ha : a < 2 ^ 30) (acc : Acc) (app : Bool) :
    ∀ c ∈ [none, some (Cached.table 0 0x12000), some (Cached.table 1 0x12800)],
      s.walkFrom thePart (fromOf c).1 (fromOf c).2 a acc app = .ok firstGiB ∧
      ∀ x ∈ tablesMet (s.entryAt thePart) (a % 2 ^ 56) (fromOf c).1 (fromOf c).2, x = (0, 0x12000) ∨ x = (1, 0x12800) := by
  have t1 : s.natAt 0x10000 8 = 0x12001 := h.tabs (0x10000, 0x12001) (by decide)
  have t2 : s.natAt 0x12000 8 = 0x12801 := h.tabs (0x12000, 0x12801) (by decide)
  have t3 : s.natAt 0x12800 8 = 0x3F := h.tabs (0x12800, 0x3F) (by decide)
  have b1 := bits_low a 46 10 (by omega)
  have b2 := bits_low a 38 8 (by omega)
  have b3 := bits_low a 30 8 (by omega)
  have am : a % 2 ^ 56 = a := Nat.mod_eq_of_lt (by omega)
  have r : rootOf 0x10000 = 0x10000 := by decide
  have p1 : s.entryAt thePart 0x10000 = .ok 0x12001 := by simp only [State.entryAt, h.ipaPlace 0x10000 (by decide), t1]
  have p2 : s.entryAt thePart 0x12000 = .ok 0x12801 := by simp only [State.entryAt, h.ipaPlace 0x12000 (by decide), t2]
  have p3 : s.entryAt thePart 0x12800 = .ok 0x3F := by simp only [State.entryAt, h.ipaPlace 0x12800 (by decide), t3]
  have e1 : pteOa 0x12001 = 0x12000 := by decide
  have e2 : pteOa 0x12801 = 0x12800 := by decide
  have c1 : (!bit 0x12001 0 || bits 0x12001 48 8 != 0) = false := by decide
  have c2 : (!bit 0x12801 0 || bits 0x12801 48 8 != 0) = false := by decide
  have c3 : (!bit 0x3F 0 || bits 0x3F 48 8 != 0) = false := by decide
  have d1 : bit 0x12001 1 = false := by decide
  have d2 : bit 0x12801 1 = false := by decide
  have d3 : bit 0x3F 1 = true := by decide
  have f1 : ((2048 : Nat) = 0 || bits 0x12001 2 7 != 0 || 0x12000 % 2048 != 0) = false := by decide
  have f2 : ((2048 : Nat) = 0 || bits 0x12801 2 7 != 0 || 0x12800 % 2048 != 0) = false := by decide
  have g : pteLeafOk false ⟨30, 8, 512, 2 ^ 30⟩ 0x3F = true := by decide
  have l : (⟨pteOa 0x3F, pteSize ⟨30, 8, 512, 2 ^ 30⟩ 0x3F, bit 0x3F 2, bit 0x3F 3, bit 0x3F 4, bit 0x3F 5, bit 0x3F 6, bit 0x3F 7⟩ : Leaf) = leaf1 := by
    decide
  have n1 : leaf1.refuses acc app = false := by cases acc <;> cases app <;> rfl
  have i : leaf1.oa + a % leaf1.size = a := by simp [leaf1]; omega
  have z : a / min leaf1.size leaf2.size * min leaf1.size leaf2.size = 0 := by simp [leaf1, leaf2]; omega
  have w3 : ∀ ls, walk (s.entryAt thePart) XErr.s1 false a (⟨30, 8, 512, 2 ^ 30⟩ :: ls) 0x12800 = .ok leaf1 := by
    intro ls
    simp only [walk, b3, Nat.mul_zero, Nat.add_zero, p3, c3, d3, g, l, if_true, if_false, Bool.false_eq_true]
  have w2 : ∀ ls, walk (s.entryAt thePart) XErr.s1 false a (⟨38, 8, 2048, 0⟩ :: ⟨30, 8, 512, 2 ^ 30⟩ :: ls) 0x12000 = .ok leaf1 := by
    intro ls
    rw [walk]
    simp only [b2, Nat.mul_zero, Nat.add_zero, p2, e2, c2, d2, f2, w3, if_false, Bool.false_eq_true]
  have w1 : walk (s.entryAt thePart) XErr.s1 false a levels 0x10000 = .ok leaf1 := by
    rw [levels, walk]
    simp only [b1, Nat.mul_zero, Nat.add_zero, p1, e1, c1, d1, f1, w2, if_false, Bool.false_eq_true]
  have fin : ∀ ls tbl, walk (s.entryAt thePart) XErr.s1 false a ls tbl = .ok leaf1 → s.walkFrom thePart ls tbl a acc app = .ok firstGiB := by
    intro ls tbl hw
    simp only [State.walkFrom, State.pageOf, am, hw, n1, i, z, h.stage2 a ha, if_false, Bool.false_eq_true]
    rfl
  have q1 : bit 0x12001 0 = true := by decide
  have q2 : bit 0x12801 0 = true := by decide
  have v3 : ∀ ls, tablesMet (s.entryAt thePart) a (⟨30, 8, 512, 2 ^ 30⟩ :: ls) 0x12800 = [] := by
    intro ls
    simp only [tablesMet, b3, Nat.mul_zero, Nat.add_zero, p3, d3, Bool.not_true, Bool.and_false, Bool.false_eq_true, if_false]
  have v2 : tablesMet (s.entryAt thePart) a (levels.drop 1) 0x12000 = [(1, 0x12800)] := by
    show tablesMet (s.entryAt thePart) a (⟨38, 8, 2048, 0⟩ :: ⟨30, 8, 512, 2 ^ 30⟩ :: levels.drop 3) 0x12000 = _
    rw [tablesMet]
    simp only [b2, Nat.mul_zero, Nat.add_zero, p2, e2, d2, q2, v3, Bool.not_false, Bool.and_true, if_true]
    rfl
  have v1 : tablesMet (s.entryAt thePart) a levels 0x10000 = [(0, 0x12000), (1, 0x12800)] := by
    show tablesMet (s.entryAt thePart) a (⟨46, 10, 2048, 0⟩ :: levels.drop 1) 0x10000 = _
    rw [tablesMet]
    simp only [b1, Nat.mul_zero, Nat.add_zero, p1, e1, d1, q1, v2, Bool.not_false, Bool.and_true, if_true]
    rfl
  intro c hc
  simp only [List.mem_cons, List.not_mem_nil, or_false] at hc
  rw [am]
  have f0 : fromOf none = (levels, 0x10000) := by show (levels, rootOf 0x10000) = _; rw [r]
  rcases hc with rfl | rfl | rfl
  · rw [f0]
    exact ⟨fin _ _ w1, by rw [v1]; simp⟩
  · exact ⟨fin _ _ (w2 _), by show ∀ x ∈ tablesMet (s.entryAt thePart) a (levels.drop 1) 0x12000, _; rw [v2]; simp⟩
  · exact ⟨fin _ _ (w3 _), by show ∀ x ∈ tablesMet (s.entryAt thePart) a (⟨30, 8, 512, 2 ^ 30⟩ :: levels.drop 3) 0x12800, _; rw [v3]; simp⟩

theorem Steady.usePage {s : State} (h : Steady s) (a : Nat) (ha : a < 2 ^ 30) (acc : Acc) (app : Bool) (hx : acc ≠ .x) :
    s.usePage thePart firstGiB a acc app = .ok ⟨a, .pma, false⟩ := by
  have n1 : firstGiB.l1.refuses acc app = false := by cases acc <;> cases app <;> rfl
  have n2 : firstGiB.l2.refuses acc false = false := by cases acc <;> rfl
  have i : firstGiB.ipa + a % firstGiB.size = a := by simp [firstGiB]; omega
  have j : firstGiB.l2.oa + a % firstGiB.l2.size = a := by simp [firstGiB, leaf2]; omega
  simp only [State.usePage, n1, n2, i, j, show firstGiB.l1.det = false from rfl, h.region a ha]
  rfl

/-- Two states that differ in what is cached and in the count of free values alone. -/
def Alike (s t : State) : Prop := ∃ l d, t = { s with tlb := l, draw := d }

theorem Alike.refl (s : State) : Alike s s := ⟨s.tlb, s.draw, rfl⟩
theorem Alike.trans {s t u : State} (h : Alike s t) (g : Alike t u) : Alike s u := by
  obtain ⟨_, _, rfl⟩ := h
  obtain ⟨l, d, rfl⟩ := g
  exact ⟨l, d, rfl⟩

theorem Steady.alike {s : State} (h : Steady s) (l : List Tlb) (d : Nat) (hl : ∀ t ∈ l, goodTlb t = true) :
    Steady { s with tlb := l, draw := d } := h.of rfl hl

theorem Steady.cache {s : State} (h : Steady s) (f : Nat) (t : Tlb) (ht : goodTlb t = true) :
    Alike s (s.cache f t) ∧ Steady (s.cache f t) := by
  unfold State.cache
  split
  · exact ⟨.refl s, h⟩
  · have sub : ∀ x ∈ s.tlb.filter (fun u => !t.rival u), goodTlb x = true := fun x hx => h.tlb x ((List.mem_filter.1 hx).1)
    dsimp only
    refine ⟨⟨_, _, rfl⟩, h.alike _ _ ?_⟩
    intro x hx
    rcases List.mem_cons.1 hx with rfl | hx
    · exact ht
    · split at hx
      · exact sub x hx
      · split at hx
        · exact sub x ((List.mem_filter.1 hx).1)
        · exact sub x hx

theorem Steady.fold {α : Type} {f : State → α → State} {l : List α} (hf : ∀ s x, x ∈ l → Steady s → Alike s (f s x) ∧ Steady (f s x))
    {s : State} (h : Steady s) : Alike s (l.foldl f s) ∧ Steady (l.foldl f s) :=
  List.foldlRecOn (motive := fun u => Alike s u ∧ Steady u) l f ⟨.refl s, h⟩ fun u hu x hx =>
    have k := hf u x hx hu.2
    ⟨hu.1.trans k.1, k.2⟩

theorem Steady.cacheAll {s : State} (h : Steady s) (at' : List TlbPlace) (asid : BitVec 16) (ls : List Lvl) (tbl a : Nat)
    (hm : ∀ x ∈ tablesMet (s.entryAt thePart) (a % 2 ^ 56) ls tbl, x = (0, 0x12000) ∨ x = (1, 0x12800)) :
    Alike s (s.cacheAll at' thePart asid ls tbl a firstGiB) ∧ Steady (s.cacheAll at' thePart asid ls tbl a firstGiB) := by
  unfold State.cacheAll State.cacheMet
  refine Steady.fold (fun u pl _ hu => Steady.fold (fun v t ht hv => hv.cache _ t ?_) hu) h
  rcases List.mem_cons.1 ht with rfl | ht
  · rfl
  · obtain ⟨x, hx, rfl⟩ := List.mem_map.1 ht
    rcases hm x hx with rfl | rfl <;> rfl

theorem Steady.freeBelow {s : State} (h : Steady s) (n : Nat) : ∃ k t, (freeBelow n).run s = .ok k t ∧ Alike s t ∧ Steady t := by
  unfold Machine.freeBelow
  split
  · exact ⟨0, s, rfl, .refl s, h⟩
  · exact ⟨_, { s with draw := s.draw + 1 }, rfl, ⟨s.tlb, s.draw + 1, rfl⟩, h.alike s.tlb (s.draw + 1) h.tlb⟩

theorem Steady.xlate {s : State} (h : Steady s) (at' : List TlbPlace) (a : Nat) (ha : a < 2 ^ 30) (acc : Acc) (hx : acc ≠ .x) :
    ∃ t, (xlate at' 0 0 0x10000 .sup (wd a) acc).run s = .ok (.ok ⟨a, .pma, false⟩) t ∧ Alike s t ∧ Steady t := by
  have w : (wd a).toNat = a := by simp [wd]; omega
  have cn : canonical (wd a) = true := by simp [canonical, w, bits_low a 55 9 (by omega)]
  have pt : s.part? 0 = some thePart := by simp only [State.part?, h.parts]; decide +kernel
  have ap : decide (Level.sup = Level.app) = false := rfl
  unfold Machine.xlate
  simp only [run_bind, run_get, pt, cn, w, Bool.not_true, Bool.false_eq_true, if_false, ap]
  generalize hh : s.tlb.filter _ = hits
  have good : ∀ t ∈ hits, goodTlb t = true := by
    intro t ht
    subst hh
    exact h.tlb t ((List.mem_filter.1 ht).1)
  obtain ⟨k, q, hk, aq, hs⟩ := h.freeBelow (hits.length + 1)
  rw [hk]
  simp only
  have table : ∀ c ∈ [none, some (Cached.table 0 0x12000), some (Cached.table 1 0x12800)], ∃ t,
      (match State.walkFrom s thePart (fromOf c).1 (fromOf c).2 a acc false with
        | .error e => (pure (.error e) : M (Except XErr Place))
        | .ok x => do
          modify fun (s : State) => s.cacheAll at' thePart 0 (fromOf c).1 (fromOf c).2 a x
          return s.usePage thePart x a acc false).run q = .ok (.ok ⟨a, .pma, false⟩) t ∧ Alike s t ∧ Steady t := by
    intro c hc
    have g := hs.cacheAll at' 0 _ _ a (hs.walkFrom a ha acc false c hc).2
    refine ⟨_, ?_, aq.trans g.1, g.2⟩
    simp only [(h.walkFrom a ha acc false c hc).1, run_bind, run_modify, run_pure, h.usePage a ha acc false hx]
  generalize hc : (if k = 0 then none else hits[k - 1]?.map (·.what)) = c
  have cases : c = none ∨ c = some (.page firstGiB) ∨ c = some (.table 0 0x12000) ∨ c = some (.table 1 0x12800) := by
    subst hc
    split
    · exact .inl rfl
    · cases he : hits[k - 1]? with
      | none => exact .inl rfl
      | some t =>
        have := good t (List.mem_of_getElem? he)
        simp only [goodTlb, Bool.or_eq_true, decide_eq_true_eq] at this
        rcases this with (q | q) | q <;> simp [q]
  rcases cases with rfl | rfl | rfl | rfl
  · exact table none (by simp)
  · exact ⟨q, by simp only [run_pure, h.usePage a ha acc false hx], aq, hs⟩
  · exact table (some (.table 0 0x12000)) (by simp)
  · exact table (some (.table 1 0x12800)) (by simp)

theorem erun_ofM {α : Type} {m : M α} {a : α} {s t : State} (h : m.run s = .ok a t) : (ofM m).run s = .ok a t := by
  unfold ofM
  simp only [EStateM.run] at *
  rw [h]

theorem Steady.operand {s : State} (h : Steady s) (c : Call) (hp : c.pid = 0) (ha : c.asid = 0) (ht : c.ptbase = 0x10000)
    (hl : c.level = .sup) (a : Nat) (hlt : a < 2 ^ 30) (acc : Acc) (hx : acc ≠ .x) :
    ∃ t, (operand c (wd a) acc).run s = .ok ⟨a, .pma, false⟩ t ∧ Alike s t ∧ Steady t := by
  have w : (wd a).toNat = a := by simp [wd]; omega
  have i : inAperture (wd a) = false := by simp [inAperture, w, apertureBase]; omega
  obtain ⟨t, h1, h2⟩ := h.xlate c.tlbs a hlt acc hx
  refine ⟨t, ?_, h2⟩
  unfold Machine.operand
  simp only [i, Bool.false_eq_true, if_false, run_bind, run_pure, hp, ha, ht, hl, erun_ofM h1]

/-- Is an address outside the entries of the tables? -/
def offTables (x : Nat) : Bool := tableDwords.all fun d => x < d.1 || d.1 + 8 ≤ x

theorem Steady.write {s : State} (h : Steady s) (x : Nat) (b : Byte) (hx : offTables x = true) :
    Steady { s with mem := Mem.write s.mem x b } := by
  refine ⟨h.parts, ?_, h.owned, h.base, h.size, h.plain, Memory.wf_write x b h.wf, h.tlb⟩
  intro d hd
  rw [← h.tabs d hd]
  simp only [offTables, List.all_eq_true] at hx
  have hx := hx d hd
  simp only [Bool.or_eq_true, decide_eq_true_eq] at hx
  simp only [State.natAt, State.bytesAt]
  congr 1
  apply List.map_congr_left
  intro i hi
  have hi : i < 8 := by simpa [below] using hi
  simp only [State.byteAt, h.plain, List.find?_nil]
  exact Mem.read_write_other b h.wf (by omega)

theorem Steady.loop {n : Nat} (f : Nat → State → State) (hf : ∀ i s, i < n → Steady s → Steady (f i s)) {s : State} (h : Steady s) :
    Steady (loop n f s) :=
  List.foldlRecOn (motive := Steady) (below n) _ h fun u hu i hi => hf i u (by simpa [below] using hi) hu

theorem Steady.breach {s : State} (h : Steady s) (p c : Nat) (lv : Level) : Steady (s.breach p c lv) :=
  h.of (by simp) (by simpa using h.tlb)

theorem Steady.noteWrite {s : State} (h : Steady s) (p c : Nat) (lv : Level) (a n : Nat) : Steady (s.noteWrite p c lv a n) := by
  unfold State.noteWrite
  split
  · exact h
  · dsimp only
    split
    · exact h
    · exact h.breach _ _ _

theorem Steady.putBy {s : State} (h : Steady s) (w a : Nat) (l : List Byte) (ha : ∀ i, i < l.length → offTables (a + i) = true)
    (soft : Bool := false) : Steady (s.putBy w a l soft) := by
  have p : Steady (s.put a l) := by
    simp only [State.put, h.plain, List.filter_nil, List.foldl_nil, List.map_nil]
    have q := Steady.loop (n := l.length) (fun i t =>
      if t.accums.any (·.meets (a + i) 1) then t else { t with mem := Mem.write t.mem (a + i) (nth l i 0) })
      (fun i t hi ht => by
        have z : t.accums.any (·.meets (a + i) 1) = false := by rw [ht.plain]; rfl
        simp only [z, Bool.false_eq_true, if_false]
        exact ht.write _ _ (ha i hi)) (s := s) h
    have e : ({ s with accums := [] } : State) = s := by rw [← h.plain]
    rw [e]
    exact q.of rfl q.tlb
  have q : Steady (((s.put a l).cover a l.length).race a l.length w soft) := p.of rfl p.tlb
  unfold State.putBy
  dsimp only
  split
  · exact q.noteWrite _ _ _ _ _
  · exact q

/-- A call as `callOf` makes it reaches what `tables` map. -/
def Ours (c : Call) : Prop := c.pid = 0 ∧ c.asid = 0 ∧ c.ptbase = 0x10000 ∧ c.level = .sup

theorem Steady.placesOf {s : State} (h : Steady s) {c : Call} (hc : Ours c) (a n : Nat) (acc : Acc) (hx : acc ≠ .x) (ha : a < 2 ^ 30)
    (hr : rangeOf a n = [(a, n)]) : ∃ t, (placesOf c a n acc).run s = .ok [(⟨a, .pma, false⟩, n)] t ∧ Steady t := by
  obtain ⟨t, o, -, z⟩ := h.operand c hc.1 hc.2.1 hc.2.2.1 hc.2.2.2 a ha acc hx
  exact ⟨t, by simp [Machine.placesOf, hr, o], z⟩

theorem Steady.writeOp {s : State} (h : Steady s) {c : Call} (hc : Ours c) (a : Nat) (l : List Byte) (ha : a < 2 ^ 30)
    (hr : rangeOf a l.length = [(a, l.length)]) (ho : ∀ i, i < l.length → offTables (a + i) = true) :
    ∃ t, (writeOp c a l).run s = .ok () t ∧ Steady t := by
  obtain ⟨t, o, -, z⟩ := h.operand c hc.1 hc.2.1 hc.2.2.1 hc.2.2.2 a ha .w (by decide)
  refine ⟨t.putBy c.id a (slice l (a - a) l.length), ?_, z.putBy c.id a _ ?_⟩
  · simp [Machine.writeOp, hr, o]
  · intro i hi
    exact ho i (by simp [slice] at hi; omega)

/-- Is a state steady? -/
def steadyB (s : State) : Bool :=
  decide (s.parts = [thePart]) && (tableDwords.all fun x => s.natAt x.1 8 == x.2) && decide ((s.bh 0).state = .owned) &&
  decide (s.fwbase = 1) && decide (s.fwsize = 1) && decide (s.accums = []) && Memory.wf s.mem && s.tlb.all goodTlb

theorem steady_of {s : State} (h : steadyB s = true) : Steady s := by
  simp only [steadyB, Bool.and_eq_true, decide_eq_true_eq, List.all_eq_true, beq_iff_eq] at h
  exact ⟨h.1.1.1.1.1.1.1, h.1.1.1.1.1.1.2, h.1.1.1.1.1.2, h.1.1.1.1.2, h.1.1.1.2, h.1.1.2, h.1.2, h.2⟩

theorem Steady.readOp {s : State} (h : Steady s) {c : Call} (hc : Ours c) (a n : Nat) (ha : a < 2 ^ 30)
    (hr : rangeOf a n = [(a, n)]) (hb : s.bad = []) (hs : s.recent = []) : ∃ t, (readOp c a n).run s = .ok (s.bytesAt a n) t := by
  obtain ⟨t, o, al, z⟩ := h.operand c hc.1 hc.2.1 hc.2.2.1 hc.2.2.2 a ha .r (by decide)
  have g : ∀ t : State, (get : E State).run t = .ok t t := fun _ => rfl
  have tb : t.bad = [] := by obtain ⟨l, d, rfl⟩ := al; exact hb
  have tr : t.recent = [] := by obtain ⟨l, d, rfl⟩ := al; exact hs
  have tby : t.bytesAt a n = s.bytesAt a n := by obtain ⟨l, d, rfl⟩ := al; rfl
  have tch : t.touch a n = t := by simp [State.touch, z.plain]
  have v : (viewBytes c a n).run t = .ok (s.bytesAt a n) t := by
    unfold viewBytes
    simp [g, tch, tr, tby]
  have nb : t.badAt a n = false := by simp [State.badAt, tb]
  exact ⟨t, by simp [Machine.readOp, hr, o, g, v, nb, require]⟩

/-- Does a piece that answers leave the state as it was? -/
def Still (x : E α) : Prop := ∀ s, match x.run s with
  | .ok _ t => t = s
  | .error _ _ => True

theorem Still.bind {x : E α} {f : α → E β} (hx : Still x) (hf : ∀ a, Still (f a)) : Still (x >>= f) := fun s => by
  have h := hx s
  rw [run_bind]
  generalize x.run s = r at h
  cases r with
  | error => trivial
  | ok a t =>
    obtain rfl : t = s := h
    exact hf a t

theorem Still.get : Still (get : E State) := fun _ => rfl
theorem Still.done (a : α) : Still (pure a : E α) := fun _ => rfl
theorem Still.fault {c v : Nat} : Still (faultAt c v : E α) := fun _ => trivial

theorem Still.require {b : Bool} {c v : Nat} : Still (require b c v) := by
  cases b
  · exact Still.fault
  · exact Still.done ()

theorem Still.run {x : E α} [DecidableEq α] {s : State} {a : α} (hx : Still x)
    (h : runIs x s (fun b _ => decide (b = a)) = true) : x.run s = .ok a s := by
  obtain ⟨b, t, h1, h2⟩ := runIs_ok h
  have k := hx s
  rw [h1] at k
  obtain rfl : t = s := k
  rw [h1, of_decide_eq_true h2]

/-- The checks of a call before its work change nothing. -/
theorem still_checks (c : Call) : Still (checkControl c) ∧ Still (checkBatch c) ∧ Still (checkRayControl c) ∧ Still (checkTrace c) ∧
    Still (checkReply c) ∧ Still (checkColl c) ∧ Still (checkDeposit c) := by
  unfold checkControl checkBatch State.ownSlot checkRayControl checkTrace checkReply checkColl checkDeposit withinQuota
  refine ⟨?_, ?_, ?_, ?_, ?_, ?_, ?_⟩ <;>
    repeat' first
      | exact Still.require
      | exact Still.fault
      | exact Still.done _
      | exact Still.get
      | refine Still.bind ?_ fun _ => ?_
      | split

theorem still_control (c : Call) : Still (checkControl c) := (still_checks c).1
theorem still_batch (c : Call) : Still (checkBatch c) := (still_checks c).2.1
theorem still_rayControl (c : Call) : Still (checkRayControl c) := (still_checks c).2.2.1
theorem still_trace (c : Call) : Still (checkTrace c) := (still_checks c).2.2.2.1
theorem still_reply (c : Call) : Still (checkReply c) := (still_checks c).2.2.2.2.1
theorem still_coll (c : Call) : Still (checkColl c) := (still_checks c).2.2.2.2.2.1
theorem still_deposit (c : Call) : Still (checkDeposit c) := (still_checks c).2.2.2.2.2.2

/-- A 32-bit register of a record: its tag and its first elements. -/
def rr32 (tag : BitVec 4) (l : List Nat) : RecReg := ⟨tag, BitVec.ofNat 8192 ((l.zipIdx.map fun (x, i) => x * 2 ^ (32 * i)).foldl (· + ·) 0)⟩

/-- A sort of four signed 16-bit keys without values (R357). -/
def sortCall : Call := callOf 3 0 [(1, 0), (2, 4), (1, 10), (15, 16), (4, 64), (0x20000, 128), (0x20100, 256), (0x20200, 384)]
/-- The same, of no elements; and with two segments that begin at 0 and 5. -/
def sortNone : Call := callOf 3 0 [(1, 0), (2, 4), (1, 10), (15, 16), (0x20000, 128), (0x20100, 256), (0x20200, 384)]
def sortSeg : Call := callOf 3 0 [(1, 0), (2, 4), (1, 10), (1, 13), (15, 16), (4, 64), (2, 96), (0x20000, 128), (0x20100, 256),
  (0x20200, 384), (0x20300, 448)]
def sortState (c : Call) : State := withDwords (engine c) [(0x20000, 0x0003FFFF80000005), (0x20300, 5 * 2 ^ 32)]

/-- A raster call of one triangle, with corners (0, 0), (16, 0) and (0, 16) (R368, R369). -/
def rasterCall : Call := { callOf 4 0 [(1, 0), (1, 32), (0x20000, 128)] with rets := [1], rk := some 1 }
def rasterState : State := withDwords (engine rasterCall) [(0x20000, 0), (0x20008, 0x41800000), (0x20010, 0x4180000000000000)]

/-- A sample of one lane in the middle of a texture of one RGBA8 texel (R387, R388). -/
def sampleCall : Call := { callOf 2 0 [] with
  regs := [rr32 4 [0x20000, 0, 0, 0], rr32 10 [0x3F000000], rr32 10 [0x3F000000], rr32 10 []], vl := 4, act := 1, rets := [1, 2] }
def sampleState : State := withDwords (engine sampleCall) [(0x20000, 0x20100), (0x20008, 0), (0x20100, 0x80FF0040)]

/-- A program of one micro-op, ADD of state word 0 and input 0 (R373), and an OPEN of slot 3 (R371). -/
def openCall (slot : Nat) : Call := callOf 4 2 [(1, 0), (slot, 4), (9, 16), (12, 32), (100, 64), (0x20000, 128)]
def addOp : Nat := 8 * 2 ^ 15
def rbeSlot : RbeSlot := ⟨0, 3, 0, 0x80000, [0], 0, [BitVec.ofNat 32 addOp], List.replicate 8 0, 9, 100, 100, [], 12, none, 0, 0, 0, 0, []⟩
def withSlot (s : State) (x : RbeSlot) : State := { s with rbe := [x] }
/-- A fragment batch with a token, one fragment at position 0 (R376). -/
def batchCall (token : Nat) : Call := { callOf 4 1 [] with
  regs := [rr32 4 [token, 9 + 3 * 2 ^ 8, 0, 0], rr32 10 [0x3F800000]], vl := 4, act := 1 }
def ctlCall (type slot tok : Nat) (a1 a2 : Nat) : Call := callOf 4 2 [(type, 0), (slot, 4), (tok, 64), (a1, 128), (a2, 192)]

/-- A binding of number 1; a hit; a set of one ray (R397-R405). -/
def rayBind : RayBind := ⟨0, 0, 0x80000, 1, 0x20000, 0x30000, List.replicate 6 0⟩
def aHit : Hit := ⟨1, 0, 0, 1, 7, 0x20080⟩
def rayComp : List (BitVec 32) := [0, 0, 0, 0, 0, 0x3F800000, 0, 0x41200000]
def raySet (st : RayStat) (flags : BitVec 8) : RaySet := ⟨0, 0, 0x80000, 1, 5, 1, flags, [⟨0, rayComp, st, 77, 0, 0, none, [], [], false⟩], 77⟩
def bindCall : Call := callOf 5 2 [(1, 0), (1, 4), (0x20000, 64), (0x30000, 128)]
def unbindCall : Call := callOf 5 2 [(2, 0), (1, 4)]
def dropCall : Call := callOf 5 2 [(3, 0), (5, 16)]
def traceCall : Call := { callOf 5 0 [] with
  regs := [rr32 4 [1, 0, 0, 0]] ++ rayComp.map (fun x => rr32 10 [x.toNat]), vl := 4, act := 1, rets := [1, 2, 3, 4, 5], rk := some 1 }
def replyCall (decision : Nat) : Call := { callOf 5 1 [] with
  regs := [rr32 4 [5, 0, 0, 0], rr32 4 [0], rr32 4 [decision]], vl := 4, act := 1, rets := [1, 2, 3, 4, 5], rk := some 1 }
def rayState (c : Call) (l : List RaySet) : State := { engine c with binds := [rayBind], raysets := l }

/-- A collection of one word a record, eight records a batch (R408). -/
def rouHead (type : Nat) : Nat := if type = 1 then 1 + 0 * 2 ^ 8 + 8 * 2 ^ 16 else 2
def collCall (type : Nat) : Call := { callOf 6 0 [] with regs := [rr32 15 [rouHead type]], vl := 4 }
def depositCall : Call := { callOf 6 0 [] with regs := [rr32 4 [11, 12, 13]], vl := 4, act := 7 }
def coll (recs : List (List (BitVec 32))) : Coll := ⟨0, 1, 0, 0x80000, 0, 1, 8, recs, [4], 0, 0, [], none⟩
def collState (c : Call) (l : List Coll) : State := { engine c with colls := l }

/-- Does the event of a state name its first call, which lies in a queue of a kind of engine? -/
def servesB (s : State) (kind queue : Nat) : Bool :=
  match s.calls with
  | [c] => s.call? s.ev.x == some c && c.kind == kind && c.queue == queue
  | _ => false

theorem serves_of {s : State} {kind queue : Nat} {c : Call} (hc : s.calls = [c]) (h : servesB s kind queue = true) :
    s.serves c kind queue := by
  simp only [servesB, hc, Bool.and_eq_true, beq_iff_eq] at h
  exact ⟨h.1.1, h.1.2, h.2⟩


/-- `matrixCall` with 33 rows, so two tiles, its A at 0x1000, and an earlier job of lower priority on the engine that it suspends. -/
def twoTiles : Call := { matrixCall with record := matrixCall.record + 32#512 <<< 64 + 0x1000#512 <<< 128 }
def slower : Call := { twoTiles with id := 8, prio := 0, started := true, moved := 1 }
/-- A job whose one tile is written. -/
def tiled : Call := { matrixCall with started := true, moved := 1 }
def contended : State := { engine twoTiles with calls := [slower, twoTiles] }

/-- The call of an engine as its turn takes it up. -/
def takenUp (c : Call) : Call := { c with started := true, suspended := false }

/-- MatrixResults: the job that its engine works on passes its checks, with its last tile next, or another, or a job to suspend, or with
all its tiles written; one with a wrong TYPE does not; a tile that goes through; one whose A is in error. -/
theorem witness_MatrixResults :
    (∀ p ∈ [(engine matrixCall, matrixCall), (contended, twoTiles), (engine tiled, tiled)],
      p.1.serves p.2 0 0 ∧ (p.1.jobsOn p.2 = true ∧ p.1.bad = [] ∧ p.1.accums = []) ∧
        (mjob p.2.record.toNat).start p.2 p.1 = .ok devSplit) ∧
    ((mjob matrixCall.record.toNat).tiles[0]? = some (0, 0) ∧ (mjob tiled.record.toNat).tiles[1]? = none ∧
      (mjob twoTiles.record.toNat).tiles.length = 2 ∧ slower.id ≠ twoTiles.id ∧ slower.kind = 0 ∧ slower.eng = twoTiles.eng ∧
      slower.queue = 0 ∧ slower.started = true ∧ (mjob matrixCall.record.toNat).ord = true) ∧
    (let c := callOf 0 0 []
     (engine c).jobsOn c = true ∧ (mjob c.record.toNat).start c (engine c) = .error 0x10) ∧
    (∃ f s1, ((mjob matrixCall.record.toNat).tile (takenUp matrixCall) devSplit 0 0).run
      (({ engine matrixCall with bad := [stashAt 0 0 / 64] } : State).takeUp matrixCall) = .error f s1) := by
  refine ⟨fun p hp => ?_, by decide +kernel, ⟨by decide +kernel, isErr (by decide +kernel)⟩, runErr_ok (by decide +kernel)⟩
  simp only [List.mem_cons, List.not_mem_nil, or_false] at hp
  rcases hp with rfl | rfl | rfl <;>
    exact ⟨⟨by decide +kernel, by decide +kernel, by decide +kernel⟩, by decide +kernel, isOk (by decide +kernel)⟩

/-- A transfer that has started, with elements to move and elements that it holds. -/
def moving (c : Call) (todo : List Nat) (held : List (Nat × List Byte)) (peer : Option (Nat × Nat) := none) : Call :=
  { c with started := true, todo := todo, held := held, peer := peer }

/-- Does the state of a transfer that has started meet what every clause of TransferResults on its steps asks? -/
def movesB (s : State) (c : Call) : Bool :=
  let j := tjob c.record.toNat
  let x := s.spacesNow part0 c j
  servesB s 1 c.queue && s.teMay c && decide (c.grans = []) && decide (s.unwritten part0 c = []) &&
    decide (j.clash c ⟨x.1, x.2, c.peer⟩ s = [])

/-- Is it the transfer's turn, and does its engine serve no other? -/
def aloneB (s : State) (c : Call) : Bool := s.teTurn c && decide ((s.teRing c.eng).length ≤ 1)

/-- The destinations of a put. -/
def toVirt : TPlan := ⟨.scr devSplit, [.virt], none⟩

/-- TransferResults: each type of transfer before it starts, and once it moves; a reserved bit. -/
theorem witness_TransferResults_starts :
    (∀ p ∈ [(copyCall, 0, 1), (gatherCall, 0, 2), (mcastCall, 0, 3), (putCall 4 0xFFF, 1, 4), (putCall 5 0xFFF, 1, 5)],
      servesB (engine p.1) 1 p.2.1 = true ∧ (engine p.1).teMay p.1 = true ∧ bits p.1.record.toNat 0 4 = p.2.2 ∧
        ((engine p.1).teCheck part0 p.1 (tjob p.1.record.toNat)).toBool = true ∧
        movesB (engine (moving p.1 [0, 1] [])) (moving p.1 [0, 1] []) = true ∧
        aloneB (engine (moving p.1 [0, 1] [])) (moving p.1 [0, 1] []) = true) ∧
    (let c := callOf 1 0 ((1, 7) :: copyFields 1)
     (engine c).teMay c = true ∧ (engine c).teCheck part0 c (tjob c.record.toNat) = .error 3) := by
  refine ⟨?_, by decide +kernel, isErr (by decide +kernel)⟩
  decide +kernel

/-- `moving` of a copy to a state whose bulkhead is under reset. -/
def struck : State := (engine (moving copyCall [0, 1] [])).modBh 0 fun x => { x with state := .reset }

/-- TransferResults: one that has started and whose scratch is gone; elements to move, to a place and to none; one to read, in turn and
not, one to write, one for a peer. -/
theorem witness_TransferResults :
    (movesB struck (moving copyCall [0, 1] []) = true ∧ aloneB struck (moving copyCall [0, 1] []) = true ∧
      (struck.spacesNow part0 (moving copyCall [0, 1] []) (tjob copyCall.record.toNat)).1 = .nack) ∧
    (let c := moving (putCall 4 0xFFF) [0] []
     let s := engine c
     (s.spacesNow part0 c (tjob c.record.toNat) = (.scr devSplit, [.virt]) ∧ aloneB s c = true) ∧
       (∃ u, (moveAll c (tjob c.record.toNat) toVirt [0]).run { s with draw := s.draw + 2 } = .ok () u)) ∧
    (let c := moving (callOf 1 1 (copyFields 4 ++ [(0xC0000000, 128), (0xFFF, 384)])) [0] []
     let s := engine c
     (movesB s c = true ∧ aloneB s c = true) ∧
       (∃ f u, (moveAll c (tjob c.record.toNat) toVirt [0]).run { s with draw := s.draw + 2 } = .error f u)) ∧
    (let c := moving copyCall [1] []
     let j := tjob c.record.toNat
     let s := engine c
     movesB s c = true ∧ s.teTurn c = true ∧ s.calls.length = 1 ∧ devSplit.spots (j.srcOf 1 (j.rowOf 1)) j.b = [(stashAt 0 8, 8)] ∧
       s.badAt (stashAt 0 8) 8 = false ∧ s.recent = [] ∧ s.accums = [] ∧
       { s with calls := [c, { c with id := 10 }], served := [(c.eng, c.id, none)] }.teTurn c = false) ∧
    (let c := moving copyCall [] [(1, List.replicate 8 7)]
     let j := tjob c.record.toNat
     let s := engine c
     movesB s c = true ∧ devSplit.spots (j.dstOf 1) j.b = [(stashAt 0 0x108, 8)] ∧ s.Inv ∧ s.plainAt (stashAt 0 0x108) 8) ∧
    (∀ type ∈ [4, 5], let c := moving (putCall type 0) [] [(1, List.replicate 8 7)] (some (0, 0))
     movesB (engine c) c = true) := by
  refine ⟨by decide +kernel, ⟨by decide +kernel, ?_⟩, ⟨by decide +kernel, runErr_ok (by decide +kernel)⟩, by decide +kernel, ?_,
    by decide +kernel⟩
  · obtain ⟨a, u, h, -⟩ := runIs_ok (p := fun _ _ => true)
      (x := moveAll (moving (putCall 4 0xFFF) [0] []) (tjob (putCall 4 0xFFF).record.toNat) toVirt [0])
      (s := { engine (moving (putCall 4 0xFFF) [0] []) with draw := (engine (moving (putCall 4 0xFFF) [0] [])).draw + 2 })
      (by decide +kernel)
    exact ⟨u, h⟩
  · unfold State.Inv State.plainAt
    decide +kernel

/-- `engine` with a feed that has begun, and vectors in its port. -/
def feeding (c : Call) (b : Bind) (l : List SVec) : State := on (engine { c with started := true }) fun t => t.modSport 0 fun y =>
  { y with bind := b, held := true, fifo := l }
/-- A vector of six bytes that arrived; one that was pushed, and one in error. -/
def arrived : SVec := ⟨0x1122, 6, 0, 0x2F, false, false⟩
def pushed : SVec := ⟨0x1122, 6, 0, 0x2F, false, true⟩
def badPushed : SVec := ⟨0x1122, 6, 0, 0x2F, true, true⟩

/-- A feed out that has begun, behind an earlier one to the same scratch. -/
def behind : State :=
  { feeding feedoutCall .departure [pushed] with
    calls := [{ feedoutCall with id := 8, started := true }, { feedoutCall with started := true }] }

/-- TransferResults, feeds: a feed of each direction that passes its checks, with storage for its port and without; a vector to
move, or none; one in error; one that waits for an earlier transfer. -/
theorem witness_TransferResults_feeds :
    (∀ p ∈ [(feedinCall, 6), (feedoutCall, 7)], servesB (engine p.1) 1 2 = true ∧ bits p.1.record.toNat 0 4 = p.2 ∧
      (engine p.1).feedMay p.1 = true ∧ p.1.feedPort = 0 ∧ (engine p.1).portRoom 1 0 = true ∧
      ({ engine p.1 with splits := [] } : State).portRoom 1 0 = false ∧
      ((engine p.1).teCheck part0 p.1 (tjob p.1.record.toNat)).toBool = true) ∧
    (((feeding feedinCall .arrival [arrived]).me.sport 0).fifo.length < 4 ∧
      4 ≤ ((feeding feedinCall .arrival (List.replicate 4 arrived)).me.sport 0).fifo.length ∧
      (∀ v ∈ ((feeding feedoutCall .departure [arrived]).me.sport 0).fifo, v.pushed = false) ∧
      ((feeding feedoutCall .departure [arrived, pushed]).me.sport 0).fifo.find? (·.pushed) = some pushed ∧
      ((feeding feedoutCall .departure [arrived, badPushed]).me.sport 0).fifo.find? (·.pushed) = some badPushed ∧
      (feeding feedinCall .arrival [arrived]).teMay { feedinCall with started := true } = true ∧
      (feeding feedoutCall .departure [arrived, pushed]).teMay { feedoutCall with started := true } = true ∧
      (feeding feedoutCall .departure [pushed]).strand? 1 = some (feeding feedoutCall .departure [pushed]).me) ∧
    (behind.feedWaits part0 { feedoutCall with started := true } pushed = true ∧
      (feeding feedoutCall .departure [pushed]).feedWaits part0 { feedoutCall with started := true } pushed = false) ∧
    (∃ l f s1, (Space.read (.scr devSplit) feedinCall 0 16).run ((feeding feedinCall .arrival [arrived]).serve feedinCall none) =
      .ok (l, f) s1) ∧
    ∃ s2, (feedOut feedoutCall (tjob feedoutCall.record.toNat) ⟨.virt, [.scr devSplit], none⟩ 0 pushed).run
      ((feeding feedoutCall .departure [arrived, pushed]).serve feedoutCall none) = .ok () s2 := by
  refine ⟨by decide +kernel, by decide +kernel, by decide +kernel, ?_, ?_⟩
  · obtain ⟨a, u, h, -⟩ := runIs_ok (p := fun _ _ => true)
      (x := Space.read (.scr devSplit) feedinCall 0 16) (s := (feeding feedinCall .arrival [arrived]).serve feedinCall none)
      (by decide +kernel)
    exact ⟨a.1, a.2, u, h⟩
  · obtain ⟨a, u, h, -⟩ := runIs_ok (p := fun _ _ => true)
      (x := feedOut feedoutCall (tjob feedoutCall.record.toNat) ⟨.virt, [.scr devSplit], none⟩ 0 pushed)
      (s := (feeding feedoutCall .departure [arrived, pushed]).serve feedoutCall none) (by decide +kernel)
    exact ⟨u, h⟩

/-- A sort of `sortCall` whose passes are made, with nothing left to write; and one whose keys have no place. -/
def lastPass : Call := { sortCall with started := true, moved := 2, held := [(3, [0])] }
def lostKeys : Call :=
  { callOf 3 0 [(1, 0), (2, 4), (1, 10), (15, 16), (4, 64), (0xC0000000, 128), (0x20100, 256), (0x20200, 384)] with started := true }

theorem ofM_freeBool (s : State) : ∃ b t, (ofM freeBool).run s = .ok b t := ⟨_, _, rfl⟩

/-- A sort with nothing left to write is complete, whatever the free choices. -/
theorem last_pass (s : State) : ∃ u, (digitPass lastPass (sjob sortCall.record.toNat)).run s = .ok true u := by
  obtain ⟨b, t, h⟩ := ofM_freeBool s
  obtain ⟨d, u, g⟩ := ofM_freeBool t
  have m : lastPass.moved = (sjob sortCall.record.toNat).passes := by decide +kernel
  have k : lastPass.kept 4 = [] := by decide +kernel
  have e : lastPass.todo = [] := by decide +kernel
  have o : ∀ va (s : State), (putOut lastPass va []).run s = .ok () s := fun va s => rfl
  unfold digitPass
  rw [if_pos m]
  unfold writeOuts
  simp only [k, e, List.length_nil, if_true, run_bind, h]
  cases b
  · unfold freePart
    simp only [Bool.false_eq_true, if_false, run_bind, g]
    cases d
    · exact ⟨_, rfl⟩
    · exact ⟨_, rfl⟩
  · simp only [if_true, List.take_nil, List.drop_nil, run_bind, o]
    exact ⟨_, rfl⟩

/-- A sort inside its last pass, and one of higher priority. -/
def inLast : Call := { lastPass with todo := [0] }
def urgent : Call := { sortCall with id := 10, prio := 15 }

/-- SortResults: the sort that its engine selects; one inside its last pass, which another does not stop; one of no elements, one that
fails its first check; what a sort keeps; keys of one width. -/
theorem witness_SortResults :
    ((∀ c ∈ [sortCall, lastPass, inLast], servesB (sortState c) 3 0 = true ∧ (sortState c).sortsOn c = true) ∧
      { sortState inLast with calls := [inLast, urgent] }.sortsOn inLast = true ∧
      { sortState inLast with calls := [inLast, urgent] }.sortsOn urgent = false) ∧
    (let t := (engine sortNone).takeUp sortNone
     t.seCheck sortNone (sjob sortNone.record.toNat) = none ∧ (sjob sortNone.record.toNat).n = 0) ∧
    (let c := callOf 3 0 [(1, 0), (1, 14)]
     ((engine c).takeUp c).seCheck c (sjob c.record.toNat) = some 3) ∧
    (lastPass.started = true ∧ (sjob lastPass.record.toNat) = sjob sortCall.record.toNat ∧
      (sjob sortCall.record.toNat).bounds (lastPass.kept 0) = some [(0, 4)] ∧ lastPass.kept 3 = [0] ∧
      (sjob sortCall.record.toNat).kt = 1 ∧ (sjob sortCall.record.toNat).kbits = (sjob sortCall.record.toNat).w) := by
  decide +kernel

/-- SortResults: a sort that goes through its checks and reads, and one whose segments breach R360. -/
theorem witness_SortResults_reads :
    (let j := sjob sortCall.record.toNat
     let t := (sortState sortCall).takeUp sortCall
     (t.seCheck sortCall j = none ∧ j.n ≠ 0 ∧ j.seg = false ∧ j.bounds [] = some [(0, 4)]) ∧
     ∃ kb s2, (readOp sortCall j.kin (j.n * j.ks)).run t = .ok kb s2 ∧ (readOp sortCall j.vin (j.n * j.vs)).run s2 = .ok [] s2) ∧
    (let j := sjob sortSeg.record.toNat
     let t := (sortState sortSeg).takeUp sortSeg
     (t.seCheck sortSeg j = none ∧ j.n ≠ 0 ∧ j.seg = true) ∧
      ∃ starts s1 kb s2, (readOp sortSeg j.sega (4 * j.nseg)).run t = .ok starts s1 ∧ j.bounds starts = none ∧
        (readOp sortSeg j.kin (j.n * j.ks)).run s1 = .ok kb s2 ∧ (readOp sortSeg j.vin (j.n * j.vs)).run s2 = .ok [] s2) := by
  have v : ∀ (s : State), (readOp sortCall (sjob sortCall.record.toNat).vin ((sjob sortCall.record.toNat).n *
      (sjob sortCall.record.toNat).vs)).run s = .ok [] s := fun s => rfl
  refine ⟨⟨by decide +kernel, ?_⟩, by decide +kernel, ?_⟩
  · obtain ⟨kb, s2, h1, -⟩ := runIs_ok (x := readOp sortCall (sjob sortCall.record.toNat).kin
      ((sjob sortCall.record.toNat).n * (sjob sortCall.record.toNat).ks)) (s := (sortState sortCall).takeUp sortCall)
      (p := fun l _ => decide (l = [5, 0, 0, 0x80, 0xFF, 0xFF, 3, 0])) (by decide +kernel)
    exact ⟨kb, s2, h1, v s2⟩
  · obtain ⟨st, s1, h1, h2⟩ := runIs_ok (x := readOp sortSeg (sjob sortSeg.record.toNat).sega
      (4 * (sjob sortSeg.record.toNat).nseg)) (s := (sortState sortSeg).takeUp sortSeg)
      (p := fun l s => steadyB s && decide (s.bad = []) && decide (s.recent = []) && ((sjob sortSeg.record.toNat).bounds l).isNone)
      (by decide +kernel)
    simp only [Bool.and_eq_true, decide_eq_true_eq, Option.isNone_iff_eq_none] at h2
    obtain ⟨s2, h3⟩ := (steady_of h2.1.1.1).readOp (c := sortSeg) ⟨rfl, rfl, rfl, rfl⟩ 0x20000 8 (by decide) (by decide +kernel)
      h2.1.1.2 h2.1.2
    exact ⟨st, s1, _, s2, h1, h2.2, h3, rfl⟩

/-- SortResults: a pass that goes through is `last_pass`; one whose keys have no place; an output that has a place. -/
theorem witness_SortResults_passes :
    (servesB (sortState lostKeys) 3 0 = true ∧ (sortState lostKeys).sortsOn lostKeys = true) ∧
    (∃ f s1, (digitPass lostKeys (sjob lostKeys.record.toNat)).run ((sortState lostKeys).takeUp lostKeys) = .error f s1) ∧
    (∃ pl s1, (operand sortCall (wd 0x20100) .w).run (sortState sortCall) = .ok pl s1 ∧
      ∀ i, i < 8 → s1.rivalAt sortCall (pl.addr + i) = false) := by
  refine ⟨by decide +kernel, runErr_ok (by decide +kernel), ?_⟩
  obtain ⟨pl, s1, h, h2⟩ := runIs_ok (x := operand sortCall (wd 0x20100) .w) (s := sortState sortCall)
    (p := fun _ s => decide (s.raced = [])) (by decide +kernel)
  exact ⟨pl, s1, h, fun i _ => by simp [State.rivalAt, of_decide_eq_true h2]⟩

/-- The filter of `sampleCall`, and its texture. -/
def sampleF : Filter := sampleFilter (sampleCall.hdr 2)
def sampleT : Tex := ⟨0x20100, 1, 1, 1, 0⟩

/-- A lane whose one texel reads has its channels. -/
theorem sample_lane {s : State} (h : Steady s) (hb : s.bad = []) (hr : s.raced = []) (ht : s.recent = []) :
    ∃ l u, (sampleLane sampleCall sampleF sampleT 0).run s = .ok l u ∧ Alike s u := by
  obtain ⟨u, o, al, -⟩ := h.operand sampleCall rfl rfl rfl rfl 0x20100 (by decide) .r (by decide)
  have tp : sampleF.taps sampleT (sampleCall.word 1 0) (sampleCall.word 2 0) (sampleCall.word 3 0) (sampleCall.word 4 0)
      (sampleCall.word 5 0) = some [⟨0x20100, ⟨1, 1⟩⟩] := by decide +kernel
  have b : sampleT.b = 4 := rfl
  have ch : below sampleT.chans = [0, 1, 2, 3] := rfl
  have tc : u.touch 0x20100 4 = u := by obtain ⟨_, _, rfl⟩ := al; simp [State.touch, h.plain]
  have nb : u.badAt 0x20100 4 = false := by obtain ⟨_, _, rfl⟩ := al; simp [State.badAt, hb]
  have ns : u.unsure sampleCall 0x20100 4 = false := by obtain ⟨_, _, rfl⟩ := al; simp [State.unsure, hr, ht]
  have g : ∀ t : State, (get : E State).run t = .ok t t := fun _ => rfl
  suffices x : ∃ l, (sampleLane sampleCall sampleF sampleT 0).run s = .ok l u from x.elim fun l h => ⟨l, u, h, al⟩
  unfold sampleLane
  simp [tp, o, b, ch, tc, nb, ns, g, require]

/-- Have the strands of a state names of their own, 1 among them? -/
def namedB (s : State) : Bool := decide (s.strands.map fun u : Strand => u.uid).Nodup && (s.strand? 1).isSome

theorem namedB_ok {s : State} (h : namedB s = true) : s.named ∧ ∃ u, s.strand? 1 = some u := by
  simpa [namedB, State.named, Option.isSome_iff_exists] using h

/-- RasterResults: a raster call whose triangles read; a sample call whose checks pass and whose lanes sample; a filter and finite
coordinates. -/
theorem witness_RasterResults :
    (servesB rasterState 4 0 = true ∧ rasterState.isFirst rasterCall = true ∧ rasterState.engqPast rasterCall = false ∧
      fieldsZero rasterCall.record.toNat [(5, 11), (24, 8), (49, 15), (192, 320)] = true ∧ bits rasterCall.record.toNat 0 4 = 1 ∧
      bits rasterCall.record.toNat 32 17 = 1 ∧ bits rasterCall.record.toNat 128 64 = 0x20000) ∧
    (∃ l s1, (readOp rasterCall 0x20000 32).run rasterState = .ok l s1) ∧
    (servesB sampleState 2 0 = true ∧ (∀ d ∈ sampleState.queued 2 sampleCall.eng 0, sampleCall.id ≤ d.id) ∧
      sampleCall.rets.Nodup ∧ (∀ d ∈ sampleCall.rets, d < 64) ∧
      ((sampleFilter 0xC2).taps ⟨0, 4, 4, 2, 0⟩ 0x3F000000 0x3F000000 0x3F000000 0 0).isSome = true) ∧
    ∃ f x s1 lanes s2, (checkSample sampleCall).run sampleState = .ok (f, x) s1 ∧
      (sampleCall.lanes.mapM fun q => do return (q, ← sampleLane sampleCall f x q)).run s1 = .ok lanes s2 ∧ s2.named ∧
      ∃ u, s2.strand? sampleCall.uid = some u := by
  refine ⟨by decide +kernel, ?_, by decide +kernel, ?_⟩
  · obtain ⟨l, s1, h, -⟩ := runIs_ok (x := readOp rasterCall 0x20000 32) (s := rasterState) (p := fun _ _ => true) (by decide +kernel)
    exact ⟨l, s1, h⟩
  · obtain ⟨a, s1, h, h2⟩ := runIs_ok (x := checkSample sampleCall) (s := sampleState)
      (p := fun a s1 => decide (a = (sampleF, sampleT)) && steadyB s1 && decide (s1.bad = []) && decide (s1.raced = []) &&
        decide (s1.recent = []) && namedB s1) (by decide +kernel)
    simp only [Bool.and_eq_true, decide_eq_true_eq] at h2
    obtain ⟨⟨⟨⟨⟨rfl, h2⟩, h3⟩, h4⟩, h5⟩, h6⟩ := h2
    obtain ⟨l, s2, h7, al⟩ := sample_lane (steady_of h2) h3 h4 h5
    have n : s2.named ∧ ∃ u, s2.strand? 1 = some u := by obtain ⟨_, _, rfl⟩ := al; exact namedB_ok h6
    refine ⟨sampleF, sampleT, s1, [(0, l)], s2, h, ?_, n⟩
    rw [show sampleCall.lanes = [0] by decide +kernel]
    simp [h7]

/-- The slot of a tile store with a batch that waits, of token 105. -/
def waitingSlot (next : BitVec 32) : RbeSlot := { rbeSlot with next := next, waiting := [⟨105, batchCall 105⟩], timer := some 0 }

/-- A slot whose gap timer is due, and its turn. -/
def gapState (next : BitVec 32) : State :=
  withSlot { engine (batchCall 105) with ev := ⟨0, 3, 0, 0, false, []⟩, time := 5000 } (waitingSlot next)

/-- A CLOSE whose wait has ended writes the planes and the report. -/
theorem closes_well : ∃ s1, (finishClose (ctlCall 2 3 100 0x20000 0x21000) rbeSlot false).run
    (withSlot (engine (ctlCall 2 3 100 0x20000 0x21000)) rbeSlot) = .ok () s1 := by
  have hc : Ours (ctlCall 2 3 100 0x20000 0x21000) := ⟨rfl, rfl, rfl, rfl⟩
  have off : ∀ a, 0x20000 ≤ a → a < 2 ^ 30 → offTables a = true := by
    intro a h1 h2
    simp [offTables, tableDwords, svcAt]
    omega
  generalize hz : ctlCall 2 3 100 0x20000 0x21000 = c at *
  have b1 : bits c.record.toNat 128 64 = 0x20000 := by subst hz; decide +kernel
  have b2 : bits c.record.toNat 192 64 = 0x21000 := by subst hz; decide +kernel
  have z : Steady (engine c) := steady_of (by subst hz; decide +kernel)
  have e : (rbeSlot.planes.flatMap fun p => leBytes 1024 p.toNat).length = 1024 := by decide +kernel
  have e2 : (leBytes 8 rbeSlot.report).length = 8 := by decide +kernel
  obtain ⟨s1, h1, z1⟩ := z.placesOf hc 0x20000 1024 .w (by decide) (by decide) (by decide +kernel)
  obtain ⟨s2, h2, z2⟩ := z1.placesOf hc 0x21000 8 .w (by decide) (by decide) (by decide +kernel)
  obtain ⟨s3, h3, z3⟩ := z2.writeOp hc 0x20000 (rbeSlot.planes.flatMap fun p => leBytes 1024 p.toNat) (by decide)
    (by rw [e]; decide +kernel) (fun i hi => off _ (by omega) (by omega))
  obtain ⟨s4, h4, -⟩ := z3.writeOp hc 0x21000 (leBytes 8 rbeSlot.report) (by decide) (by rw [e2]; decide +kernel)
    (fun i hi => off _ (by omega) (by omega))
  have pass : (do
      require (!false) 9
      let _ ← placesOf c 0x20000 1024 .w
      let _ ← placesOf c 0x21000 8 .w : E Unit).run (engine c) = .ok () s2 := by
    simp only [require, Bool.not_false, if_true, run_bind, run_pure, h1, h2]
  have tr : (tryE (do
      require (!false) 9
      let _ ← placesOf c 0x20000 1024 .w
      let _ ← placesOf c 0x21000 8 .w : E Unit)).run (engine c) = .ok (.ok ()) s2 := by
    unfold tryE
    simp only [EStateM.run] at *
    rw [pass]
  refine ⟨s4, ?_⟩
  have alone : (engine c).calls.filter c.closesWith = [] := by subst hz; decide +kernel
  have w : (withSlot (engine c) rbeSlot).freeRbe c rbeSlot = engine c := by
    show ((engine c).calls.filter c.closesWith).foldl (fun s d => s.callFault d 0x14 0) (engine c) = engine c
    rw [alone]
    rfl
  unfold finishClose
  simp only [run_bind, run_modify, w, b1, b2, e, tr, h3, h4]

/-- `engine` with a cap of the context on the engine calls that it may have, and more than that (R178). -/
def overQuota (c : Call) : State := { engine c with
  parts := [{ part0 with rcb := BitVec.ofNat 1024 (2 ^ 21 + 2 ^ 288) }], calls := [c, { c with id := 10 }] }

/-- BlendResults: batches whose token is next, ahead, too far ahead, spent; a batch whose turn has come; a gap timer that is due. -/
theorem witness_BlendResults_batches :
    (∀ tok ∈ [100, 105, 5100, 99], let s := withSlot (engine (batchCall tok)) rbeSlot
      (servesB s 4 1 = true ∧ s.isNext (batchCall tok) = true) ∧ (checkBatch (batchCall tok)).run s = .ok rbeSlot s) ∧
    (rbeSlot.ahead 100 = 0 ∧ rbeSlot.ahead 105 = 5 ∧ rbeSlot.ahead 5100 = 5000 ∧ 2 ^ 31 ≤ rbeSlot.ahead 99) ∧
    ((gapState 105).rbeSlot? 0 3 = some (waitingSlot 105) ∧ (waitingSlot 105).waiting.find? (fun w => w.token = 105) =
      some ⟨105, batchCall 105⟩ ∧ (gapState 100).gapDue (waitingSlot 100) = true ∧
      (gapState 100).lowestWait (waitingSlot 100) = some 5 ∧ (gapState 105).gapDue (waitingSlot 105) = false) := by
  refine ⟨fun tok h => ?_, by decide +kernel⟩
  simp only [List.mem_cons, List.not_mem_nil, or_false] at h
  rcases h with rfl | rfl | rfl | rfl <;> exact ⟨by decide +kernel, (still_batch _).run (by decide +kernel)⟩

/-- BlendResults: an OPEN of a free slot; CANCEL, and CLOSE with a token that waits and with one that does not, of an open one; SEQRESET;
a CLOSE that writes; an OPEN beyond the cap. -/
theorem witness_BlendResults :
    (let s := withDwords (engine (openCall 3)) [(0x20000, addOp)]
     (servesB s 4 2 = true ∧ s.isNext (openCall 3) = true ∧ s.rbeSlot? 0 3 = none ∧ s.engqPast (openCall 3) = false ∧
       (microOp (BitVec.ofNat 32 addOp)).ok 1 = true) ∧
     (checkControl (openCall 3)).run s = .ok () s ∧ ∃ blk s1, (readOp (openCall 3) 0x20000 128).run s = .ok blk s1) ∧
    (∀ p ∈ [(ctlCall 3 3 101 0 0, 3), (ctlCall 2 3 101 0x20000 0x21000, 2), (ctlCall 2 3 100 0x20000 0x21000, 2)],
      let s := withSlot (engine p.1) rbeSlot
      (p.1.ctlType = p.2 ∧ s.engqPast p.1 = false ∧ s.rbeSlot? 0 p.1.ctlSlot = some rbeSlot) ∧ (checkControl p.1).run s = .ok () s) ∧
    (rbeSlot.closes 101 = false ∧ rbeSlot.closes 100 = true ∧ (overQuota (openCall 3)).engqPast (openCall 3) = true) ∧
    (∃ s1, (finishClose (ctlCall 2 3 100 0x20000 0x21000) rbeSlot false).run
      (withSlot (engine (ctlCall 2 3 100 0x20000 0x21000)) rbeSlot) = .ok () s1) ∧
    (let c := callOf 4 2 [(4, 0), (9, 16)]
     (c.ctlType = 4 ∧ (engine c).engqPast c = false) ∧ (checkControl c).run (engine c) = .ok () (engine c)) := by
  refine ⟨⟨by decide +kernel, (still_control _).run (by decide +kernel), ?_⟩, fun p h => ?_, by decide +kernel, closes_well,
    by decide +kernel, (still_control _).run (by decide +kernel)⟩
  · obtain ⟨l, s1, h, -⟩ := runIs_ok (x := readOp (openCall 3) 0x20000 128) (s := withDwords (engine (openCall 3)) [(0x20000, addOp)])
      (p := fun _ _ => true) (by decide +kernel)
    exact ⟨l, s1, h⟩
  · simp only [List.mem_cons, List.not_mem_nil, or_false] at h
    rcases h with rfl | rfl | rfl <;> exact ⟨by decide +kernel, (still_control _).run (by decide +kernel)⟩

/-- RayResults: a binding to set, one that is busy, one to remove; a set to drop; a trace of a ray that can hit. -/
theorem witness_RayResults :
    ((servesB (engine bindCall) 5 2 = true ∧ (engine bindCall).isNext bindCall = true ∧ bindCall.ctlType = 1 ∧
        (engine bindCall).engqPast bindCall = false ∧ (((engine bindCall).unbound bindCall 1).filter (·.eng == bindCall.eng)).length < 64 ∧
        (engine bindCall).bindBusy bindCall 1 = false ∧ (rayState bindCall [raySet (.parked aHit) 0]).bindBusy bindCall 1 = true) ∧
      (checkRayControl bindCall).run (engine bindCall) = .ok () (engine bindCall)) ∧
    ((((rayState unbindCall []).bind? 0 0 0x80000 1).isSome = true ∧ (rayState unbindCall []).bindBusy unbindCall 1 = false) ∧
      (checkRayControl unbindCall).run (rayState unbindCall []) = .ok () (rayState unbindCall [])) ∧
    ((rayState dropCall [raySet (.parked aHit) 0]).liveSet dropCall 5 = some (raySet (.parked aHit) 0) ∧
      (checkRayControl dropCall).run (rayState dropCall []) = .ok () (rayState dropCall [])) ∧
    ((servesB (rayState traceCall []) 5 0 = true ∧ traceCall.lanes = [0] ∧ (rayOf rayComp).isSome = true ∧
        (rayState traceCall []).rayLoad 0 (fun _ => true) = 0) ∧
      (checkTrace traceCall).run (rayState traceCall []) = .ok () (rayState traceCall [])) :=
  ⟨⟨by decide +kernel, (still_rayControl _).run (by decide +kernel)⟩, ⟨by decide +kernel, (still_rayControl _).run (by decide +kernel)⟩,
   ⟨by decide +kernel, (still_rayControl _).run (by decide +kernel)⟩, by decide +kernel, (still_trace _).run (by decide +kernel)⟩

/-- RayResults: replies to a parked ray with each decision, in a set that goes on after a hit and in one that ends, of a ray whose results
are specified and of one whose are not; a group of one ray that is old enough; a hit. -/
theorem witness_RayResults_replies :
    (∀ d ∈ [0, 1, 2], let s := rayState (replyCall d) [raySet (.parked aHit) 0]
      (servesB s 5 1 = true ∧ (replyCall d).lanes = [0] ∧ (replyCall d).word 2 0 = d ∧ (replyCall d).word 1 0 = 0) ∧
        (checkReply (replyCall d)).run s = .ok (raySet (.parked aHit) 0) s) ∧
    (((raySet (.parked aHit) 0).rays.find? (·.idx == 0)).map (fun z => (z.stat, z.loose)) = some (.parked aHit, false) ∧
      (raySet (.parked aHit) 0).flags.getLsbD 3 = false ∧ (raySet (.parked aHit) 8).flags.getLsbD 3 = true ∧
      ((raySet (.parked aHit) 0).rays.map fun z => { z with loose := true }).all (·.loose) = true) ∧
    (let s := { rayState { traceCall with id := 77, started := true } [raySet .flying 0] with
      ev := ⟨0, 0, 1, 0x80000, false, []⟩, time := 2048 }
     ∃ r ∈ (raySet .flying 0).rays, s.buffered 0 0x80000 (fun x h => h = 0 && x.bind = 1) = [(0, raySet .flying 0, r)] ∧
       2048 ≤ s.time.toNat - r.since) ∧
    ((⟨⟨0, 0, 0⟩, ⟨0, 0, 1⟩, .inf true, .inf false⟩ : RayQ).hitTri ⟨-2, -2, 5⟩ ⟨4, -2, 5⟩ ⟨-2, 4, 5⟩).isSome = true := by
  refine ⟨fun d h => ?_, by decide +kernel⟩
  simp only [List.mem_cons, List.not_mem_nil, or_false] at h
  rcases h with rfl | rfl | rfl <;> exact ⟨by decide +kernel, (still_reply _).run (by decide +kernel)⟩

/-- ReorderResults: a collection to open, to fill, to close; one with an old batch; an address that names an engine, one that
names none. -/
theorem witness_ReorderResults :
    ((servesB (engine (collCall 1)) 6 0 = true ∧ (engine (collCall 1)).isNext (collCall 1) = true ∧
        (collCall 1).rouControl = true ∧ bits (collCall 1).rouHeader 0 4 = 1 ∧ (engine (collCall 1)).strand? 1 = some dev.me ∧
        (dev.me.sport 0).bind = .unbound ∧ (engine (collCall 1)).coll? 0 1 = none ∧ (engine (collCall 1)).engqPast (collCall 1) = false ∧
        ((engine (collCall 1)).bindPort dev.me 0 .arrival).isSome = true) ∧
      (checkColl (collCall 1)).run (engine (collCall 1)) = .ok () (engine (collCall 1))) ∧
    ((depositCall.rouControl = false ∧ depositCall.lanes.length = 3) ∧
      (checkDeposit depositCall).run (collState depositCall [coll []]) = .ok (coll []) (collState depositCall [coll []])) ∧
    (((collCall 2).rouControl = true ∧ bits (collCall 2).rouHeader 0 4 = 2 ∧ (collState (collCall 2) [coll []]).coll? 0 1 = some (coll []) ∧
        (coll []).closing = none ∧ (coll []).recs = [] ∧ (coll []).out = []) ∧
      (checkColl (collCall 2)).run (collState (collCall 2) [coll []]) = .ok () (collState (collCall 2) [coll []])) ∧
    ((coll [[1]]).vectors[1]?.isSome = true ∧ (coll []).recs.length + depositCall.records.length < (coll []).lmax ∧
      (let x : Word := 0xFFF06
       x.toNat < 2 ^ 32 ∧ eaKind x = 6 ∧ ownIndex dev.me x < part0.engines 6) ∧ eaKind 1 = 1) :=
  ⟨⟨by decide +kernel, (still_coll _).run (by decide +kernel)⟩, ⟨by decide +kernel, (still_deposit _).run (by decide +kernel)⟩,
   ⟨by decide +kernel, (still_coll _).run (by decide +kernel)⟩, by decide +kernel⟩

/-- RoundTrip, StrictDecoding: an instruction of one word and one of two, well formed and encodable; words of the kinds that are
refused. -/
theorem witness_RoundTrip : (Instr.add 5 6 7).encodable = true ∧ (Instr.add 5 6 7).wf = true ∧ (Instr.vclz 1 2).encodable = true ∧
    (Instr.vclz 1 2).wf = true ∧ wordKind 2 = 2 ∧ wordKind 3 = 3 ∧ wordKind 1 = 1 ∧ wordKind 0 ≠ 3 := by
  decide

/-- `mon` before a word, with a scalar load on its way. -/
def loading (w : Nat) : State := on (State.reset.withFetchWord 32 w) fun t => { t with late := [⟨5, svcAt 0x100, false, 8, false, false⟩] }

/-- StepRunsDecoded, StepKeepsMemory: a strand whose next word is an `add`, and one before an instruction of two words; loads on their way,
that the instruction may pass, or not, or whose bytes it reads. -/
theorem witness_StepRunsDecoded :
    (let s := State.reset.withFetchWord 32 0x009CC504
     s.agenda = .run s.me.uid :: [] ∧ s.me.resident = true ∧ s.me.vtrap = none ∧ s.pendingAsync = [] ∧ s.me.owner = .mon ∧
      s.me.pc.toNat < 2 ^ 27 ∧ s.natAt (svcAt 0) 4 = 0x009CC504 ∧ decodeTableWord 32 0x009CC504 = some (.sub 5 6 7) ∧ s.Inv ∧
      s.me.late = [] ∧ s.settled (svcAt 0) 4 ∧ s.resting (svcAt 0) 4) ∧
    (let bs := encodeBytes (.vclz 1 2)
     bs.length = 8 ∧ (State.reset.withFetchWord 64 (leNat bs)).bytesAt (svcAt 0) 8 = bs) ∧
    ((loading 0).me.late ≠ [] ∧ Instr.passes (.sub 5 6 7) = true ∧ (loading 0).pendLate.crosses (.sub 5 6 7) = false ∧
      Instr.passes .endStrand = false ∧ (loading 0).pendLate.crosses (.ld 6 0 0x100) = true) := by
  unfold State.Inv State.settled State.resting
  decide +kernel
end

/-! No step ends the run: every meaning, every event and every move of the agenda has a next state. -/

namespace Sys2Proof.Machine

/-- A step of an engine's call goes on: the call that it names acts, or nothing does (R20). -/
theorem callStep_next (kind queue : Nat) (ok : State → Call → Bool) (f : Call → State → State) (s : State) :
    ∃ t, callStep kind queue ok f s = .next t := by
  unfold callStep
  cases s.call? s.ev.x with
  | none => exact ⟨_, rfl⟩
  | some c => exact ⟨_, rfl⟩

theorem transfer_next (queue : Nat) (types : Nat → Bool) (s : State) : ∃ t, transfer queue types s = .next t :=
  callStep_next _ _ _ _ s

theorem scalar_next (m : M Unit) (s : State) : ∃ t, scalar m s = .next t := runInstr_next _ s

theorem scalar2_next (m : M Unit) (s : State) : ∃ t, scalar2 m s = .next t := runInstr_next _ s

theorem ctlWrite_next (c : Nat) (f : Word → M Unit) (s : State) : ∃ t, ctlWrite c f s = .next t := scalar_next _ s

theorem hmWrite_next (op : Nat) (s : State) : ∃ t, hmWrite op s = .next t := ctlWrite_next _ _ s

/-- `await` retires, traps with the record of a FAULT, or stops as any meaning does (R227). -/
theorem execAwaitCall_next (d a : SReg) (s : State) : ∃ t, execAwaitCall d a s = .next t := by
  unfold execAwaitCall
  cases (awaitBody (.awaitCall d a) d a).run s with
  | ok fin s' => cases fin <;> exact ⟨_, rfl⟩
  | error e s' => exact runInstr_next _ _

/-- A slot without a batch whose turn has come stays as it is (R377). -/
theorem execBatchCommit_next (s : State) : ∃ t, execBatchCommit s = .next t := by
  unfold execBatchCommit
  cases s.rbeSlot? s.ev.x s.ev.y with
  | none => exact ⟨_, rfl⟩
  | some x =>
    dsimp only
    cases x.waiting.find? fun w => w.token = x.next with
    | none => exact ⟨_, rfl⟩
    | some w => exact ⟨_, rfl⟩

/-- A slot whose gap timer is not due stays as it is (R379). -/
theorem execGapTimeout_next (s : State) : ∃ t, execGapTimeout s = .next t := by
  unfold execGapTimeout
  cases s.rbeSlot? s.ev.x s.ev.y with
  | none => exact ⟨_, rfl⟩
  | some x =>
    dsimp only
    cases s.lowestWait x with
    | none => exact ⟨_, rfl⟩
    | some d => cases s.gapDue x <;> exact ⟨_, rfl⟩

/-- Without the collection that it names, a release of a batch changes nothing (R410). -/
theorem execRouBatchRelease_next (s : State) : ∃ t, execRouBatchRelease s = .next t := by
  unfold execRouBatchRelease
  cases s.coll? s.ev.x s.ev.y with
  | none => exact ⟨_, rfl⟩
  | some x => exact ⟨_, rfl⟩

/-- A fetch fault traps at the address that it names, whatever its route (R158). -/
theorem execFetchFault_next (s : State) : ∃ t, execFetchFault s = .next t := by
  unfold execFetchFault
  exact runInstr_next _ s

/-- Every instruction and every event has a next state. Five have a lemma of their own above; the steps of calls are `callStep`s; some events
update the state outright; everything else runs one meaning (`runInstr_next`), cited through its wrapper where Lean needs it. -/
theorem exec_next (i : Instr) (s : State) : ∃ t, exec i s = .next t := by
  unfold exec
  cases i with
  | awaitCall d a => exact execAwaitCall_next d a s
  | batchCommit => exact execBatchCommit_next s
  | gapTimeout => exact execGapTimeout_next s
  | fetchFault => exact execFetchFault_next s
  | rouBatchRelease => exact execRouBatchRelease_next s
  | teCopy | teGather | teMcast | tePut | tePutadd => exact transfer_next _ _ s
  | matrixJob | teFeedin | teFeedout | feedVectorMove | seSort | rbeRaster | rbeOpen | rbeClose | rbeCancel | rbeSeqreset
    | fragmentBatch | txuSample | rtBind | rtUnbind | rtDrop | rtTrace | rtReply | collectionOpen | collectionClose
    | rouDeposit => exact callStep_next _ _ _ _ s
  | asyncTrapEntry | wdogExpiry | dispatchSelection | strandSwitchOut | poolExhausted | periodBoundary | parkedWordMoveIn
    | barrierTimeout | inboundPut | rayBatchRelease | hostIpaAccess | pfHypAccess | pfdoor | vfdoor | vfsup | linkLoss
    | deviceReset | bulkheadResetComplete | powerOnComplete | scrubComplete => exact ⟨_, rfl⟩
  | vlenWrite | vtypeWrite | fflagsWrite | portenWrite | vbackWrite | vqctlDrop | detBackingWrite | lqbaseWrite | lqdoor
    | reloadRcb | killRcb | attest | xgrant | vfirq | withdrawCore | returnCore | removeCore => exact ctlWrite_next _ _ s
  | createPart | destroyPart | preset | bhreset | bhpower | winopen | winclose | s2inv | setrcb | monupd | poladd
    | poldel => exact hmWrite_next _ s
  | nop | pfL1 | pfL2 | pfSt | hint | yield => exact scalar_next _ s
  | twoWordHint => exact scalar2_next _ s
  | _ => exact runInstr_next _ _

/-- So has a step with its operands. -/
theorem execEvent_next (i : Instr) (a : EvArgs) (s : State) : ∃ t, execEvent i a s = .next t := exec_next i _

/-- A strand that moves takes its pending vector trap, an event or its next instruction, or waits for the fetch. -/
theorem runMe_next (s : State) : ∃ t, runMe s = .next t := by
  unfold runMe
  cases s.me.vtrap with
  | some v => exact ⟨_, rfl⟩
  | none =>
    dsimp only
    split
    · exact execEvent_next _ _ s
    · cases fetchInstr.run s with
      | ok r s' => exact execEvent_next r.1 r.2 s'
      | error e s' => exact ⟨_, rfl⟩

/-- A strand with late loads executes an instruction that may pass them, or lands the oldest (R127). -/
theorem runPast_next (s : State) : ∃ t, runPast s = .next t := by
  have land := runInstr_next (landLate 0) s
  unfold runPast
  cases s.upcoming with
  | none => exact land
  | some u =>
    obtain ⟨i, a, s1⟩ := u
    dsimp only
    split
    · exact land
    · obtain ⟨t, ht⟩ := execEvent_next i a s1.pendLate
      rw [ht]
      dsimp only
      split
      · exact land
      · exact ⟨_, rfl⟩

theorem runStrand_next (uid : Nat) (s : State) : ∃ t, runStrand uid s = .next t := by
  unfold runStrand
  dsimp only
  split
  · split
    · exact runMe_next _
    · exact runPast_next _
  · exact ⟨_, rfl⟩

/-- A strand issues the load at its pc to take its value later, or moves as it otherwise does. -/
theorem runLate_next (uid : Nat) (s : State) : ∃ t, runLate uid s = .next t := by
  have usual := runStrand_next uid s
  unfold runLate
  dsimp only
  split
  · exact usual
  · cases (s.switchTo uid).upcoming with
    | none => exact usual
    | some u =>
      obtain ⟨i, a, s1⟩ := u
      dsimp only
      cases Instr.plainLoad i with
      | none => exact usual
      | some l =>
        dsimp only
        split
        · exact usual
        · obtain ⟨t, ht⟩ := runInstr_next (issueLate l) s1.pendLate
          rw [ht]
          exact ⟨_, rfl⟩

theorem runLand_next (uid k : Nat) (s : State) : ∃ t, runLand uid k s = .next t := by
  unfold runLand
  dsimp only
  split
  · exact runInstr_next _ _
  · exact ⟨_, rfl⟩

theorem runQueue_next (uid : Nat) (s : State) : ∃ t, runQueue uid s = .next t := by
  unfold runQueue
  dsimp only
  split
  · exact runInstr_next _ _
  · exact ⟨_, rfl⟩

theorem act_next (a : Action) (s : State) : ∃ t, act a s = .next t := by
  cases a with
  | run uid => exact runStrand_next uid s
  | late uid => exact runLate_next uid s
  | land uid k => exact runLand_next uid k s
  | vq uid => exact runQueue_next uid s
  | event i args => exact execEvent_next i args s

/-- What ends a step stops nothing that goes on. -/
theorem finish_next {o : StepOut} (h : ∃ t, o = .next t) : ∃ t, finish o = .next t := by
  obtain ⟨t, rfl⟩ := h
  exact ⟨_, rfl⟩

/-- Settles O59: a step schedules a move or performs the first action of the agenda, and either has a next state. -/
theorem everyStepGoesOn : Obligations.EveryStepGoesOn := by
  intro s
  refine finish_next ?_
  cases s.agenda with
  | nil => exact ⟨_, rfl⟩
  | cons a rest => exact act_next a _

end Sys2Proof.Machine

/-! Engine calls (R22-R33, R226-R229): what their shared pieces answer. -/

namespace Sys2Proof.Machine

/-- The checks of an engine-call instruction pass for a strand of a partition whose mask has group 2 open (R98). -/
theorem needCall_ok {i : Instr} {s : State} {p : Part} (hp : s.myPart? = some p) (hg : s.allows 2) :
    (needCall i).run s = .ok p s := by
  have open2 : p.fmask.getLsbD 2 = false := hg p hp
  simp only [needCall, needPart, needGroup, run_bind, run_get, run_pure, hp, open2, Bool.false_eq_true, if_false]

/-- A strand without a partition has no engine-call instructions (R467; log 27). -/
theorem needCall_illegal {i : Instr} {s : State} (h : s.me.owner.pid? = none) :
    (needCall i).run s = .error (.trap ⟨1, Instr.words i, .sup⟩ false) s := by
  simp [needCall, needPart, State.myPart?, h, run_illegal]

/-- The partition of the executing strand, by its PID. -/
theorem State.myPart?_some {s : State} {p : Part} (h : s.myPart? = some p) :
    s.me.owner.pid? = some p.pid ∧ s.part? p.pid = some p := by
  obtain ⟨pid, ho, hf⟩ := Option.bind_eq_some_iff.1 h
  have hpid : p.pid = pid := by simpa using List.find?_some hf
  exact ⟨by rw [hpid, ho], by rw [hpid]; exact hf⟩

/-- A partition that is changed and keeps its PID is found changed. -/
theorem State.part?_modPart {s : State} {p : Part} {n : Nat} {f : Part → Part} (h : s.part? n = some p)
    (hf : ∀ q, (f q).pid = q.pid) : (s.modPart n f).part? n = some (f p) := by
  have hn : p.pid = n := by simpa using List.find?_some h
  have same : ((fun q : Part => q.pid == n) ∘ fun q => if q.pid = n then f q else q) = fun q => q.pid == n := by
    funext q
    by_cases hq : q.pid = n <;> simp [hq, hf]
  unfold State.part? at h ⊢
  simp only [State.modPart, List.find?_map, same, h, Option.map_some, hn, if_true]

/-- A scalar instruction whose effect ends in a write of a register retires the state before that write. -/
theorem scalar_retire {m : M Unit} {s t : State} {d : SReg} {x : Word}
    (h : m.run s = .ok () { t with me := t.me.setS d x }) : scalar m s = .next (t.retire 4 d x) := by
  rw [scalar_ok h]
  simp [State.retire]

theorem State.retire_calls (s : State) (n : Nat) (d : SReg) (x : Word) : (s.retire n d x).me.calls = s.me.calls := by
  simp [State.retire]

theorem State.retire_pc (s : State) (n : Nat) (d : SReg) (x : Word) : (s.retire n d x).me.pc = s.me.pc + wd n := rfl

end Sys2Proof.Machine

/-! Ordering tokens (R33, R229). -/

namespace Sys2Proof.Machine

@[simp] theorem Part.setOtok_pid (p : Part) (n c : Nat) : (p.setOtok n c).pid = p.pid := rfl

/-- A sequence has the count that it was given, modulo 2^32 (R33). -/
theorem Part.otok_setOtok_same (p : Part) (n c : Nat) : (p.setOtok n c).otok n = c % 2 ^ 32 := by
  unfold Part.otok Part.setOtok
  split
  next h =>
    have none_left : (p.otoks.filter (·.1 != n)).find? (·.1 == n) = none := by simp [List.find?_eq_none]
    simpa [none_left] using h.symm
  next => simp

/-- The other sequences keep their counts (R33). -/
theorem Part.otok_setOtok_other (p : Part) {n m : Nat} (c : Nat) (h : m ≠ n) : (p.setOtok n c).otok m = p.otok m := by
  have kept : (p.otoks.filter (·.1 != n)).find? (·.1 == m) = p.otoks.find? (·.1 == m) := by
    rw [List.find?_filter]
    congr 1
    funext x
    by_cases hx : x.1 = m <;> simp [hx, h]
  unfold Part.otok Part.setOtok
  split <;> simp [kept, h.symm]

/-- `otok` writes the count of its sequence, with the sequence number above it, and counts on (R33, R229). -/
theorem otok_next {s : State} {d a : SReg} {p : Part} (hp : s.myPart? = some p) (hg : s.allows 2) (ha : s.me.readable a)
    (hd : s.me.writable d) {n : Nat} (hn : (s.me.sreg a).toNat % 256 = n) :
    exec (.otok d a) s =
      .next ((s.modPart p.pid fun q => q.setOtok n (q.otok n + 1)).retire 4 d (wd (p.otok n + n * 2 ^ 32))) := by
  obtain ⟨ho, -⟩ := State.myPart?_some hp
  have number : bits (s.me.sreg a).toNat 0 8 = n := by simpa [bits] using hn
  have write := writeS_plain (s := s.modPart p.pid fun q => q.setOtok n (q.otok n + 1)) (x := wd (p.otok n + n * 2 ^ 32)) hd
  refine scalar_retire ?_
  simp only [run_bind, needCall_ok hp hg, readS_plain ha, run_modMyPart, ho, number, Nat.shiftLeft_eq]
  exact write

/-- Settles O30: the sequence named counts on and no other; without a partition the first check fails. -/
theorem tokenResults : Obligations.TokenResults := by
  refine ⟨fun s d a p hp hg ha hd => ?_, fun s d a ho => scalar_trap (s' := s) (by simp [needCall_illegal ho])⟩
  obtain ⟨-, hpart⟩ := State.myPart?_some hp
  exact ⟨_, _, otok_next hp hg ha hd rfl, rfl, rfl, State.part?_modPart hpart fun _ => rfl, Part.otok_setOtok_same _ _ _,
    fun _ hm => Part.otok_setOtok_other _ _ hm⟩

end Sys2Proof.Machine

/-! Tickets: what one names, and what `await` and `probe` do with it (R227, R228). -/

namespace Sys2Proof.Machine

/-- A number is the sum of its fields of 6, 16, 4, 4 and the remaining bits. -/
theorem fields_eq_iff {n s k q i : Nat} (hs : s < 2 ^ 16) (hk : k < 16) (hq : q < 16) :
    n % 64 + s <<< 6 + k <<< 22 + q <<< 26 + i <<< 30 = n ↔
      n / 2 ^ 6 % 2 ^ 16 = s ∧ n / 2 ^ 22 % 16 = k ∧ n / 2 ^ 26 % 16 = q ∧ n / 2 ^ 30 = i := by
  constructor
  · intro h
    refine ⟨?_, ?_, ?_, ?_⟩ <;> omega
  · rintro ⟨rfl, rfl, rfl, rfl⟩
    clear hs hk hq
    omega

/-- A number is the ticket of the slot that it names just where its fields are that slot's (R22). -/
theorem Slot.ticket_eq_iff {sl : Slot} {n : Nat} (hk : sl.kind < 16) (hq : sl.queue < 16) :
    sl.ticket (n % 64) = n ↔
      n / 2 ^ 6 % 2 ^ 16 = sl.seq.toNat ∧ n / 2 ^ 22 % 16 = sl.kind ∧ n / 2 ^ 26 % 16 = sl.queue ∧ n / 2 ^ 30 = sl.index :=
  fields_eq_iff sl.seq.isLt hk hq

theorem ne_busyTicket {x : Word} : x ≠ busyTicket ↔ x.toNat ≠ 2 ^ 64 - 1 := by
  rw [Ne, ← BitVec.toNat_inj]
  rfl

/-- BUSY names no slot (R227). -/
theorem Strand.look_busy (t : Strand) {x : Word} (h : x.toNat = 2 ^ 64 - 1) : t.look x = .code 4 := by
  have hx : x = busyTicket := BitVec.eq_of_toNat_eq h
  simp [Strand.look, hx]

/-- A ticket whose slot is free is stale (R227). -/
theorem Strand.look_free {t : Strand} {x : Word} (h : x.toNat ≠ 2 ^ 64 - 1) (hi : t.calls.getD (x.toNat % 64) none = none) :
    t.look x = .code 5 := by
  have hs : nth t.calls (bits x.toNat 0 6) none = none := hi
  simp only [Strand.look, ne_busyTicket.2 h, if_false, hs]

/-- A ticket whose slot is taken names it if it is the ticket of that slot, and is stale otherwise (R227). -/
theorem Strand.look_taken {t : Strand} {x : Word} {sl : Slot} (h : x.toNat ≠ 2 ^ 64 - 1)
    (hi : t.calls.getD (x.toNat % 64) none = some sl) :
    t.look x = if sl.ticket (x.toNat % 64) = x.toNat then .slot (x.toNat % 64) sl else .code 5 := by
  have hs : nth t.calls (bits x.toNat 0 6) none = some sl := hi
  simp only [Strand.look, ne_busyTicket.2 h, if_false, hs]
  rfl

/-- The state after `await` or `probe` of a ticket that is stale: what R27 forbids is remembered (log 23). -/
def State.toldStale (s : State) (p : Part) (x : Word) : State :=
  if s.others.any fun t => t.live && t.holds x then s.breach p.pid s.me.owner.ctx s.me.pl else s

@[simp] theorem State.toldStale_me (s : State) (p : Part) (x : Word) : (s.toldStale p x).me = s.me := by
  unfold State.toldStale
  split <;> simp

theorem noteForeign_stale {s : State} {p : Part} {x : Word} (hp : s.myPart? = some p) (h : s.me.look x = .code 5) :
    (noteForeign x).run s = .ok () (s.toldStale p x) := by
  obtain ⟨ho, -⟩ := State.myPart?_some hp
  unfold noteForeign State.toldStale
  rw [run_modify, h]
  cases hw : s.me.owner with
  | part pid ctx rcb lid =>
    have hpid : pid = p.pid := by simpa [hw, Owner.pid?] using ho
    subst hpid
    rfl
  | hyp => simp [hw, Owner.pid?] at ho
  | mon => simp [hw, Owner.pid?] at ho

/-- A ticket that is not stale leaves nothing to remember (R27; log 23). -/
theorem noteForeign_other {s : State} {x : Word} (h : s.me.look x ≠ .code 5) : (noteForeign x).run s = .ok () s := by
  unfold noteForeign
  rw [run_modify]
  congr 1
  split
  next hl => exact absurd hl h
  next => rfl

theorem noteForeign_slot {s : State} {x : Word} {k : Nat} {sl : Slot} (h : s.me.look x = .slot k sl) :
    (noteForeign x).run s = .ok () s := noteForeign_other (by simp [h])

/-- A free slot in place of slot `k` of the call table (R24). -/
def State.freed (s : State) (k : Nat) : State := { s with me := { s.me with calls := s.me.calls.set k none } }

theorem run_freeCallSlot (k : Nat) (s : State) : (freeCallSlot k).run s = .ok () (s.freed k) := rfl

/-- The state once the final status of slot `k` has been taken: the slot is free, and DONE is an acquire (R24, R132). -/
def State.collected (s : State) (k : Nat) (sl : Slot) : State := if sl.stat = .done then (s.freed k).acquire else s.freed k

theorem State.collected_me (s : State) (k : Nat) (sl : Slot) : (s.collected k sl).me = (s.freed k).me := by
  unfold State.collected
  split <;> rfl

section status

variable {s u : State} {d a : SReg} {p : Part} {n k : Nat} {sl : Slot}

theorem exec_awaitCall (d a : SReg) (s : State) : exec (.awaitCall d a) s = execAwaitCall d a s := rfl

/-- `await` and `probe` of a ticket that names no slot give its code (R227, R228). -/
theorem status_code (hp : s.myPart? = some p) (hg : s.allows 2) (ha : s.me.readable a) (hd : s.me.writable d)
    (hl : s.me.look (s.me.sreg a) = .code n) (hu : (noteForeign (s.me.sreg a)).run s = .ok () u) (hm : u.me = s.me) :
    exec (.awaitCall d a) s = .next (u.retire 4 d (wd n)) ∧ exec (.probeCall d a) s = .next (u.retire 4 d (wd n)) := by
  have hw : u.me.writable d := hm ▸ hd
  have hl' : u.me.look (s.me.sreg a) = .code n := hm ▸ hl
  have body : (awaitBody (.awaitCall d a) d a).run s = .ok none (u.retire 4 d (wd n)) := by
    simp [awaitBody, needCall_ok hp hg, readS_plain ha, hu, hl', writeS_plain hw, State.retire]
  refine ⟨by rw [exec_awaitCall, execAwaitCall, body], scalar_retire ?_⟩
  simp [needCall_ok hp hg, readS_plain ha, hu, hl', writeS_plain hw]

/-- `await` waits for a ticket that is pending (R227). -/
theorem await_pending (hp : s.myPart? = some p) (hg : s.allows 2) (ha : s.me.readable a)
    (hl : s.me.look (s.me.sreg a) = .slot k sl) (hs : sl.stat = .pending) : exec (.awaitCall d a) s = .next s := by
  have body : (awaitBody (.awaitCall d a) d a).run s = .error (.stall false) s := by
    simp [awaitBody, needCall_ok hp hg, readS_plain ha, noteForeign_slot hl, hl, hs, run_waitFor]
  rw [exec_awaitCall, execAwaitCall, body]
  exact runInstr_stall (run_throw _ s)

/-- `await` of a call that ended FAULT frees its slot and traps with the fault record (R25, R227). -/
theorem await_fault (hp : s.myPart? = some p) (hg : s.allows 2) (ha : s.me.readable a)
    (hl : s.me.look (s.me.sreg a) = .slot k sl) (hs : sl.stat = .fault) :
    exec (.awaitCall d a) s = .next ((s.freed k).takeTrap ⟨0x10, sl.record, .sup⟩ false false) := by
  have body : (awaitBody (.awaitCall d a) d a).run s = .ok (some sl.record) (s.freed k) := by
    simp [awaitBody, needCall_ok hp hg, readS_plain ha, noteForeign_slot hl, hl, hs, run_waitFor, run_freeCallSlot]
  rw [exec_awaitCall, execAwaitCall, body]
  rfl

/-- `await` of a call that ended DONE or RESET frees its slot and gives the status (R227). -/
theorem await_final (hp : s.myPart? = some p) (hg : s.allows 2) (ha : s.me.readable a) (hd : s.me.writable d)
    (hl : s.me.look (s.me.sreg a) = .slot k sl) (hs : sl.stat = .done ∨ sl.stat = .reset) :
    exec (.awaitCall d a) s = .next ((s.collected k sl).retire 4 d (wd sl.stat.code)) := by
  have hw : (s.collected k sl).me.writable d := by rw [State.collected_me]; exact hd
  have body : (awaitBody (.awaitCall d a) d a).run s = .ok none ((s.collected k sl).retire 4 d (wd sl.stat.code)) := by
    unfold State.collected at hw ⊢
    rcases hs with hs | hs <;> simp only [hs, if_true, reduceCtorEq, if_false] at hw ⊢ <;>
      simp [awaitBody, needCall_ok hp hg, readS_plain ha, noteForeign_slot hl, hl, hs, run_waitFor, run_freeCallSlot, writeS_plain hw,
        State.retire]
  rw [exec_awaitCall, execAwaitCall, body]

/-- `probe` of a ticket that is pending gives 0 and waits for nothing (R228). -/
theorem probe_pending (hp : s.myPart? = some p) (hg : s.allows 2) (ha : s.me.readable a) (hd : s.me.writable d)
    (hl : s.me.look (s.me.sreg a) = .slot k sl) (hs : sl.stat = .pending) :
    exec (.probeCall d a) s = .next (s.retire 4 d 0) := by
  refine scalar_retire ?_
  simp [needCall_ok hp hg, readS_plain ha, noteForeign_slot hl, hl, hs, writeS_plain hd, TStat.code, wd]

/-- `probe` of a call that has ended frees its slot and gives the status, also of a FAULT (R228). -/
theorem probe_final (hp : s.myPart? = some p) (hg : s.allows 2) (ha : s.me.readable a) (hd : s.me.writable d)
    (hl : s.me.look (s.me.sreg a) = .slot k sl) (hs : sl.stat ≠ .pending) :
    exec (.probeCall d a) s = .next ((s.collected k sl).retire 4 d (wd sl.stat.code)) := by
  have hw : (s.collected k sl).me.writable d := by rw [State.collected_me]; exact hd
  refine scalar_retire ?_
  unfold State.collected at hw ⊢
  by_cases hdone : sl.stat = .done <;> simp only [hdone, if_true, if_false] at hw ⊢ <;>
    simp [needCall_ok hp hg, readS_plain ha, noteForeign_slot hl, hl, hs, hdone, run_freeCallSlot, writeS_plain hw]

end status

/-- Settles O29: what `look` finds, and the two instructions on a code and on a slot with each status. -/
theorem ticketResults : Obligations.TicketResults := by
  intro s d a p hp hg ha hd x free told n i
  refine ⟨s.me.look_busy, Strand.look_free, fun sl hn hi hk hq => ?_, fun hl => ?_, fun hl => ?_,
    fun k sl hl => ⟨?_, ?_, ?_, ?_, ?_⟩⟩
  · have look := Strand.look_taken hn hi
    have own := Slot.ticket_eq_iff (n := x.toNat) hk hq
    exact ⟨fun h => look.trans (if_pos (own.2 h)), fun h => look.trans (if_neg (mt own.1 h))⟩
  · exact status_code hp hg ha hd hl (noteForeign_other (by simp [show s.me.look (s.me.sreg a) = .code 4 from hl])) rfl
  · exact status_code hp hg ha hd hl (noteForeign_stale hp hl) (s.toldStale_me p x)
  · exact fun hs => ⟨await_pending hp hg ha hl hs, probe_pending hp hg ha hd hl hs⟩
  · intro hs
    have e := probe_final hp hg ha hd hl (by rcases hs with hs | hs <;> simp [hs])
    rwa [State.collected, if_neg (by rcases hs with hs | hs <;> simp [hs])] at e
  · intro hs
    have e := await_final hp hg ha hd hl (.inr hs)
    rwa [State.collected, if_neg (by simp [hs]), hs] at e
  · intro hs
    have e := await_final hp hg ha hd hl (.inl hs)
    have e' := probe_final hp hg ha hd hl (by simp [hs])
    rw [State.collected, if_pos hs, hs] at e e'
    exact ⟨e, e'⟩
  · exact await_fault hp hg ha hl

end Sys2Proof.Machine

/-! What finding a place leaves alone: everything but the cached translations and the count of free choices (R121; log 7). -/

namespace Sys2Proof.Machine

theorem State.cache_eq (f : Nat) (s : State) (t : Tlb) : ∃ l, s.cache f t = { s with tlb := l } := by
  unfold State.cache
  split
  · exact ⟨s.tlb, rfl⟩
  · exact ⟨_, rfl⟩

/-- A fold of updates of the cached translations is one. -/
theorem foldl_tlb {α : Type} {f : State → α → State} (hf : ∀ s x, ∃ l, f s x = { s with tlb := l }) (xs : List α) (s : State) :
    ∃ l, xs.foldl f s = { s with tlb := l } := by
  induction xs generalizing s with
  | nil => exact ⟨s.tlb, rfl⟩
  | cons x xs ih =>
    obtain ⟨l, hl⟩ := hf s x
    obtain ⟨l', hl'⟩ := ih (f s x)
    exact ⟨l', by rw [List.foldl_cons, hl', hl]⟩

theorem State.cacheAll_eq (s : State) (at' : List TlbPlace) (p : Part) (asid : BitVec 16) (ls : List Lvl) (tbl va : Nat) (x : Page) :
    ∃ l, s.cacheAll at' p asid ls tbl va x = { s with tlb := l } :=
  foldl_tlb (fun _ _ => foldl_tlb (State.cache_eq _) _ _) _ _

/-- A meaning that, where it completes, has changed at most the cached translations and the count of free choices. -/
def TlbOnly {α : Type} (m : M α) : Prop := ∀ s a t, m.run s = .ok a t → ∃ l n, t = { s with tlb := l, draw := n }

theorem TlbOnly.pure {α : Type} (a : α) : TlbOnly (pure a : M α) := fun s _ _ h => ⟨s.tlb, s.draw, by cases h; rfl⟩

theorem TlbOnly.free : TlbOnly free := fun s _ _ h => ⟨s.tlb, s.draw + 1, by cases h; rfl⟩

theorem TlbOnly.bind {α β : Type} {m : M α} {f : α → M β} (hm : TlbOnly m) (hf : ∀ a, TlbOnly (f a)) : TlbOnly (m >>= f) := by
  intro s b u h
  rw [run_bind] at h
  cases hr : m.run s with
  | error e t => rw [hr] at h; cases h
  | ok a t =>
    rw [hr] at h
    obtain ⟨l, n, rfl⟩ := hm s a t hr
    obtain ⟨l', n', rfl⟩ := hf a _ b u h
    exact ⟨l', n', rfl⟩

/-- What a meaning reads first is the state that it runs in. -/
theorem TlbOnly.get_bind {α : Type} {f : State → M α} (hf : ∀ s, TlbOnly (f s)) : TlbOnly (get >>= f) :=
  fun s a t h => hf s s a t h

theorem TlbOnly.ite {α : Type} {c : Prop} [Decidable c] {a b : M α} (ha : TlbOnly a) (hb : TlbOnly b) :
    TlbOnly (if c then a else b) := by
  split
  · exact ha
  · exact hb

theorem TlbOnly.cacheAll (at' : List TlbPlace) (p : Part) (asid : BitVec 16) (ls : List Lvl) (tbl va : Nat) (x : Page) :
    TlbOnly (modify fun s => s.cacheAll at' p asid ls tbl va x) := by
  intro s _ t h
  obtain ⟨l, hl⟩ := s.cacheAll_eq at' p asid ls tbl va x
  cases h
  exact ⟨l, s.draw, hl⟩

theorem TlbOnly.freeBelow (n : Nat) : TlbOnly (freeBelow n) := TlbOnly.ite (TlbOnly.pure _) (TlbOnly.free.bind fun _ => TlbOnly.pure _)

theorem TlbOnly.xlate (at' : List TlbPlace) (pid : Nat) (asid : BitVec 16) (ptbase : Word) (level : Level) (va : Word) (acc : Acc) :
    TlbOnly (xlate at' pid asid ptbase level va acc) := by
  refine TlbOnly.get_bind fun s => ?_
  cases s.part? pid with
  | none => exact TlbOnly.pure _
  | some p =>
    refine TlbOnly.ite (TlbOnly.pure _) ((TlbOnly.freeBelow _).bind fun k => ?_)
    dsimp only
    split
    · exact TlbOnly.pure _
    · split
      · exact TlbOnly.pure _
      · exact (TlbOnly.cacheAll _ _ _ _ _ _ _).bind fun _ => TlbOnly.pure _

theorem TlbOnly.scratchPlace (va : Word) : TlbOnly (scratchPlace va) := by
  refine TlbOnly.get_bind fun s => ?_
  cases s.split? s.me.owner.lid s.me.clu with
  | none => exact TlbOnly.pure _
  | some x => exact TlbOnly.pure _

/-- Finding the place of an access. -/
theorem TlbOnly.placeE (va : Word) (acc : Acc) : TlbOnly (placeE va acc) := by
  refine TlbOnly.get_bind fun s => ?_
  cases s.me.owner with
  | mon => exact TlbOnly.pure _
  | hyp => exact TlbOnly.pure _
  | part pid ctx rcb lid =>
    refine TlbOnly.ite ?_ ((TlbOnly.xlate _ _ _ _ _ _ _).bind fun r => ?_)
    · exact TlbOnly.ite ((TlbOnly.pure _).bind fun _ => TlbOnly.pure _)
        ((TlbOnly.scratchPlace va).bind fun _ => TlbOnly.pure _)
    · cases r <;> exact TlbOnly.pure _

end Sys2Proof.Machine

/-! Reading the record of a `post` (R28): 64 bytes, dword by dword, where nothing is missed and no accumulator is away. -/

namespace Sys2Proof.Machine

theorem leNat_append (l m : List Byte) : leNat (l ++ m) = leNat l + leNat m <<< (8 * l.length) := by
  induction l with
  | nil => simp [leNat]
  | cons b l ih =>
    simp only [List.cons_append, leNat, ih, List.length_cons, Nat.shiftLeft_eq, Nat.mul_add, Nat.pow_add]
    ring

/-- A number in memory, cut in two. -/
theorem State.natAt_add (s : State) (a m n : Nat) : s.natAt a (m + n) = s.natAt a m + s.natAt (a + m) n <<< (8 * m) := by
  have cut : s.bytesAt a (m + n) = s.bytesAt a m ++ s.bytesAt (a + m) n := by
    simp [State.bytesAt, below, List.range_add, Nat.add_assoc]
  have len : (s.bytesAt a m).length = m := by simp [State.bytesAt, below]
  rw [State.natAt, cut, leNat_append, len]
  rfl

/-- Bytes whose accumulators are all in their stores are left as they are by an access (R72). -/
theorem State.touch_resting {s : State} {a n : Nat} (h : s.resting a n) : s.touch a n = s := by
  have idle : ∀ c ∈ s.accums.filter (·.meets a n), c.spill = none := fun c hc => by
    obtain ⟨hc, hm⟩ := List.mem_filter.1 hc
    exact h c hc hm
  unfold State.touch
  generalize s.accums.filter (·.meets a n) = l at idle
  induction l with
  | nil => rfl
  | cons c l ih =>
    have hc : s.fill c = s := by simp [State.fill, idle c (List.mem_cons_self ..)]
    rw [List.foldl_cons, hc]
    exact ih fun c hc => idle c (List.mem_cons_of_mem _ hc)

theorem State.resting.part {s : State} {a n b m : Nat} (h : s.resting a n) (hab : a ≤ b) (hbm : b + m ≤ a + n) : s.resting b m := by
  intro c hc hm
  simp only [Accum.meets, Bool.and_eq_true, decide_eq_true_eq] at hm
  refine h c hc ?_
  simp only [Accum.meets, Bool.and_eq_true, decide_eq_true_eq]
  omega

theorem State.settled.part {s : State} {a n b m : Nat} (h : s.settled a n) (hab : a ≤ b) (hbm : b + m ≤ a + n) : s.settled b m := by
  intro x hx
  have := h x hx
  omega

/-- A dword that no path misses a store to and whose accumulators are in their stores reads as it stands (R126; log 11). -/
theorem readAs_settled {s : State} {a : Nat} (r : Reader) (ha : a % 8 = 0) (hset : s.settled a 8) (hrest : s.resting a 8) :
    (readAs r a 8).run s = .ok (s.natAt a 8) s := by
  have hd : dwordOf a = a := by
    unfold dwordOf
    omega
  have none_recent : s.recent.any (·.addr = a) = false := by
    rw [List.any_eq_false]
    intro x hx
    have := hset x hx
    simp only [decide_eq_true_eq]
    omega
  simp only [readAs, run_bind, run_modify, run_get, State.touch_resting hrest, hd, none_recent, Bool.not_false, if_true, run_pure]

theorem loadRec_settled {s : State} {pl : Place} (ha : pl.addr % 8 = 0) (hset : s.settled pl.addr 8)
    (hrest : s.resting pl.addr 8) : (loadRec pl).run s = .ok (s.natAt pl.addr 8) s := by
  cases hl : pl.lags with
  | true => simp [loadRec, hl, readAs_settled _ ha hset hrest]
  | false => simp [loadRec, loadPath, loadFrom, hl, State.touch_resting hrest]

/-- A loop whose rounds leave the state as it is computes a fold. -/
theorem run_forIn_pure {α β : Type} {f : α → β → M (ForInStep β)} {g : β → α → β} {s : State} {l : List α}
    (h : ∀ x ∈ l, ∀ b, (f x b).run s = .ok (.yield (g b x)) s) (b : β) : (forIn l b f).run s = .ok (l.foldl g b) s := by
  induction l generalizing b with
  | nil => rfl
  | cons x l ih =>
    rw [List.forIn_cons, run_bind, h x (List.mem_cons_self ..)]
    exact ih (fun y hy => h y (List.mem_cons_of_mem _ hy)) _

/-- A number in memory, put together from its dwords. -/
theorem State.foldl_dwords (s : State) (a k : Nat) :
    (below k).foldl (fun n i => n + s.natAt (a + 8 * i) 8 <<< (64 * i)) 0 = s.natAt a (8 * k) := by
  induction k with
  | zero => rfl
  | succ k ih =>
    rw [below, List.range_succ, List.foldl_append, ← below, ih, List.foldl_cons, List.foldl_nil, Nat.mul_succ, State.natAt_add,
      ← Nat.mul_assoc]

/-- The record of a `post`, where nothing is missed and no accumulator is away (R28). -/
theorem loadRecord_settled {s s1 : State} {b : Word} {pl : Place} (hb : b.toNat % 64 = 0)
    (hpl : (placeE b .r).run s = .ok (.ok pl) s1) (ha : pl.addr % 8 = 0) (hset : s1.settled pl.addr 64)
    (hrest : s1.resting pl.addr 64) :
    (loadRecord b).run s = .ok (BitVec.ofNat 512 (s1.natAt pl.addr 64), s1.badAt pl.addr 64) s1 := by
  have dword : ∀ i ∈ below 8, (loadRec { pl with addr := pl.addr + 8 * i }).run s1 = .ok (s1.natAt (pl.addr + 8 * i) 8) s1 := by
    intro i hi
    have hi : i < 8 := List.mem_range.1 hi
    exact loadRec_settled (pl := { pl with addr := pl.addr + 8 * i }) (by simp only; omega)
      (hset.part (by simp only; omega) (by simp only; omega)) (hrest.part (by simp only; omega) (by simp only; omega))
  have loop := run_forIn_pure (s := s1) (l := below 8)
    (f := fun i n => do
      let x ← loadRec { pl with addr := pl.addr + 8 * i }
      pure (.yield (n + x <<< (64 * i))))
    (g := fun n i => n + s1.natAt (pl.addr + 8 * i) 8 <<< (64 * i)) (fun i hi n => by simp [dword i hi]) 0
  rw [State.foldl_dwords] at loop
  have at64 : (aligned b 64).run s = .ok () s := by simp [aligned, hb]
  have placed : (place b .r 6).run s = .ok pl s1 := by simp [place, hpl]
  simp only [loadRecord, run_bind, run_pure, run_get, at64, placed, loop]

end Sys2Proof.Machine

/-! Posting a call (R22, R24, R226). -/

namespace Sys2Proof.Machine

/-- With a slot free, a post takes the lowest (R24). -/
theorem pickCallSlot_free {s : State} {i : Nat} (h : s.me.calls.findIdx? (·.isNone) = some i) :
    pickCallSlot.run s = .ok i s := by
  rw [List.findIdx?_eq_fst_find?_zipIdx] at h
  obtain ⟨⟨o, j⟩, hf, rfl⟩ := Option.map_eq_some_iff.1 h
  simp only [pickCallSlot, run_bind, run_me]
  split
  next hs =>
    obtain ⟨-, rfl⟩ := Prod.mk.inj (Option.some.inj (hf.symm.trans hs))
    rfl
  next hs => exact nomatch hf.symm.trans hs

/-- A table of FAULT and RESET slots alone. -/
def Strand.allFailed (t : Strand) : Prop := ∀ o ∈ t.calls, ∃ x : Slot, o = some x ∧ (x.stat = .fault ∨ x.stat = .reset)

/-- With a table of FAULT and RESET slots alone a post traps (R24). -/
theorem pickCallSlot_failed {s : State} (h : s.me.allFailed) :
    pickCallSlot.run s = .error (.trap ⟨0x10, 2, .sup⟩ false) s := by
  have not_found : ∀ f : Option Slot × Nat → Bool, (∀ x i, f (some x, i) = false) → s.me.calls.zipIdx.find? f = none := by
    intro f hf
    rw [List.find?_eq_none]
    rintro ⟨o, i⟩ ho
    obtain ⟨x, rfl, -⟩ := h o (List.fst_mem_of_mem_zipIdx ho)
    simp [hf]
  have not_done : ∀ f : Option Slot × Nat → Option (Nat × Nat), (∀ x i, x.stat ≠ .done → f (some x, i) = none) →
      s.me.calls.zipIdx.filterMap f = [] := by
    intro f hf
    rw [List.filterMap_eq_nil_iff]
    rintro ⟨o, i⟩ ho
    obtain ⟨x, rfl, hx⟩ := h o (List.fst_mem_of_mem_zipIdx ho)
    exact hf x i (by rcases hx with hx | hx <;> simp [hx])
  have not_pending : ∀ f : Option Slot → Bool, (∀ x, x.stat ≠ .pending → f (some x) = false) → s.me.calls.any f = false := by
    intro f hf
    rw [List.any_eq_false]
    intro o ho
    obtain ⟨x, rfl, hx⟩ := h o ho
    simp [hf x (by rcases hx with hx | hx <;> simp [hx])]
  simp only [pickCallSlot, run_bind, run_me]
  rw [not_found _ fun _ _ => rfl]
  dsimp only
  rw [not_done _ fun _ _ hx => if_neg hx]
  dsimp only
  rw [not_pending _ fun _ hx => decide_eq_false hx]
  rfl

/-- The strand with a call in slot `i` of its table (R22, R226). -/
def Strand.fileCall (t : Strand) (i : Nat) (x : Slot) : Strand :=
  { t with calls := t.calls.set i (some x), posts := t.posts + 1, postOrder := t.postOrder + 1, mark := t.mark || x.stat != .pending }

/-- The slot of the next call of a strand (R22). -/
def Strand.nextSlot (t : Strand) (kind queue index : Nat) (stat : TStat) (rc : Word) : Slot :=
  ⟨t.posts + 1, kind, queue, index, stat, rc, t.postOrder⟩

/-- A call takes the lowest free slot, with a sequence number of its own (R22, R24). -/
theorem openSlot_free {s : State} {i : Nat} (kind queue index : Nat) (stat : TStat) (rc : Word)
    (h : s.me.calls.findIdx? (·.isNone) = some i) :
    (openSlot kind queue index stat rc).run s =
      .ok (i, s.me.nextSlot kind queue index stat rc) { s with me := s.me.fileCall i (s.me.nextSlot kind queue index stat rc) } := by
  simp only [openSlot, run_bind, run_me, pickCallSlot_free h, run_modMe, run_pure]
  rfl

theorem openSlot_failed {s : State} (kind queue index : Nat) (stat : TStat) (rc : Word) (h : s.me.allFailed) :
    (openSlot kind queue index stat rc).run s = .error (.trap ⟨0x10, 2, .sup⟩ false) s := by
  simp only [openSlot, run_bind, pickCallSlot_failed h]

/-- With no tile open there is nothing to merge (R243). -/
theorem mergeFor_no_tiles {s : State} (h : s.me.tiles = []) (r : Nat) : (mergeFor s.me.uid r).run s = .ok () s := by
  have found : s.strand? s.me.uid = some s.me := by simp [State.strand?, State.strands]
  simp [mergeFor, found, h]

/-- The merges before a call that returns to `rs` (R243): none where it returns to no register, and none where no tile is open. -/
theorem run_mergeAll {s : State} {rs : List Nat} (h : rs = [] ∨ s.me.tiles = []) :
    (forIn rs PUnit.unit fun r _ => do
      mergeFor s.me.uid r
      pure (ForInStep.yield PUnit.unit)).run s = .ok PUnit.unit s := by
  rcases h with rfl | h
  · rfl
  · exact run_forIn_pure (g := fun u _ => u) (fun r _ u => by simp only [run_bind, mergeFor_no_tiles h, run_pure]) PUnit.unit

/-- If none of the return registers is pending or named by a queued entry, neither is any of the first `n` (R31). -/
theorem Strand.returnsBusy_take {t : Strand} {rs : List Nat} {rk : Option Nat} (n : Nat)
    (h : t.returnsBusy false rs rk = false) : t.returnsBusy false (rs.take n) rk = false := by
  have fewer : ∀ r, (rs.take n).contains r = true → rs.contains r = true := fun r hr => by
    simpa using List.mem_of_mem_take (List.contains_iff_mem.1 hr)
  simp only [Strand.returnsBusy, Bool.or_eq_false_iff, List.any_eq_false, Bool.and_eq_false_iff] at h ⊢
  obtain ⟨⟨pend, mask⟩, queue⟩ := h
  refine ⟨⟨fun r hr => pend r (List.mem_of_mem_take hr), mask⟩, queue.imp_right fun q e he => ?_⟩
  have := q e he
  simp only [Bool.or_eq_true, not_or, List.any_eq_true, not_exists, not_and] at this ⊢
  exact ⟨fun r hr hc => this.1 r hr (fewer r hc), this.2⟩

section posting

variable {s : State} {p : Part} {x : Post} {i : Nat}

/-- The queue that a post goes to is full (R30). -/
def State.postFull (s : State) (p : Part) (x : Post) : Bool :=
  s.queueFull (eaKind x.addr) (s.engOf p s.me.owner.ctx (eaKind x.addr) (ownIndex s.me x.addr)) (eaQueue x.addr) p.pid
    s.me.owner.ctx

/-- With NW = 1 a post to a full queue gives BUSY and changes nothing (R22, R30). -/
theorem postCall_busy (hv : x.vec = false) (hok : eaOk p s.me x.addr false = true) (hfull : s.postFull p x = true)
    (hn : eaNw x.addr = true) : (postCall p x).run s = .ok busyTicket s := by
  unfold State.postFull at hfull
  simp [postCall, hv, hok, hfull, hn]

/-- With NW = 0 and a slot free, a post to a full queue waits (R30). -/
theorem postCall_waits (hv : x.vec = false) (hok : eaOk p s.me x.addr false = true) (hfull : s.postFull p x = true)
    (hn : eaNw x.addr = false) (hi : s.me.calls.findIdx? (·.isNone) = some i) :
    ∃ t, (postCall p x).run s = .error (.stall false) t := by
  unfold State.postFull at hfull
  simp [postCall, hv, hok, hfull, hn, openSlot_free _ _ _ _ _ hi, run_waitFor]

/-- With NW = 0 and no slot that can come free, a post to a full queue traps (R24). -/
theorem postCall_traps (hv : x.vec = false) (hok : eaOk p s.me x.addr false = true) (hfull : s.postFull p x = true)
    (hn : eaNw x.addr = false) (hi : s.me.allFailed) :
    (postCall p x).run s = .error (.trap ⟨0x10, 2, .sup⟩ false) s := by
  unfold State.postFull at hfull
  simp [postCall, hv, hok, hfull, hn, openSlot_failed _ _ _ _ _ hi]

/-- The slot of a post of the strand that fails at once (R21, R178). -/
def Strand.faultSlot (t : Strand) (a : Word) (code : Nat) : Slot :=
  t.nextSlot (eaKind a) (eaQueue a) (ownIndex t a) .fault (faultRecord code (eaKind a) (eaQueue a) 0)

/-- A post to an ill-formed address takes a slot that is a FAULT (R21). -/
theorem postCall_illFormed (hv : x.vec = false) (hok : eaOk p s.me x.addr false = false)
    (hi : s.me.calls.findIdx? (·.isNone) = some i) :
    (postCall p x).run s = .ok (wd ((s.me.faultSlot x.addr 1).ticket i)) { s with me := s.me.fileCall i (s.me.faultSlot x.addr 1) } := by
  simp [postCall, hv, hok, openSlot_free _ _ _ _ _ hi, run_waitFor, Strand.faultSlot]

/-- A post beyond an ENGQ cap takes a slot that is a FAULT (R178). -/
theorem postCall_overCap (hv : x.vec = false) (hok : eaOk p s.me x.addr false = true) (hfull : s.postFull p x = false)
    (hcap : s.engqOver p s.me.owner.ctx s.me.owner.rcb = true) (hi : s.me.calls.findIdx? (·.isNone) = some i) :
    (postCall p x).run s = .ok (wd ((s.me.faultSlot x.addr 8).ticket i)) { s with me := s.me.fileCall i (s.me.faultSlot x.addr 8) } := by
  unfold State.postFull at hfull
  simp [postCall, hv, hok, hfull, hcap, openSlot_free _ _ _ _ _ hi, run_waitFor, Strand.faultSlot]

/-- The bulkhead of the engine that a post goes to. -/
def State.postBh (s : State) (p : Part) (x : Post) : Bulkhead :=
  s.bh (engBh (eaKind x.addr) (s.engOf p s.me.owner.ctx (eaKind x.addr) (ownIndex s.me x.addr)))

/-- A post that is accepted appends one call, takes a slot that is pending and marks what the call will return (R22, R31). -/
theorem postCall_accepted (hv : x.vec = false) (hbad : x.bad = false) (hok : eaOk p s.me x.addr false = true)
    (hfull : s.postFull p x = false) (hcap : s.engqOver p s.me.owner.ctx s.me.owner.rcb = false)
    (hi : s.me.calls.findIdx? (·.isNone) = some i)
    (hret : ∀ rs k, callReturns x.addr = some (rs, k) → s.me.returnsBusy false rs k = false ∧ (rs = [] ∨ s.me.tiles = []))
    (hown : (s.postBh p x).state = .owned) (hlost : (s.postBh p x).lost = false) :
    let sl := s.me.nextSlot (eaKind x.addr) (eaQueue x.addr) (ownIndex s.me x.addr) .pending 0
    ∃ c vp kp r, (postCall p x).run s = .ok (wd (sl.ticket i)) { s with
        nextId := s.nextId + 1, me := { s.me.fileCall i sl with vpend := vp, kpend := kp }, calls := s.calls ++ [c], raced := r } ∧
      c.record = x.record ∧ c.kind = eaKind x.addr ∧ c.queue = eaQueue x.addr ∧
      c.eng = s.engOf p s.me.owner.ctx (eaKind x.addr) (ownIndex s.me x.addr) ∧ c.uid = s.me.uid ∧ c.slot = i ∧
      c.seq = sl.seq ∧ c.started = false := by
  intro sl
  obtain ⟨⟨rs, rk⟩, hr⟩ : ∃ y, callReturns x.addr = some y := by
    simp only [eaOk, Bool.and_eq_true] at hok
    exact Option.isSome_iff_exists.1 hok.2
  obtain ⟨free, closed⟩ := hret rs rk hr
  generalize hrets : (if eaKind x.addr = 2 then rs.take (s.txuChannels p s.me x.regs) else rs) = rets
  have hrets_free : s.me.returnsBusy false rets rk = false := by
    subst hrets
    split
    · exact Strand.returnsBusy_take _ free
    · exact free
  have hrets_closed : rets = [] ∨ s.me.tiles = [] := by
    subst hrets
    exact closed.imp_left fun h => by simp [h]
  have merged (y : Slot) : (forIn rets PUnit.unit fun r _ => do
      mergeFor s.me.uid r
      pure (ForInStep.yield PUnit.unit)).run { s with me := s.me.fileCall i y } = .ok PUnit.unit { s with me := s.me.fileCall i y } :=
    run_mergeAll (s := { s with me := s.me.fileCall i y }) hrets_closed
  simp only [State.postFull, State.postBh, State.bh] at hfull hown hlost
  generalize hrun : (postCall p x).run s = answer
  simp only [postCall, run_bind, run_get, run_pure, run_newId, run_modify, run_waitFor, hv, hbad, hok, hfull, hcap, hr, hrets, hrets_free,
    openSlot_free _ _ _ _ _ hi, merged, State.bh, hown, hlost, Option.getD_some, Bool.false_and, Bool.and_false, Bool.and_true,
    Bool.not_false, Bool.not_true, Bool.false_eq_true, ↓reduceIte, bne_self_eq_false] at hrun
  subst hrun
  exact ⟨_, _, _, _, rfl, rfl, rfl, rfl, rfl, rfl, rfl, rfl, rfl⟩

end posting

/-- The meaning of `post` up to its pc: the checks, the operands, the record, the call, the ticket (R226). -/
def postBody (d a b : SReg) : M Unit := do
  let p ← needCall (.postCall d a b)
  let x ← readS a
  let y ← readS b
  let (rec0, bad) ← loadRecord y
  writeS d (← postCall p ⟨x, false, rec0, [], 0, 0, bad⟩)

theorem exec_postCall (d a b : SReg) (s : State) : exec (.postCall d a b) s = scalar (postBody d a b) s := rfl

/-- What a `post` with the record at a place sends (R22). -/
def State.postOf (s : State) (ea : Word) (pl : Place) : Post :=
  ⟨ea, false, BitVec.ofNat 512 (s.natAt pl.addr 64), [], 0, 0, s.badAt pl.addr 64⟩

section posting

variable {s s1 : State} {d a b : SReg} {p : Part} {pl : Place}

/-- A `post` whose operands and record read as they stand posts the call and writes the ticket. -/
theorem postBody_run (hp : s.myPart? = some p) (hg : s.allows 2) (ha : s.me.readable a) (hb : s.me.readable b)
    (h64 : (s.me.sreg b).toNat % 64 = 0) (hpl : (placeE (s.me.sreg b) .r).run s = .ok (.ok pl) s1) (h8 : pl.addr % 8 = 0)
    (hset : s1.settled pl.addr 64) (hrest : s1.resting pl.addr 64) :
    (postBody d a b).run s = (do writeS d (← postCall p (s1.postOf (s.me.sreg a) pl)) : M Unit).run s1 := by
  simp only [postBody, run_bind, needCall_ok hp hg, readS_plain ha, readS_plain hb, loadRecord_settled h64 hpl h8 hset hrest]
  rfl

/-- A `post` that gives a ticket retires with it. -/
theorem postCall_retires {x : Post} {t : State} {v : Word}
    (body : (postBody d a b).run s = (do writeS d (← postCall p x) : M Unit).run s1)
    (h : (postCall p x).run s1 = .ok v t) (hd : t.me.writable d) : exec (.postCall d a b) s = .next (t.retire 4 d v) := by
  rw [exec_postCall]
  refine scalar_retire ?_
  rw [body, run_bind, h]
  exact writeS_plain hd

/-- A `post` that stops commits nothing. -/
theorem postBody_stops {x : Post} {t : State} {e : Stop}
    (body : (postBody d a b).run s = (do writeS d (← postCall p x) : M Unit).run s1)
    (h : (postCall p x).run s1 = .error e t) : (postBody d a b).run s = .error e t := by
  rw [body, run_bind, h]

end posting

/-- Settles O28: the record reads as it stands, and the call table, the queue and the cap decide what the post gives. -/
theorem postResults : Obligations.PostResults := by
  intro s s1 d a b p pl i hp hg ha hb hd h64 hpl hset hrest hbad h8
  have body := postBody_run (d := d) hp hg ha hb h64 hpl h8 hset hrest
  obtain ⟨hme, hmem, hcalls, hbh⟩ : s1.me = s.me ∧ s1.mem = s.mem ∧ s1.calls = s.calls ∧ s1.bh = s.bh := by
    obtain ⟨l, n, rfl⟩ := TlbOnly.placeE _ _ _ _ _ hpl
    exact ⟨rfl, rfl, rfl, rfl⟩
  dsimp only
  rw [← hme] at hd body ⊢
  rw [← hmem, ← hcalls, ← hbh]
  generalize hx : s1.postOf (s1.me.sreg a) pl = x at body
  have hv : x.vec = false := hx ▸ rfl
  obtain ⟨haddr, hrec, hclean⟩ : s1.me.sreg a = x.addr ∧ BitVec.ofNat 512 (s1.natAt pl.addr 64) = x.record ∧ x.bad = false := by
    subst hx
    exact ⟨rfl, rfl, hbad⟩
  rw [haddr, hrec]
  refine ⟨fun hok hfull => ⟨fun hn => ?_, fun hn hi => ?_, fun hn hi => ?_⟩,
    fun hi => ⟨fun hok => ?_, fun hok hfull hcap => ?_, fun hok hret hfull hcap hown hlost => ?_⟩⟩
  · exact postCall_retires body (postCall_busy hv hok hfull hn) hd
  · obtain ⟨j, hj⟩ := Option.isSome_iff_exists.1 hi
    obtain ⟨t, ht⟩ := postCall_waits hv hok hfull hn hj
    exact scalar_stall (postBody_stops body ht)
  · exact scalar_trap (postBody_stops body (postCall_traps hv hok hfull hn hi))
  · exact ⟨_, s1.me.faultSlot x.addr 1, postCall_retires body (postCall_illFormed hv hok hi) hd,
      State.retire_calls _ _ _ _, rfl, rfl, rfl, rfl, Strand.sreg_setS_same _ _ _⟩
  · exact ⟨_, s1.me.faultSlot x.addr 8, postCall_retires body (postCall_overCap hv hok hfull hcap hi) hd,
      State.retire_calls _ _ _ _, rfl, rfl, rfl, rfl, Strand.sreg_setS_same _ _ _⟩
  · obtain ⟨c, vp, kp, r, run, record, kind, queue, engine, uid, slot, seq, started⟩ :=
      postCall_accepted hv hclean hok hfull hcap hi hret hown hlost
    exact ⟨_, _, c, postCall_retires body run hd, State.retire_calls _ _ _ _, rfl, rfl, record, kind, queue, engine, uid, slot,
      seq, started, rfl, State.retire_pc _ _ _ _, Strand.sreg_setS_same _ _ _⟩

end Sys2Proof.Machine

/-! Encodings (R73-R97): a word is its fixed bits and its fields; what the encoder packs is decoded as its instruction, and what
decodes is packed again as it was. -/

namespace Sys2Proof.Machine

/-- Bits [lo + n - 1 : lo] of a word. -/
def span (lo n : Nat) : IWord := (BitVec.allOnes n).setWidth 32 <<< lo

/-- A field of a word: its value, its lowest bit and its width. -/
structure Field where
  value : Nat
  lo : Nat
  width : Nat

/-- The bits that fields take. -/
def spans : List Field → IWord
  | [] => 0
  | ⟨_, lo, n⟩ :: ts => span lo n ||| spans ts

/-- Stated as an equation that is no definition, so that a proof that cites it leaves no list for the kernel to unfold. -/
theorem spans_nil : spans [] = 0#32 := by rw [spans]; rfl

theorem spans_cons (v lo n : Nat) (ts : List Field) : spans (⟨v, lo, n⟩ :: ts) = span lo n ||| spans ts := by
  rw [spans]

/-- The fields lie inside a word, apart from each other and from the bits that are used already. -/
def apartFrom (used : IWord) : List Field → Bool
  | [] => true
  | ⟨_, lo, n⟩ :: ts => used &&& span lo n == 0 && lo + n ≤ 32 && apartFrom (used ||| span lo n) ts

/-- The fields of a packed word, with the width that each value fits. -/
inductive Widths : List (Nat × Nat) → List Field → Prop
  | nil : Widths [] []
  | cons {v lo n : Nat} {fs : List (Nat × Nat)} {ts : List Field} :
    v < 2 ^ n → Widths fs ts → Widths ((v, lo) :: fs) (⟨v, lo, n⟩ :: ts)

/-- A bit vector fits its own width. -/
theorem Widths.bits {lo n : Nat} {fs : List (Nat × Nat)} {ts : List Field} (v : BitVec n) (w : Widths fs ts) :
    Widths ((v.toNat, lo) :: fs) (⟨v.toNat, lo, n⟩ :: ts) := .cons v.isLt w

/-- The high part of a number that two words hold. -/
theorem Widths.high {x m n lo : Nat} {fs : List (Nat × Nat)} {ts : List Field} (hx : x < 2 ^ n * 2 ^ m)
    (w : Widths fs ts) : Widths ((x / 2 ^ n, lo) :: fs) (⟨x / 2 ^ n, lo, m⟩ :: ts) := .cons (Nat.div_lt_of_lt_mul hx) w

/-- The low part of a number that two words hold. -/
theorem Widths.low {x n lo : Nat} {fs : List (Nat × Nat)} {ts : List Field} (w : Widths fs ts) :
    Widths ((x % 2 ^ n, lo) :: fs) (⟨x % 2 ^ n, lo, n⟩ :: ts) := .cons (Nat.mod_lt _ (by positivity)) w

theorem getLsbD_span (lo n i : Nat) :
    (span lo n).getLsbD i = (decide (i < 32) && (decide (lo ≤ i) && decide (i < lo + n))) := by
  simp only [span, BitVec.getLsbD_shiftLeft, BitVec.getLsbD_setWidth, BitVec.getLsbD_allOnes]
  rw [Bool.eq_iff_iff]
  simp only [Bool.and_eq_true, Bool.not_eq_true', decide_eq_true_eq, decide_eq_false_iff_not]
  omega

/-- The bits of a field in its place. -/
theorem getLsbD_field {v lo n i : Nat} (hv : v < 2 ^ n) :
    (BitVec.ofNat 32 (v * 2 ^ lo)).getLsbD i = ((span lo n).getLsbD i && v.testBit (i - lo)) := by
  rw [getLsbD_span, BitVec.getLsbD_ofNat, Nat.testBit_mul_two_pow]
  by_cases h : i < lo + n
  · simp [h, Bool.and_assoc]
  · have : v.testBit (i - lo) = false := Nat.testBit_lt_two_pow (lt_of_lt_of_le hv (Nat.pow_le_pow_right (by decide) (by omega)))
    simp [this]

/-- A field that is added where its bits are free leaves the others alone. -/
theorem getLsbD_add_field {c v lo n : Nat} (hv : v < 2 ^ n) (h : BitVec.ofNat 32 c &&& span lo n = 0) (i : Nat) :
    (BitVec.ofNat 32 (c + v * 2 ^ lo)).getLsbD i =
      ((BitVec.ofNat 32 c).getLsbD i || ((span lo n).getLsbD i && v.testBit (i - lo))) := by
  have hand : BitVec.ofNat 32 c &&& BitVec.ofNat 32 (v * 2 ^ lo) = 0 := by
    ext j hj
    have := congrArg (·.getLsbD j) h
    simp only [BitVec.getLsbD_and] at this
    simp only [← BitVec.getLsbD_eq_getElem, BitVec.getLsbD_and, getLsbD_field hv]
    revert this
    cases (BitVec.ofNat 32 c).getLsbD j <;> cases (span lo n).getLsbD j <;> simp
  rw [BitVec.ofNat_add, BitVec.add_eq_or_of_and_eq_zero _ _ hand, BitVec.getLsbD_or, getLsbD_field hv]

/-- Bits in use are in no field. -/
theorem spans_free {used : IWord} {ts : List Field} (h : apartFrom used ts = true) {i : Nat}
    (hi : used.getLsbD i = true) : (spans ts).getLsbD i = false := by
  induction ts generalizing used with
  | nil => simp [spans]
  | cons t ts ih =>
    simp only [apartFrom, Bool.and_eq_true, beq_iff_eq] at h
    obtain ⟨⟨hfree, -⟩, h⟩ := h
    have := congrArg (·.getLsbD i) hfree
    simp only [spans, BitVec.getLsbD_or, ih h (by simp [hi]), Bool.or_false]
    simpa [hi] using this

/-- Where no field lies a packed word has its fixed bits, and in the bits of a field it has that field's value. -/
theorem getLsbD_packWord {fs : List (Nat × Nat)} {ts : List Field} (w : Widths fs ts) :
    ∀ {c : Nat} {used : IWord}, (∀ i, (BitVec.ofNat 32 c).getLsbD i = true → used.getLsbD i = true) →
      apartFrom used ts = true →
      (∀ i, (spans ts).getLsbD i = false → (packWord c fs).getLsbD i = (BitVec.ofNat 32 c).getLsbD i) ∧
      ∀ t ∈ ts, ∀ i < t.width, (packWord c fs).getLsbD (t.lo + i) = t.value.testBit i := by
  induction w with
  | nil => exact fun _ _ => ⟨fun _ _ => rfl, nofun⟩
  | @cons v lo n fs ts hv w ih =>
    intro c used hc ha
    simp only [apartFrom, Bool.and_eq_true, beq_iff_eq, decide_eq_true_eq] at ha
    obtain ⟨⟨hfree, hin⟩, ha⟩ := ha
    have free : ∀ i, used.getLsbD i = true → (span lo n).getLsbD i = false := fun i hu => by
      simpa [hu] using congrArg (·.getLsbD i) hfree
    have hand : BitVec.ofNat 32 c &&& span lo n = 0 := by
      ext i hi
      have := fun h => free i (hc i h)
      simp only [← BitVec.getLsbD_eq_getElem, BitVec.getLsbD_and] at this ⊢
      cases h : (BitVec.ofNat 32 c).getLsbD i <;> simp [h, this]
    have bit := getLsbD_add_field hv hand
    obtain ⟨hout, hfld⟩ := ih (c := c + v * 2 ^ lo) (used := used ||| span lo n)
      (fun i hi => by
        rw [bit, Bool.or_eq_true, Bool.and_eq_true] at hi
        rw [BitVec.getLsbD_or, Bool.or_eq_true]
        exact hi.imp (hc i) And.left) ha
    refine ⟨fun i hi => ?_, fun t ht i hi => ?_⟩
    · simp only [spans, BitVec.getLsbD_or, Bool.or_eq_false_iff] at hi
      exact (hout i hi.2).trans (by simp [bit, hi.1])
    · rcases List.mem_cons.1 ht with rfl | ht
      · change i < n at hi
        change (packWord (c + v * 2 ^ lo) fs).getLsbD (lo + i) = v.testBit i
        have inside : (span lo n).getLsbD (lo + i) = true := by
          simp only [getLsbD_span, Bool.and_eq_true, decide_eq_true_eq]
          omega
        rw [hout _ (spans_free ha (by simp [inside])), bit, inside]
        cases h : (BitVec.ofNat 32 c).getLsbD (lo + i)
        · simp
        · exact absurd (free _ (hc _ h)) (by simp [inside])
      · exact hfld t ht i hi

/-- The fields lie apart from the fixed bits `c` and from the bits `low`. -/
def fitsBeside (low : IWord) (c : Nat) (ts : List Field) : Bool := apartFrom (BitVec.ofNat 32 c ||| low) ts

/-- A word with these fixed bits and these fields. -/
structure Packed (c : Nat) (ts : List Field) (w : IWord) : Prop where
  fixed : w &&& ~~~spans ts = BitVec.ofNat 32 c
  fields : ∀ t ∈ ts, fld w t.lo t.width = BitVec.ofNat t.width t.value

section packing

variable {c : Nat} {fs : List (Nat × Nat)} {ts : List Field} {low : IWord}

theorem packWord_out (w : Widths fs ts) (h : fitsBeside low c ts = true) :
    (∀ i, (spans ts).getLsbD i = false → (packWord c fs).getLsbD i = (BitVec.ofNat 32 c).getLsbD i) ∧
      ∀ t ∈ ts, ∀ i < t.width, (packWord c fs).getLsbD (t.lo + i) = t.value.testBit i :=
  getLsbD_packWord w (fun i hi => by rw [BitVec.getLsbD_or, hi, Bool.true_or]) h

/-- What the encoder packs has the fixed bits and the fields that it was given. -/
theorem packWord_packed (w : Widths fs ts) (h : fitsBeside low c ts = true) : Packed c ts (packWord c fs) := by
  obtain ⟨hout, hfld⟩ := packWord_out w h
  refine ⟨?_, fun t ht => ?_⟩
  · ext i hi
    simp only [← BitVec.getLsbD_eq_getElem, BitVec.getLsbD_and, BitVec.getLsbD_not, hi, decide_true, Bool.true_and]
    cases hs : (spans ts).getLsbD i
    · simp [hout i hs]
    · cases hc : (BitVec.ofNat 32 c).getLsbD i
      · simp
      · exact absurd (spans_free h (by rw [BitVec.getLsbD_or, hc, Bool.true_or])) (by simp [hs])
  · ext i hi
    simp only [← BitVec.getLsbD_eq_getElem, fld, BitVec.getLsbD_extractLsb', hfld t ht i hi, BitVec.getLsbD_ofNat]

/-- The major opcode of a packed word whose fields lie above it. -/
theorem major_packWord (w : Widths fs ts) (h : fitsBeside 0xFF c ts = true) :
    major (packWord c fs) = BitVec.ofNat 6 (c / 4) := by
  ext i hi
  have above : (spans ts).getLsbD (2 + i) = false := spans_free h (by
    rw [BitVec.getLsbD_or, Bool.or_eq_true]
    exact .inr (by interval_cases i <;> rfl))
  simp only [← BitVec.getLsbD_eq_getElem, major, fld, BitVec.getLsbD_extractLsb', (packWord_out w h).1 _ above,
    BitVec.getLsbD_ofNat]
  simp [hi, Nat.testBit_div_two_pow (n := 2), Nat.add_comm 2 i, show i + 2 < 32 by omega]

end packing

/-- A bit that a field takes lies inside one of them. -/
theorem getLsbD_spans {ts : List Field} {i : Nat} (h : (spans ts).getLsbD i = true) :
    ∃ t ∈ ts, t.lo ≤ i ∧ i < t.lo + t.width := by
  induction ts with
  | nil => simp [spans] at h
  | cons t ts ih =>
    simp only [spans, BitVec.getLsbD_or, getLsbD_span, Bool.or_eq_true, Bool.and_eq_true, decide_eq_true_eq] at h
    rcases h with ⟨-, h⟩ | h
    · exact ⟨t, List.mem_cons_self, h⟩
    · obtain ⟨t', ht', h'⟩ := ih h
      exact ⟨t', List.mem_cons_of_mem _ ht', h'⟩

/-- The fixed bits and the fields are the whole word. -/
theorem Packed.unique {c : Nat} {ts : List Field} {w w' : IWord} (p : Packed c ts w) (p' : Packed c ts w') :
    w = w' := by
  ext i hi
  simp only [← BitVec.getLsbD_eq_getElem]
  cases hs : (spans ts).getLsbD i
  · have := congrArg (·.getLsbD i) (p.fixed.trans p'.fixed.symm)
    simpa only [BitVec.getLsbD_and, BitVec.getLsbD_not, hs, hi, decide_true, Bool.not_false, Bool.and_true] using this
  · obtain ⟨t, ht, hlo, hup⟩ := getLsbD_spans hs
    have := congrArg (·.getLsbD (i - t.lo)) ((p.fields t ht).trans (p'.fields t ht).symm)
    simpa [fld, BitVec.getLsbD_extractLsb', show i - t.lo < t.width by omega, show t.lo + (i - t.lo) = i by omega] using this

/-- A field as bits of the word under a mask. -/
theorem fld_eq_iff_mask {w : IWord} {lo n : Nat} {x : BitVec n} (h : lo + n ≤ 32) :
    fld w lo n = x ↔ w &&& span lo n = x.setWidth 32 <<< lo := by
  constructor
  · rintro rfl
    ext i hi
    simp only [← BitVec.getLsbD_eq_getElem, BitVec.getLsbD_and, getLsbD_span, BitVec.getLsbD_shiftLeft, BitVec.getLsbD_setWidth,
      fld, BitVec.getLsbD_extractLsb']
    by_cases hl : lo ≤ i
    · simp [hi, hl, show ¬ i < lo by omega, show i - lo < 32 by omega, show lo + (i - lo) = i by omega,
        show i < lo + n ↔ i - lo < n by omega, Bool.and_comm]
    · simp [hl, show i < lo by omega]
  · intro e
    ext i hi
    have := congrArg (·.getLsbD (lo + i)) e
    simp only [BitVec.getLsbD_and, getLsbD_span, BitVec.getLsbD_shiftLeft, BitVec.getLsbD_setWidth] at this
    simp only [← BitVec.getLsbD_eq_getElem, fld, BitVec.getLsbD_extractLsb']
    simpa only [hi, show lo + i < 32 by omega, show i < 32 by omega, show ¬ lo + i < lo by omega, show lo ≤ lo + i by omega,
      show lo + i < lo + n by omega, show lo + i - lo = i by omega, decide_true, decide_false, Bool.not_false, Bool.true_and,
      Bool.and_true] using this

/-- Of two masks that agree where they meet, the first alone. -/
theorem and_of_and_or {w m m' c c' : IWord} (hc : c &&& m = c) (hb : c &&& m' = c' &&& m) (h : w &&& (m ||| m') = c ||| c') :
    w &&& m = c := by
  have absorb : ∀ x y : IWord, x &&& (m ||| y) &&& m = x &&& m := fun x y => by
    ext i
    simp only [BitVec.getElem_and, BitVec.getElem_or]
    cases x[i] <;> cases m[i] <;> cases y[i] <;> rfl
  have absorb' : ∀ x y : IWord, x ||| x &&& y = x := fun x y => by
    ext i
    simp only [BitVec.getElem_and, BitVec.getElem_or]
    cases x[i] <;> cases y[i] <;> rfl
  calc w &&& m = (c ||| c') &&& m := by rw [← h, absorb]
    _ = c ||| c &&& m' := by rw [BitVec.and_comm, BitVec.and_or_distrib_left, BitVec.and_comm m, hc, BitVec.and_comm m, ← hb]
    _ = c := absorb' c m'

/-- What a word has under two masks is what it has under both together. -/
theorem and_mask_iff {w m m' c c' : IWord} (h : c &&& m = c ∧ c' &&& m' = c' ∧ c &&& m' = c' &&& m) :
    (w &&& m = c ∧ w &&& m' = c') ↔ w &&& (m ||| m') = c ||| c' := by
  obtain ⟨hc, hc', hb⟩ := h
  constructor
  · rintro ⟨rfl, rfl⟩
    rw [BitVec.and_or_distrib_left]
  · intro h
    exact ⟨and_of_and_or hc hb h, and_of_and_or hc' hb.symm (by rwa [BitVec.or_comm m' m, BitVec.or_comm c' c])⟩

theorem and_mask_and_iff {w m m' c c' : IWord} {p : Prop} (h : c &&& m = c ∧ c' &&& m' = c' ∧ c &&& m' = c' &&& m) :
    (w &&& m = c ∧ w &&& m' = c' ∧ p) ↔ w &&& (m ||| m') = c ||| c' ∧ p := by
  rw [← and_assoc, and_mask_iff h]

/-- Where the bits of a field are fixed, the field is that of the fixed bits. -/
theorem fld_of_fixed {w m c : IWord} (h : w &&& m = c) {lo n : Nat} {x : BitVec n}
    (hx : fld m lo n = BitVec.allOnes n ∧ fld c lo n = x) : (fld w lo n = x) = True := by
  obtain ⟨hm, rfl⟩ := hx
  subst h
  have : fld (w &&& m) lo n = fld w lo n &&& fld m lo n := by ext; simp [fld]
  simp [this, hm]

/-- Where a fixed bit of a field differs, the field does. -/
theorem fld_ne_of_fixed {w m c : IWord} (h : w &&& m = c) {lo n : Nat} {x : BitVec n}
    (hx : fld c lo n ≠ x &&& fld m lo n) : (fld w lo n = x) = False := by
  subst h
  have : fld (w &&& m) lo n = fld w lo n &&& fld m lo n := by ext; simp [fld]
  exact eq_false fun e => hx (by rw [this, e])

/-- The decoder of one word asks for one major opcode after the other (R80). -/
theorem decodeOneRaw_eq (w : IWord) : decodeOneRaw w =
    if major w = 0x01 then decodeMajor01 w
    else if major w = 0x02 then decodeMajor02 w
    else if major w = 0x03 then decodeMajor03 w
    else if major w = 0x04 then decodeMajor04 w
    else if major w = 0x05 then decodeMajor05 w
    else if major w = 0x06 then decodeMajor06 w
    else if major w = 0x07 then decodeMajor07 w
    else if major w = 0x08 then decodeMajor08 w
    else if major w = 0x09 then decodeMajor09 w
    else if major w = 0x0A then decodeMajor0A w
    else if major w = 0x10 then decodeMajor10 w
    else if major w = 0x11 then decodeMajor11 w
    else if major w = 0x12 then decodeMajor12 w
    else if major w = 0x13 then decodeMajor13 w
    else if major w = 0x14 then decodeMajor14 w
    else if major w = 0x15 then decodeMajor15 w
    else if major w = 0x16 then decodeMajor16 w
    else if major w = 0x17 then decodeMajor17 w
    else if major w = 0x18 then decodeMajor18 w
    else if major w = 0x19 then decodeMajor19 w
    else if major w = 0x1A then decodeMajor1A w
    else if major w = 0x1B then decodeMajor1B w
    else if major w = 0x1C then decodeMajor1C w
    else if major w = 0x1D then decodeMajor1D w
    else if major w = 0x1E then decodeMajor1E w
    else if major w = 0x1F then decodeMajor1F w
    else if major w = 0x20 then decodeMajor20 w
    else if major w = 0x21 then decodeMajor21 w
    else if major w = 0x22 then decodeMajor22 w
    else if major w = 0x23 then decodeMajor23 w
    else if major w = 0x24 then decodeMajor24 w
    else if major w = 0x25 then decodeMajor25 w
    else if major w = 0x26 then decodeMajor26 w
    else if major w = 0x27 then decodeMajor27 w
    else if major w = 0x28 then decodeMajor28 w
    else if major w = 0x29 then decodeMajor29 w
    else if major w = 0x2A then decodeMajor2A w
    else if major w = 0x2B then decodeMajor2B w
    else if major w = 0x3E then decodeMajor3E w
    else none := by
  unfold decodeOneRaw
  split
  all_goals simp_all [← BitVec.toNat_inj]

/-- The decoder of pairs of words asks for one major opcode after the other (R95). -/
theorem decodePairRaw_eq (w1 w2 : IWord) : decodePairRaw w1 w2 =
    if major w1 = 0x01 then decodePair01 w1 w2
    else if major w1 = 0x02 then decodePair02 w1 w2
    else if major w1 = 0x03 then decodePair03 w1 w2
    else if major w1 = 0x04 then decodePair04 w1 w2
    else if major w1 = 0x05 then decodePair05 w1 w2
    else if major w1 = 0x10 then decodePair10 w1 w2
    else if major w1 = 0x11 then decodePair11 w1 w2
    else if major w1 = 0x12 then decodePair12 w1 w2
    else if major w1 = 0x13 then decodePair13 w1 w2
    else if major w1 = 0x14 then decodePair14 w1 w2
    else if major w1 = 0x15 then decodePair15 w1 w2
    else if major w1 = 0x3E then decodePair3E w1 w2
    else none := by
  unfold decodePairRaw
  split
  all_goals simp_all [← BitVec.toNat_inj]

/-- A packed word decodes as its fixed bits and its fields say. -/
theorem decodeOneRaw_packed {i : Instr} {c : Nat} {fs : List (Nat × Nat)} {ts : List Field}
    {w : IWord} (h : encode i = [w]) (e : encode i = [packWord c fs]) (k : BitVec.ofNat 2 c = 0)
    (hk : (fs.map Prod.snd).all (2 ≤ ·) = true) (ht : Widths fs ts) (ha : fitsBeside 0xFF c ts = true)
    (hd : ∀ w, major w = BitVec.ofNat 6 (c / 4) → Packed c ts w → decodeOneRaw w = some i) :
    wordKind w = 0 ∧ decodeOneRaw w = some i := by
  obtain rfl : packWord c fs = w := List.singleton_inj.1 (e.symm.trans h)
  exact ⟨(Laws.kind_packWord c fs hk).trans k, hd _ (major_packWord ht ha) (packWord_packed ht ha)⟩

/-- A packed pair of words decodes as its fixed bits and its fields say. -/
theorem decodePairRaw_packed {i : Instr} {c1 c2 : Nat} {fs1 fs2 : List (Nat × Nat)} {ts1 ts2 : List Field}
    {w1 w2 : IWord} (h : encode i = [w1, w2]) (e : encode i = [packWord c1 fs1, packWord c2 fs2])
    (k1 : BitVec.ofNat 2 c1 = 1) (k2 : BitVec.ofNat 2 c2 = 3)
    (hk1 : (fs1.map Prod.snd).all (2 ≤ ·) = true) (hk2 : (fs2.map Prod.snd).all (2 ≤ ·) = true)
    (ht1 : Widths fs1 ts1) (ht2 : Widths fs2 ts2) (ha1 : fitsBeside 0xFF c1 ts1 = true) (ha2 : fitsBeside 3 c2 ts2 = true)
    (hd : ∀ w1 w2, major w1 = BitVec.ofNat 6 (c1 / 4) → Packed c1 ts1 w1 → Packed c2 ts2 w2 →
      decodePairRaw w1 w2 = some i) :
    wordKind w1 = 1 ∧ wordKind w2 = 3 ∧ decodePairRaw w1 w2 = some i := by
  obtain ⟨rfl, rfl⟩ : packWord c1 fs1 = w1 ∧ packWord c2 fs2 = w2 := by simpa using e.symm.trans h
  exact ⟨(Laws.kind_packWord c1 fs1 hk1).trans k1, (Laws.kind_packWord c2 fs2 hk2).trans k2,
    hd _ _ (major_packWord ht1 ha1) (packWord_packed ht1 ha1) (packWord_packed ht2 ha2)⟩

/-- A number is its high part and its low part (R96). -/
theorem append_high_low {m n : Nat} (x : BitVec (m + n)) :
    BitVec.ofNat m (x.toNat / 2 ^ n) ++ BitVec.ofNat n (x.toNat % 2 ^ n) = x := by
  apply BitVec.eq_of_toNat_eq
  have hx : x.toNat < 2 ^ n * 2 ^ m := lt_of_lt_of_eq x.isLt (by rw [Nat.pow_add, Nat.mul_comm])
  rw [BitVec.toNat_append, BitVec.toNat_ofNat, BitVec.toNat_ofNat, Nat.mod_mod,
    Nat.mod_eq_of_lt (Nat.div_lt_of_lt_mul hx), ← Nat.shiftLeft_add_eq_or_of_lt (Nat.mod_lt _ (by positivity)),
    Nat.shiftLeft_eq, Nat.mul_comm, Nat.div_add_mod]

/-- An instruction of one word is of kind 00 and decodes from its word. Only a hint could be taken for another, a named one. -/
theorem decodeOneRaw_encode {i : Instr} (hwf : i.wf = true) {w : IWord} (h : encode i = [w]) :
    wordKind w = 0 ∧ decodeOneRaw w = some i := by
  have words : (encode i).length = 1 := by rw [h]; rfl
  cases i with
  | illegalInstruction _ _ | asyncTrapEntry | wdogExpiry | vlenWrite | vtypeWrite | fflagsWrite | portenWrite | vbackWrite
  | vqctlDrop | detBackingWrite | lqbaseWrite | lqdoor | reloadRcb | killRcb | attest | xgrant | vfirq | createPart
  | destroyPart | preset | bhreset | bhpower | winopen | winclose | s2inv | setrcb | monupd | poladd | poldel | withdrawCore
  | returnCore | removeCore | dispatchSelection | launchRecordTake | launchStart | fenceRecord | strandSwitchOut | strandResume
  | forcedSave | poolExhausted | periodBoundary | parkedWordMoveIn | barrierTimeout | matrixJob | teCopy | teGather | teMcast
  | tePut | tePutadd | teFeedin | teFeedout | feedVectorMove | inboundPut | seSort | rbeRaster | rbeOpen | rbeClose | rbeCancel
  | rbeSeqreset | fragmentBatch | batchCommit | gapTimeout | txuSample | rtBind | rtUnbind | rtDrop | rtTrace | rtReply
  | rayBatchRelease | collectionOpen | collectionClose | rouDeposit | rouBatchRelease | hostIpaAccess | pfHypAccess | pfdoor
  | vfdoor | vfsup | linkLoss | deviceReset | railPllFault | bulkheadUncorrectableError | dispatcherWatchdog
  | bulkheadResetComplete | powerOnComplete | scrubComplete | serviceCoreError | illegalEntry | fetchFault | boundedStreamLimit =>
    exact absurd (show 0 = 1 from words) (by decide)
  | limm _ _ | lbL _ _ _ | lhL _ _ _ | lwL _ _ _ | ldL _ _ _ | lbuL _ _ _ | lhuL _ _ _ | lwuL _ _ _ | ldsyncL _ _ _ | sbL _ _ _
  | shL _ _ _ | swL _ _ _ | sdL _ _ _ | fclrL _ _ | jalL _ _ | fma _ _ _ _ _ _ | fms _ _ _ _ _ _ | fnma _ _ _ _ _ _
  | fnms _ _ _ _ _ _ | vfma _ _ _ _ _ _ | vfms _ _ _ _ _ _ | vfnma _ _ _ _ _ _ | vfnms _ _ _ _ _ _ | vmopO _ _ _ _ _
  | vmopR _ _ _ _ _ | vmzero _ | vmrd _ | vldx _ _ _ _ _ | vstx _ _ _ _ _ | vstxo _ _ _ _ _ | vamoSwap _ _ _ _ _ _ _ _ _
  | vamoAdd _ _ _ _ _ _ _ _ _ | vamoAnd _ _ _ _ _ _ _ _ _ | vamoOr _ _ _ _ _ _ _ _ _ | vamoXor _ _ _ _ _ _ _ _ _
  | vamoMin _ _ _ _ _ _ _ _ _ | vamoMax _ _ _ _ _ _ _ _ _ | vamoMinu _ _ _ _ _ _ _ _ _ | vamoMaxu _ _ _ _ _ _ _ _ _
  | vamoFadd _ _ _ _ _ _ _ _ _ | vplane _ _ _ _ | vcvt _ _ _ _ _ | vredmax _ _ _ | vredmin _ _ _ | vins _ _ _ | vbcast _ _
  | viota _ | vcompress _ _ _ | mpopc _ _ | mfirst _ _ | vclz _ _ | vpopc _ _ | postv _ _ _ _ _ | vpopNw _ _ _ _ _
  | vpushNw _ _ _ _ _ | twoWordHint _ _ =>
    exact absurd (show 2 = 1 from words) (by decide)
  | tret | idle | endStrand | yield | brk | tlbia | ion | ioff | melse | mend =>
    obtain rfl := List.singleton_inj.1 h
    exact ⟨rfl, rfl⟩
  | hint a code =>
    refine decodeOneRaw_packed h rfl rfl rfl (.bits _ <| .bits _ .nil) rfl fun w op p => ?_
    obtain ⟨-, fields⟩ := p
    have unnamed : ∀ x : BitVec 19, x.toNat < 4 → code ≠ x := by
      rintro _ hx rfl
      exact absurd hx (not_lt.2 (of_decide_eq_true hwf))
    simp only [List.forall_mem_cons, List.not_mem_nil, false_imp_iff, implies_true, and_true, BitVec.ofNat_toNat,
      BitVec.setWidth_eq] at fields
    obtain ⟨reg, number⟩ := fields
    simp [decodeOneRaw_eq, op, decodeMajor3E, reg, number, unnamed]
  | _ =>
    refine decodeOneRaw_packed h rfl rfl rfl (by (repeat' apply Widths.bits) <;> exact .nil) rfl fun w op p => ?_
    obtain ⟨fixed, fields⟩ := p
    simp only [Nat.reduceDiv, BitVec.reduceOfNat] at op
    simp only [spans_nil, spans_cons, span, BitVec.reduceAllOnes, BitVec.reduceSetWidth, BitVec.reduceHShiftLeft,
      BitVec.reduceOr, BitVec.reduceNot] at fixed
    simp only [List.forall_mem_cons, List.not_mem_nil, false_imp_iff, implies_true, and_true, BitVec.ofNat_toNat,
      BitVec.setWidth_eq] at fields
    simp (disch := decide) only [decodeOneRaw_eq, op, BitVec.reduceEq, fld_of_fixed fixed, fld_ne_of_fixed fixed, fields,
      ↓reduceIte, and_false, false_and, and_true,
      decodeMajor01, decodeMajor02, decodeMajor03, decodeMajor04, decodeMajor05, decodeMajor06, decodeMajor07, decodeMajor08,
      decodeMajor09, decodeMajor0A, decodeMajor10, decodeMajor11, decodeMajor12, decodeMajor13, decodeMajor14, decodeMajor15,
      decodeMajor16, decodeMajor17, decodeMajor18, decodeMajor19, decodeMajor1A, decodeMajor1B, decodeMajor1C, decodeMajor1D,
      decodeMajor1E, decodeMajor1F, decodeMajor20, decodeMajor21, decodeMajor22, decodeMajor23, decodeMajor24, decodeMajor25,
      decodeMajor26, decodeMajor27, decodeMajor28, decodeMajor29, decodeMajor2A, decodeMajor2B, decodeMajor3E]

/-- An instruction of two words is of kinds 01 and 11 and decodes from its words. -/
theorem decodePairRaw_encode {i : Instr} {w1 w2 : IWord} (h : encode i = [w1, w2]) :
    wordKind w1 = 1 ∧ wordKind w2 = 3 ∧ decodePairRaw w1 w2 = some i := by
  have words : (encode i).length = 2 := by rw [h]; rfl
  cases i with
  | illegalInstruction _ _ | asyncTrapEntry | wdogExpiry | vlenWrite | vtypeWrite | fflagsWrite | portenWrite | vbackWrite
  | vqctlDrop | detBackingWrite | lqbaseWrite | lqdoor | reloadRcb | killRcb | attest | xgrant | vfirq | createPart
  | destroyPart | preset | bhreset | bhpower | winopen | winclose | s2inv | setrcb | monupd | poladd | poldel | withdrawCore
  | returnCore | removeCore | dispatchSelection | launchRecordTake | launchStart | fenceRecord | strandSwitchOut | strandResume
  | forcedSave | poolExhausted | periodBoundary | parkedWordMoveIn | barrierTimeout | matrixJob | teCopy | teGather | teMcast
  | tePut | tePutadd | teFeedin | teFeedout | feedVectorMove | inboundPut | seSort | rbeRaster | rbeOpen | rbeClose | rbeCancel
  | rbeSeqreset | fragmentBatch | batchCommit | gapTimeout | txuSample | rtBind | rtUnbind | rtDrop | rtTrace | rtReply
  | rayBatchRelease | collectionOpen | collectionClose | rouDeposit | rouBatchRelease | hostIpaAccess | pfHypAccess | pfdoor
  | vfdoor | vfsup | linkLoss | deviceReset | railPllFault | bulkheadUncorrectableError | dispatcherWatchdog
  | bulkheadResetComplete | powerOnComplete | scrubComplete | serviceCoreError | illegalEntry | fetchFault | boundedStreamLimit =>
    exact absurd (show 0 = 2 from words) (by decide)
  | limm _ _ | lbL _ _ _ | lhL _ _ _ | lwL _ _ _ | ldL _ _ _ | lbuL _ _ _ | lhuL _ _ _ | lwuL _ _ _ | ldsyncL _ _ _ | sbL _ _ _
  | shL _ _ _ | swL _ _ _ | sdL _ _ _ | fclrL _ _ | jalL _ _ | fma _ _ _ _ _ _ | fms _ _ _ _ _ _ | fnma _ _ _ _ _ _
  | fnms _ _ _ _ _ _ | vfma _ _ _ _ _ _ | vfms _ _ _ _ _ _ | vfnma _ _ _ _ _ _ | vfnms _ _ _ _ _ _ | vmopO _ _ _ _ _
  | vmopR _ _ _ _ _ | vmzero _ | vmrd _ | vldx _ _ _ _ _ | vstx _ _ _ _ _ | vstxo _ _ _ _ _ | vamoSwap _ _ _ _ _ _ _ _ _
  | vamoAdd _ _ _ _ _ _ _ _ _ | vamoAnd _ _ _ _ _ _ _ _ _ | vamoOr _ _ _ _ _ _ _ _ _ | vamoXor _ _ _ _ _ _ _ _ _
  | vamoMin _ _ _ _ _ _ _ _ _ | vamoMax _ _ _ _ _ _ _ _ _ | vamoMinu _ _ _ _ _ _ _ _ _ | vamoMaxu _ _ _ _ _ _ _ _ _
  | vamoFadd _ _ _ _ _ _ _ _ _ | vplane _ _ _ _ | vcvt _ _ _ _ _ | vredmax _ _ _ | vredmin _ _ _ | vins _ _ _ | vbcast _ _
  | viota _ | vcompress _ _ _ | mpopc _ _ | mfirst _ _ | vclz _ _ | vpopc _ _ | postv _ _ _ _ _ | vpopNw _ _ _ _ _
  | vpushNw _ _ _ _ _ | twoWordHint _ _ =>
    refine decodePairRaw_packed h rfl rfl rfl rfl rfl
      (by (repeat' first | apply Widths.bits | apply Widths.low) <;> exact .nil)
      (by (repeat' first | apply Widths.bits | apply Widths.high (m := 30) (BitVec.isLt _)) <;> exact .nil)
      rfl rfl fun w1 w2 op p1 p2 => ?_
    obtain ⟨fixed1, fields1⟩ := p1
    obtain ⟨fixed2, fields2⟩ := p2
    simp only [Nat.reduceDiv, BitVec.reduceOfNat] at op
    simp only [spans_nil, spans_cons, span, BitVec.reduceAllOnes, BitVec.reduceSetWidth, BitVec.reduceHShiftLeft,
      BitVec.reduceOr, BitVec.reduceNot] at fixed1 fixed2
    simp only [List.forall_mem_cons, List.not_mem_nil, false_imp_iff, implies_true, and_true, BitVec.ofNat_toNat,
      BitVec.setWidth_eq] at fields1 fields2
    simp (disch := decide) only [decodePairRaw_eq, op, BitVec.reduceEq, fld_of_fixed fixed1, fld_ne_of_fixed fixed1,
      fields1, fld_of_fixed fixed2, fld_ne_of_fixed fixed2, fields2, ↓reduceIte, and_false, false_and, and_true, true_and,
      append_high_low (m := 30) (n := 11), append_high_low (m := 30) (n := 19),
      decodePair01, decodePair02, decodePair03, decodePair04, decodePair05, decodePair10, decodePair11, decodePair12,
      decodePair13, decodePair14, decodePair15, decodePair3E]
  | _ => exact absurd (show 1 = 2 from words) (by decide)

/-- Where `p` holds, an instruction that is decoded here has an encoding, and its words are these. -/
def EncodesIf (p : Prop) (ws : List IWord) (o : Option Instr) : Prop :=
  p → ∀ i, o = some i → i.encodable = true ∧ encode i = ws

theorem EncodesIf.none (p : Prop) (ws : List IWord) : EncodesIf p ws none := fun _ => nofun

/-- The condition of a row of the decoder holds where the row is taken. -/
theorem EncodesIf.ite {p c : Prop} [Decidable c] {ws : List IWord} {a b : Option Instr} (ha : EncodesIf (p ∧ c) ws a)
    (hb : EncodesIf p ws b) : EncodesIf p ws (if c then a else b) := by
  split
  next h => exact fun hp => ha ⟨hp, h⟩
  next => exact hb

/-- A row of the decoder that fixes the bits that the encoding fixes gives back the word. -/
theorem EncodesIf.one {p : Prop} {w : IWord} {i : Instr} {c : Nat} {fs : List (Nat × Nat)} {ts : List Field}
    (he : i.encodable = true) (e : encode i = [packWord c fs]) (ht : Widths fs ts) (ha : fitsBeside 0 c ts = true)
    (fields : ∀ t ∈ ts, fld w t.lo t.width = BitVec.ofNat t.width t.value)
    (fixed : p → w &&& ~~~spans ts = BitVec.ofNat 32 c) :
    EncodesIf p [w] (some i) := by
  intro hp j hj
  obtain rfl := Option.some.inj hj
  exact ⟨he, by rw [e, (packWord_packed ht ha).unique ⟨fixed hp, fields⟩]⟩

/-- A row of the decoder of pairs, in the same way. -/
theorem EncodesIf.two {p : Prop} {w1 w2 : IWord} {i : Instr} {c1 c2 : Nat} {fs1 fs2 : List (Nat × Nat)}
    {ts1 ts2 : List Field} (kind : wordKind w2 = 3)
    (he : i.encodable = true) (e : encode i = [packWord c1 fs1, packWord c2 fs2]) (ht1 : Widths fs1 ts1) (ht2 : Widths fs2 ts2)
    (ha1 : fitsBeside 0 c1 ts1 = true) (ha2 : fitsBeside 0 c2 ts2 = true)
    (fields1 : ∀ t ∈ ts1, fld w1 t.lo t.width = BitVec.ofNat t.width t.value)
    (fields2 : ∀ t ∈ ts2, fld w2 t.lo t.width = BitVec.ofNat t.width t.value)
    (fixed : p ∧ wordKind w2 = 3 → w1 &&& ~~~spans ts1 = BitVec.ofNat 32 c1 ∧ w2 &&& ~~~spans ts2 = BitVec.ofNat 32 c2) :
    EncodesIf p [w1, w2] (some i) := by
  intro hp j hj
  obtain rfl := Option.some.inj hj
  obtain ⟨fixed1, fixed2⟩ := fixed ⟨hp, kind⟩
  exact ⟨he, by rw [e, (packWord_packed ht1 ha1).unique ⟨fixed1, fields1⟩,
    (packWord_packed ht2 ha2).unique ⟨fixed2, fields2⟩]⟩

/-- Every row of the decoder of one word asks for just the bits that its encoding fixes: its conditions, the kind and the major
opcode together are one mask. -/
theorem encodes_decodeOneRaw (w : IWord) : EncodesIf (wordKind w = 0) [w] (decodeOneRaw w) := by
  rw [decodeOneRaw_eq]
  repeat' apply EncodesIf.ite
  all_goals first
    | exact .none _ _
    | refine .one rfl rfl (by (repeat' apply Widths.bits) <;> exact .nil) rfl (by simp) fun fixed => ?_
      simp (disch := decide) only [wordKind, major, fld_eq_iff_mask, and_mask_iff, span, BitVec.reduceAllOnes,
        BitVec.reduceSetWidth, BitVec.reduceHShiftLeft, BitVec.reduceOr] at fixed
      simp only [spans_nil, spans_cons, span, BitVec.reduceAllOnes, BitVec.reduceSetWidth, BitVec.reduceHShiftLeft,
        BitVec.reduceOr, BitVec.reduceNot]
      exact fixed

theorem toNat_append_eq {m n : Nat} (x : BitVec m) (y : BitVec n) : (x ++ y).toNat = 2 ^ n * x.toNat + y.toNat := by
  rw [BitVec.toNat_append, ← Nat.shiftLeft_add_eq_or_of_lt y.isLt, Nat.shiftLeft_eq, Nat.mul_comm]

/-- The high and the low part of a number of two parts. -/
theorem high_append {m n : Nat} (x : BitVec m) (y : BitVec n) : BitVec.ofNat m ((x ++ y).toNat / 2 ^ n) = x := by
  rw [toNat_append_eq, Nat.mul_add_div (by positivity), Nat.div_eq_of_lt y.isLt, Nat.add_zero, BitVec.ofNat_toNat,
    BitVec.setWidth_eq]

theorem low_append {m n : Nat} (x : BitVec m) (y : BitVec n) : BitVec.ofNat n ((x ++ y).toNat % 2 ^ n) = y := by
  rw [toNat_append_eq, Nat.mul_add_mod, Nat.mod_eq_of_lt y.isLt, BitVec.ofNat_toNat, BitVec.setWidth_eq]

/-- Every row of the decoder of pairs asks for just the bits that its encoding fixes in either word. -/
theorem encodes_decodePairRaw {w1 w2 : IWord} (kind : wordKind w2 = 3) :
    EncodesIf (wordKind w1 = 1) [w1, w2] (decodePairRaw w1 w2) := by
  rw [decodePairRaw_eq]
  repeat' apply EncodesIf.ite
  all_goals first
    | exact .none _ _
    | refine .two kind rfl rfl (by (repeat' first | apply Widths.bits | apply Widths.low) <;> exact .nil)
        (by (repeat' first | apply Widths.bits | apply Widths.high (m := 30) (BitVec.isLt _)) <;> exact .nil)
        rfl rfl (by simp only [List.forall_mem_cons, List.not_mem_nil, false_imp_iff, implies_true, and_self, BitVec.ofNat_toNat,
          BitVec.setWidth_eq, low_append (m := 30) (n := 11), low_append (m := 30) (n := 19)])
        (by simp only [List.forall_mem_cons, List.not_mem_nil, false_imp_iff, implies_true, and_self, BitVec.ofNat_toNat,
          BitVec.setWidth_eq, high_append (m := 30) (n := 11), high_append (m := 30) (n := 19)]) fun fixed => ?_
      simp (disch := decide) only [wordKind, major, fld_eq_iff_mask, and_assoc, and_mask_iff, and_mask_and_iff, span,
        BitVec.reduceAllOnes, BitVec.reduceSetWidth, BitVec.reduceHShiftLeft, BitVec.reduceOr] at fixed
      simp only [spans_nil, spans_cons, span, BitVec.reduceAllOnes, BitVec.reduceSetWidth, BitVec.reduceHShiftLeft,
        BitVec.reduceOr, BitVec.reduceNot]
      exact fixed

/-- An instruction with an encoding is one word or two. -/
theorem encode_words {i : Instr} (he : i.encodable = true) : (∃ w, encode i = [w]) ∨ ∃ w1 w2, encode i = [w1, w2] := by
  cases i <;> first | exact .inl ⟨_, rfl⟩ | exact .inr ⟨_, _, rfl⟩ | exact absurd he Bool.false_ne_true

theorem takeWord_bytes (w : IWord) (rest : List Byte) : takeWord (bytesOfNat 4 w.toNat ++ rest) = some (w, rest) := by
  have hw : wordOfBytes (BitVec.ofNat 8 w.toNat) (BitVec.ofNat 8 (w.toNat / 256)) (BitVec.ofNat 8 (w.toNat / 256 / 256))
      (BitVec.ofNat 8 (w.toNat / 256 / 256 / 256)) = w := by
    apply BitVec.eq_of_toNat_eq
    simp only [wordOfBytes, BitVec.toNat_ofNat]
    omega
  simp only [bytesOfNat, List.cons_append, List.nil_append, takeWord, hw]

/-- A word that was taken from bytes gives those bytes. -/
theorem bytes_of_takeWord {bs r : List Byte} {w : IWord} (h : takeWord bs = some (w, r)) : bytesOfNat 4 w.toNat ++ r = bs := by
  unfold takeWord at h
  split at h
  next b0 b1 b2 b3 rest =>
    obtain ⟨rfl, rfl⟩ := Prod.mk.inj (Option.some.inj h)
    simp only [bytesOfNat, List.cons_append, List.nil_append, List.cons.injEq, and_true]
    have := b0.isLt; have := b1.isLt; have := b2.isLt; have := b3.isLt
    refine ⟨?_, ?_, ?_, ?_⟩ <;> apply BitVec.eq_of_toNat_eq <;> simp only [wordOfBytes, BitVec.toNat_ofNat] <;> omega
  next => exact nomatch h

theorem keepWf_eq_some {o : Option Instr} {i : Instr} : keepWf o = some i ↔ o = some i ∧ i.wf = true := by
  cases o with
  | none => exact ⟨nofun, fun h => nomatch h.1⟩
  | some j =>
    simp only [keepWf, Option.some.injEq]
    constructor
    · intro h
      split at h
      next hj => exact ⟨Option.some.inj h, Option.some.inj h ▸ hj⟩
      next => exact nomatch h
    · rintro ⟨rfl, hj⟩
      rw [if_pos hj]

section decoding

variable {w w2 : IWord} {rest : List Byte}

theorem decode_kind0 (k : wordKind w = 0) {i : Instr} (h : decodeOne w = some i) :
    decode (bytesOfNat 4 w.toNat ++ rest) = .ok (i, rest) := by
  simp [decode, takeWord_bytes, k, h]

theorem decode_kind1 (k : wordKind w = 1) (k2 : wordKind w2 = 3) {i : Instr} (h : decodePair w w2 = some i) :
    decode (bytesOfNat 4 w.toNat ++ (bytesOfNat 4 w2.toNat ++ rest)) = .ok (i, rest) := by
  simp [decode, takeWord_bytes, k, k2, h]

theorem decode_no_second (k : wordKind w = 1) (k2 : wordKind w2 ≠ 3) :
    decode (bytesOfNat 4 w.toNat ++ (bytesOfNat 4 w2.toNat ++ rest)) = .error .noSecond := by
  simp only [decode, takeWord_bytes, k, k2, if_false]
  rfl

theorem decode_kind2 (k : wordKind w = 2) : decode (bytesOfNat 4 w.toNat ++ rest) = .error .kindReserved := by
  simp [decode, takeWord_bytes, k]

theorem decode_kind3 (k : wordKind w = 3) : decode (bytesOfNat 4 w.toNat ++ rest) = .error .secondWord := by
  simp [decode, takeWord_bytes, k]

end decoding

/-- Bytes that decode are a word of kind 00, or words of kinds 01 and 11, and what is left. -/
theorem decode_ok {bs rest : List Byte} {i : Instr} (h : decode bs = .ok (i, rest)) :
    (∃ w, takeWord bs = some (w, rest) ∧ wordKind w = 0 ∧ decodeOne w = some i) ∨
    ∃ w1 w2 r, takeWord bs = some (w1, r) ∧ takeWord r = some (w2, rest) ∧ wordKind w1 = 1 ∧ wordKind w2 = 3 ∧
      decodePair w1 w2 = some i := by
  unfold decode at h
  split at h
  next => exact nomatch h
  next w1 r1 hw =>
    split at h
    next k =>
      split at h
      next j hj =>
        obtain ⟨rfl, rfl⟩ := Prod.mk.inj (Except.ok.inj h)
        exact .inl ⟨w1, hw, BitVec.eq_of_toNat_eq k, hj⟩
      next => exact nomatch h
    next k =>
      split at h
      next => exact nomatch h
      next w2 r2 hw2 =>
        split at h
        next k2 =>
          split at h
          next j hj =>
            obtain ⟨rfl, rfl⟩ := Prod.mk.inj (Except.ok.inj h)
            exact .inr ⟨w1, w2, r1, hw, hw2, BitVec.eq_of_toNat_eq k, k2, hj⟩
          next => exact nomatch h
        next => exact nomatch h
    next => exact nomatch h
    next => exact nomatch h

/-- Settles O54: an instruction is one word or two, of the kinds of R73, and its words decode to it. -/
theorem roundTrip : Obligations.RoundTrip := by
  intro i rest he hwf
  rcases encode_words he with ⟨w, h⟩ | ⟨w1, w2, h⟩
  · obtain ⟨k, raw⟩ := decodeOneRaw_encode hwf h
    rw [encodeBytes, h, List.flatMap_cons, List.flatMap_nil, List.append_nil]
    exact decode_kind0 k (keepWf_eq_some.2 ⟨raw, hwf⟩)
  · obtain ⟨k1, k2, raw⟩ := decodePairRaw_encode h
    rw [encodeBytes, h, List.flatMap_cons, List.flatMap_cons, List.flatMap_nil, List.append_nil, List.append_assoc]
    exact decode_kind1 k1 k2 (keepWf_eq_some.2 ⟨raw, hwf⟩)

/-- Settles O55: every row of the decoder fixes the bits that the encoding fixes, so that the encoding gives back the word. -/
theorem strictDecoding : Obligations.StrictDecoding := by
  refine ⟨fun bs rest i h => ?_, fun w w2 rest => ⟨decode_kind2, decode_kind3, decode_no_second⟩⟩
  rcases decode_ok h with ⟨w, hw, k, hi⟩ | ⟨w1, w2, r, hw1, hw2, k1, k2, hi⟩
  · obtain ⟨hi, hwf⟩ := keepWf_eq_some.1 hi
    obtain ⟨he, e⟩ := encodes_decodeOneRaw w k i hi
    exact ⟨hwf, he, by rw [encodeBytes, e, List.flatMap_cons, List.flatMap_nil, List.append_nil, bytes_of_takeWord hw]⟩
  · obtain ⟨hi, hwf⟩ := keepWf_eq_some.1 hi
    obtain ⟨he, e⟩ := encodes_decodePairRaw k2 k1 i hi
    refine ⟨hwf, he, ?_⟩
    rw [encodeBytes, e, List.flatMap_cons, List.flatMap_cons, List.flatMap_nil, List.append_nil, List.append_assoc,
      bytes_of_takeWord hw2, bytes_of_takeWord hw1]

end Sys2Proof.Machine

/-! The words of the spec's examples. -/

namespace Sys2Proof.Machine

/-- Settles O56: the decoder evaluated on each word. -/
theorem decodeWords : Obligations.DecodeWords := by
  unfold Obligations.DecodeWords
  decide +kernel

end Sys2Proof.Machine

/-! Branches, jumps and hints (R76, R94, R95, R211, R212). -/

namespace Sys2Proof.Machine

/-- Settles O6: the meaning of each of them is the length alone. -/
theorem hintsDoNothing : Obligations.HintsDoNothing := by
  intro s a code f1 f2 p hp
  simp only [hints, List.mem_cons, List.not_mem_nil, or_false] at hp
  rcases hp with rfl | rfl | rfl | rfl | rfl | rfl
  · exact scalar_ok rfl
  · exact scalar_ok rfl
  · exact scalar_ok rfl
  · exact scalar_ok rfl
  · exact scalar_ok rfl
  · exact scalar2_ok rfl

/-- A signed field shifted left by two is its fourfold value: the distance of a branch in words (R211). -/
theorem signExtend_shiftLeft_two {n : Nat} (o : BitVec n) : o.signExtend 64 <<< 2 = BitVec.ofInt 64 (4 * o.toInt) := by
  rw [BitVec.shiftLeft_eq_mul_twoPow, mul_comm, BitVec.ofInt_mul]
  rfl

/-- A branch goes its distance or to the next instruction, as its condition says (R211). -/
theorem branch_readable {s : State} {a b : SReg} (ha : s.me.readable a) (hb : s.me.readable b) (o : BitVec 14)
    (cond : Word → Word → Bool) :
    branch a b o cond s = .next { s with me := { s.me with
      pc := if cond (s.me.sreg a) (s.me.sreg b) then s.me.pc + BitVec.ofInt 64 (4 * o.toInt) else s.me.pc + 4 } } :=
  runInstr_ok (by simp [readS_plain ha, readS_plain hb, signExtend_shiftLeft_two])

/-- A branch whose condition is that of its row (R211). -/
theorem branch_iff {s : State} {a b : SReg} {o : BitVec 14} {cond : Word → Word → Bool} {P : Prop}
    (ha : s.me.readable a) (hb : s.me.readable b) (h : cond (s.me.sreg a) (s.me.sreg b) = true ↔ P) :
    (P → branch a b o cond s = .next { s with me := { s.me with pc := s.me.pc + BitVec.ofInt 64 (4 * o.toInt) } }) ∧
      (¬ P → branch a b o cond s = .next (s.skip 4)) := by
  rw [branch_readable ha hb]
  exact ⟨fun hp => by rw [if_pos (h.2 hp)], fun hn => by rw [if_neg fun hc => hn (h.1 hc)]; rfl⟩

/-- A jump relative to its own address writes its link and goes its distance (R212). -/
theorem jumpLink_writable {s : State} {d : SReg} {k : Nat} (hd : s.me.writable d) (n : Nat) (i : BitVec k) :
    jumpLink d n (i.signExtend 64) s = .next { s with me :=
      { s.me.setS d (s.me.pc + wd n) with pc := s.me.pc + BitVec.ofInt 64 (4 * i.toInt) } } :=
  runInstr_ok (by simp [writeS_plain hd, signExtend_shiftLeft_two])

/-- `jalr` to a multiple of 4 writes its link and goes there (R212). -/
theorem execJalr_aligned {s : State} {d a : SReg} {i : BitVec 14} (ha : s.me.readable a) (hd : s.me.writable d)
    (h : (s.me.sreg a + i.signExtend 64).toNat % 4 = 0) :
    execJalr d a i s =
      .next { s with me := { s.me.setS d (s.me.pc + 4) with pc := s.me.sreg a + i.signExtend 64 } } :=
  runInstr_ok (by simp only [run_bind, readS_plain ha, h, ne_eq, not_true_eq_false, if_false, run_me, writeS_plain hd, run_modMe])

/-- `jalr` to another address traps with it (R76, R212). -/
theorem execJalr_misaligned {s : State} {d a : SReg} {i : BitVec 14} (ha : s.me.readable a)
    (h : (s.me.sreg a + i.signExtend 64).toNat % 4 ≠ 0) :
    execJalr d a i s = .next (s.takeTrap ⟨8, s.me.sreg a + i.signExtend 64, .sup⟩ false false) :=
  runInstr_trap (s' := s) (by simp only [run_bind, readS_plain ha, h, ne_eq, not_false_eq_true, if_true, run_trapAt])

/-- Settles O5: each branch decides the condition of its row, and the jumps are those above. -/
theorem controlFlow : Obligations.ControlFlow := by
  refine ⟨?_, fun s d a i m o hd => ⟨jumpLink_writable hd 4 i, jumpLink_writable hd 8 m, fun ha => ⟨?_, ?_⟩⟩⟩
  · intro p hp s a b o ha hb
    simp only [branches, List.mem_cons, List.not_mem_nil, or_false] at hp
    rcases hp with rfl | rfl | rfl | rfl | rfl | rfl
    · exact branch_iff ha hb (by simp)
    · exact branch_iff ha hb (by simp)
    · exact branch_iff ha hb BitVec.slt_iff_toInt_lt
    · exact branch_iff ha hb BitVec.sle_iff_toInt_le
    · exact branch_iff ha hb BitVec.ult_iff_toNat_lt
    · exact branch_iff ha hb BitVec.ule_iff_toNat_le
  · exact execJalr_aligned ha hd
  · exact execJalr_misaligned ha

end Sys2Proof.Machine

/-! The fetch at a pc that is no multiple of 4 (R76, R158). -/

namespace Sys2Proof.Machine

/-- A strand at MON fetches out of service memory (R424). -/
theorem fetchWord_mon {s : State} {pl : Level} {pc : Word} (ho : s.me.owner = .mon) (hpc : pc.toNat < 2 ^ 27)
    (hrest : s.resting (svcAt pc.toNat) 4) :
    (fetchWord pl pc).run s = .ok (.word (s.fetched s.me.uid (svcAt pc.toNat))) s := by
  simp only [fetchWord, fetchFrom, run_bind, run_get, ho, if_pos hpc, run_pure, run_modify, State.touch_resting hrest]

/-- A strand at MON whose pc is 6, with zeros in the dword of its pc and a 1 in the first byte behind it. -/
def State.straddling : State :=
  let s := State.reset.withFetchWord 64 0
  { s with me := { s.me with pc := 6 }, mem := Mem.writeL [] (svcAt 8) [1] }

/-- Refutes O57: the premises of its third part do not say that the pc is a multiple of 4. From 6 the fetch takes four bytes out of the one
dword that it reads, and the memory holds a 1 in the third of those bytes, in the next dword. -/
theorem not_stepRunsDecoded : ¬ Obligations.StepRunsDecoded := by
  intro h
  obtain ⟨-, -, fetches, -⟩ := h State.straddling [] rfl rfl rfl (.inl rfl)
  have inside : State.straddling.me.pc.toNat < 2 ^ 27 := by decide
  have settled : State.straddling.settled (svcAt 6) 4 := fun _ hx => nomatch hx
  have resting : State.straddling.resting (svcAt 6) 4 := fun _ hc => nomatch hc
  have same := fetches rfl inside settled resting
  rw [fetchWord_mon (by rfl) inside (by exact resting)] at same
  exact absurd (Fetch.word.inj (EStateM.Result.ok.inj same).1) (by decide +kernel)

end Sys2Proof.Machine

/-! Reads of control registers (R85, R144-R146, R213, R297, R467). -/

namespace Sys2Proof.Machine

section checks

variable {s : State} {i : Instr} {c : Nat} {write : Bool} {r w : Level}

/-- An access that the level may make passes its checks (R145, R213, R423, R467). -/
theorem regCheck_ok (hc : regLevels c = some (r, w)) (hl : (if write then w else r).num ≤ s.me.pl.num)
    (hh : hypReg c = true → s.me.owner = .hyp) (hp : partReg c = true → s.me.owner.pid?.isSome = true) :
    (regCheck i c write).run s = .ok () s := by
  have part : (partReg c && s.me.owner.pid?.isNone) = false := by
    cases h : partReg c with
    | false => rfl
    | true => simpa using hp h
  have hyp : (hypReg c && s.me.owner != .hyp) = false := by
    cases h : hypReg c with
    | false => rfl
    | true => simp [hh h]
  simp only [regCheck, run_bind, run_me, hc, part, hyp, if_neg (Nat.not_lt.2 hl), Bool.false_eq_true, if_false, run_pure]

/-- A register that nothing defines is illegal (R85). -/
theorem regCheck_undefined (hc : regLevels c = none) :
    (regCheck i c write).run s = .error (.trap ⟨1, Instr.words i, .sup⟩ false) s := by
  simp only [regCheck, run_bind, run_me, hc, run_illegal]

/-- The registers of a partition are defined for SUP (R145). -/
theorem regLevels_of_partReg (hp : partReg c = true) : regLevels c = some (.sup, .sup) := by
  simp only [partReg, Bool.or_eq_true, Bool.and_eq_true, decide_eq_true_eq] at hp
  unfold regLevels
  rw [if_neg, if_neg, if_pos] <;>
    simp only [List.contains_cons, List.contains_nil, Bool.or_eq_true, Bool.and_eq_true, beq_iff_eq, decide_eq_true_eq,
      Bool.false_eq_true, or_false] <;> omega

/-- A strand without a partition has no register of one (R467). -/
theorem regCheck_no_part (hp : partReg c = true) (ho : s.me.owner.pid? = none) :
    (regCheck i c write).run s = .error (.trap ⟨1, Instr.words i, .sup⟩ false) s := by
  simp [regCheck, regLevels_of_partReg hp, hp, ho, run_illegal]

/-- An access that the level may not make traps (R85, R145). -/
theorem regCheck_level (hc : regLevels c = some (r, w)) (hl : s.me.pl.num < (if write then w else r).num)
    (hp : partReg c = true → s.me.owner.pid?.isSome = true) :
    (regCheck i c write).run s = .error (.trap ⟨4, Instr.words i, .sup⟩ false) s := by
  have part : (partReg c && s.me.owner.pid?.isNone) = false := by
    cases h : partReg c with
    | false => rfl
    | true => simpa using hp h
  simp only [regCheck, run_bind, run_me, hc, part, Bool.false_eq_true, if_false, if_pos hl, run_trapAt]

end checks

/-- An access that waits for the vector queue goes ahead where it is empty or held, and the strand has its vector state (R145, R165). -/
theorem queueWait_quiet {s : State} (h : s.queueQuiet) : queueWait.run s = .ok () s := by
  obtain ⟨hq, hv⟩ := h
  have ready : (s.me.vheld || s.me.vq.isEmpty) = true := by simpa using hq
  simp only [queueWait, takeVector, run_bind, run_me, run_waitFor, ready, if_true, run_get, hv, run_pure]

theorem queueWait_busy {s : State} (hh : s.me.vheld = false) (hq : s.me.vq ≠ []) : queueWait.run s = .error (.stall false) s := by
  simp [queueWait, run_waitFor, hh, hq]

/-- A read that goes ahead waits for nothing (R145, R297). -/
theorem getWait_now {s : State} {c : Nat} (h : s.readsNow c) : (getWait c).run s = .ok () s := by
  obtain ⟨hq, hl⟩ := h
  unfold getWait
  split
  next hc => exact queueWait_quiet (hq (by simpa [readWaits, or_assoc] using hc))
  next =>
    split
    next hc =>
      have ready : (s.me.vheld || !s.me.ldffQueued) = true := by simpa using hl (by simpa using hc)
      simp only [run_bind, run_me, run_waitFor, ready, if_true]
    next => rfl

theorem getWait_busy {s : State} {c : Nat} (hc : c ∈ readWaits) (hh : s.me.vheld = false) (hq : s.me.vq ≠ []) :
    (getWait c).run s = .error (.stall false) s := by
  unfold getWait
  rw [if_pos (by simpa [readWaits, or_assoc] using hc), queueWait_busy hh hq]

theorem getWait_vldff {s : State} {c : Nat} (hc : c = 0x010 ∨ c = 0x011) (hh : s.me.vheld = false)
    (hl : s.me.ldffQueued = true) : (getWait c).run s = .error (.stall false) s := by
  rcases hc with rfl | rfl <;> simp [getWait, run_waitFor, hh, hl]

theorem exec_getc (d : SReg) (c : BitVec 14) (s : State) : exec (.getc d c) s = execGetc d c s := rfl

/-- Reads that wait are those of registers that every level may read. -/
theorem regLevels_of_waits {c : Nat} (h : c ∈ readWaits ∨ c = 0x010 ∨ c = 0x011) :
    ∃ w, regLevels c = some (.app, w) ∧ hypReg c = false ∧ partReg c = false := by
  simp only [readWaits, List.mem_cons, List.not_mem_nil, or_false] at h
  rcases h with (rfl | rfl | rfl | rfl) | rfl | rfl <;> exact ⟨_, rfl, rfl, rfl⟩

/-- A read that its checks let pass and that waits leaves the state as it is (R145). -/
theorem getc_waits {s : State} {d : SReg} {c : BitVec 14} (hc : c.toNat ∈ readWaits ∨ c.toNat = 0x010 ∨ c.toNat = 0x011)
    (h : (getWait c.toNat).run s = .error (.stall false) s) : exec (.getc d c) s = .next s := by
  obtain ⟨w, levels, hyp, part⟩ := regLevels_of_waits hc
  have check : (regCheck (.getc d c) c.toNat false).run s = .ok () s :=
    regCheck_ok levels (Nat.zero_le _) (by simp [hyp]) (by simp [part])
  exact scalar_stall (s' := s) (by simp only [run_bind, check, h])

/-- A read that its checks refuse traps. -/
theorem getc_refused {s : State} {d : SReg} {c : BitVec 14} {t : Trap}
    (h : (regCheck (.getc d c) c.toNat false).run s = .error (.trap t false) s) :
    exec (.getc d c) s = .next (s.takeTrap t false false) :=
  scalar_trap (s' := s) (by simp only [run_bind, h])

theorem wd_word (x : Word) : wd x.toNat = x := BitVec.ofNat_toNat ..

theorem wd_toNat {n : Nat} (x : BitVec n) : wd x.toNat = x.setWidth 64 := BitVec.ofNat_toNat ..

theorem wd_partWord (s : State) (f : Part → Word) :
    wd (s.partWord f) = match s.myPart? with
      | some p => f p
      | none => 0 := by
  unfold State.partWord
  cases s.myPart? with
  | none => rfl
  | some p => exact wd_word _

/-- LCORE, with its fields as the table writes them (R144). -/
theorem wd_lcoreWord (s : State) :
    wd (s.me.lcoreWord s.myPart?) = match s.myPart? with
      | some p => wd (s.me.pos % p.w + (s.me.pos / p.w) * 2 ^ 16 + (p.w - 1) * 2 ^ 32 + (p.h - 1) * 2 ^ 48)
      | none => 0 := by
  cases s.myPart? with
  | none => rfl
  | some p =>
    dsimp only [Strand.lcoreWord]
    rw [Nat.shiftLeft_eq, Nat.shiftLeft_eq, Nat.shiftLeft_eq]

/-- IPEND (R146). -/
theorem wd_ipendWord (s : State) :
    wd s.ipendWord = wd ((match s.myPart? with
      | some p => (if p.pta then 1 else 0) + (if p.reqs = [] then 0 else 4)
      | none => 0) + (if s.me.wdgPend then 2 else 0)) := by
  unfold State.ipendWord
  cases s.myPart? with
  | none => rfl
  | some p => simp only [List.isEmpty_iff]

/-- What `getReg` gives at each number of the table, in its order (R144, R146). -/
theorem wd_getReg (s : State) : ∀ p ∈ ctlReads s, wd (s.getReg p.1) = p.2 := by
  have shifted (a b n : Nat) : wd (a + b <<< n) = wd (a + b * 2 ^ n) := by rw [Nat.shiftLeft_eq]
  have poison : wd s.me.poisonWord = wd (s.me.spoison.toNat + s.me.kpoison.toNat * 2 ^ 32 +
      (if s.me.vpoison = 0 then 0 else 2 ^ 40 + ctzN 64 s.me.vpoison.toNat * 2 ^ 48)) := by
    simp only [Strand.poisonWord, Nat.shiftLeft_eq]
  unfold ctlReads
  simp only [List.forall_mem_cons]
  and_intros
  exacts [rfl, shifted s.me.vl.toNat s.me.gvl.toNat 16, shifted s.me.vtag.toNat (vlmax s.me.vtag.toNat) 16, wd_toNat _, wd_word _, wd_toNat _, wd_toNat _, wd_lcoreWord s, wd_toNat _,
    wd_toNat _, wd_word _, wd_word _, wd_word _, wd_word _, wd_toNat _, wd_word _, wd_word _, wd_toNat _, wd_word _,
    wd_word _, wd_word _, wd_word _, wd_word _, wd_word _, wd_toNat _, wd_word _, rfl, wd_word _, wd_word _, wd_word _,
    wd_word _, wd_word _, wd_toNat _, wd_word _, wd_word _, wd_word _, wd_word _, wd_word _, wd_toNat _,
    wd_word _, wd_word _, wd_word _, wd_word _, poison, wd_ipendWord s, wd_partWord s _, wd_partWord s _, wd_partWord s _,
    wd_partWord s _, wd_partWord s _, wd_partWord s _, wd_partWord s _, rfl, shifted s.fwbase.toNat s.fwsize.toNat 16, wd_toNat _, nofun]

/-- Settles O23: the checks, the waits and the values of a read. -/
theorem controlReads : Obligations.ControlReads := by
  intro s d c hd
  refine ⟨fun r w hc hl hh hp hn => ?_, fun hc hh hq => getc_waits (.inl hc) (getWait_busy hc hh hq),
    fun hc hh hl => getc_waits (.inr hc) (getWait_vldff hc hh hl), fun p hp e => e ▸ wd_getReg s p hp,
    fun hp ho => getc_refused (regCheck_no_part hp ho), fun hc => getc_refused (regCheck_undefined hc),
    fun r w hc hl hp => getc_refused (regCheck_level hc hl hp)⟩
  have check : (regCheck (.getc d c) c.toNat false).run s = .ok () s := regCheck_ok hc hl hh hp
  exact scalar_retire (by simp only [run_bind, check, getWait_now hn, run_get, writeS_plain hd])

end Sys2Proof.Machine

/-! The issue of a vector instruction, and its entry that executes at once (R98, R153, R154, R237-R239, R314, R467; log 10). -/

namespace Sys2Proof.Machine

section checks

variable {s : State} {i : Instr} {g n : Nat} {sd : Option SReg} {op : M VOp}

/-- While the queue is held no vector instruction is issued (R154). -/
theorem vcheck_held (h : s.me.vheld = true) :
    (vcheck i g sd).run s = .error (.trap ⟨1, Instr.words i, .sup⟩ false) s := by
  simp only [vcheck, run_bind, run_me, h, if_true, run_illegal]

/-- The check of the scalar destination: a port is illegal (R314). -/
theorem vcheck_port {d : SReg} (h : s.me.vheld = false) (hp : s.me.isPort d = true) :
    (vcheck i g (some d)).run s = .error (.trap ⟨1, Instr.words i, .sup⟩ false) s := by
  simp only [vcheck, run_bind, run_me, h, Bool.false_eq_true, if_false, hp, if_true, run_illegal]

/-- Past those two checks stand those of the partition and of the group. -/
theorem vcheck_rest (h : s.me.vheld = false) (hp : ∀ d, sd = some d → s.me.isPort d = false) :
    (vcheck i g sd).run s = (do
      if g = 2 then
        let _ ← needPart i
      needGroup g i).run s := by
  cases sd with
  | none => simp only [vcheck, run_bind, run_me, h, Bool.false_eq_true, if_false]
  | some d => simp only [vcheck, run_bind, run_me, h, hp d rfl, Bool.false_eq_true, if_false]

theorem vcheck_no_part (h : s.me.vheld = false) (hp : ∀ d, sd = some d → s.me.isPort d = false) (hn : s.myPart? = none) :
    (vcheck i 2 sd).run s = .error (.trap ⟨1, Instr.words i, .sup⟩ false) s := by
  simp [vcheck_rest h hp, needPart, hn, run_illegal]

theorem vcheck_masked {p : Part} (h : s.me.vheld = false) (hp : ∀ d, sd = some d → s.me.isPort d = false)
    (hs : s.myPart? = some p) (hg : p.fmask.getLsbD g = true) :
    (vcheck i g sd).run s = .error (.trap ⟨3, Instr.words i, .hyp⟩ false) s := by
  rw [vcheck_rest h hp]
  by_cases h2 : g = 2
  · subst h2
    simp [needPart, needGroup, hs, hg]
  · simp [h2, needGroup, hs, hg]

theorem vcheck_ok (h : s.me.vheld = false) (h2 : g ≠ 2) (hg : s.allows g) : (vcheck i g none).run s = .ok () s := by
  rw [vcheck_rest h (by simp)]
  cases hs : s.myPart? with
  | none => simp [h2, needGroup, hs]
  | some p => simp [h2, needGroup, hs, hg p hs]

/-- A vector instruction that its checks refuse traps and does not enter the queue. -/
theorem vissue_refused {t : Trap} (h : (vcheck i g sd).run s = .error (.trap t false) s) :
    vissue i g n sd op s = .next (s.takeTrap t false false) :=
  runInstr_trap (s' := s) (by simp only [run_bind, h])

end checks

/-- The strand issues an instruction of a group whose entry executes at once: of `vecReady` what issue and the queue look at (log 10). -/
structure State.Issues (s : State) (group : Nat) : Prop where
  live : s.me.live = true
  placed : s.me.place.isSome = true
  eager : s.me.eager = true
  unheld : s.me.vheld = false
  calm : s.me.vtrap = none
  empty : s.me.vq = []
  owner : s.vown s.me = true
  allowed : s.allows group
  start : s.me.vstart = 0
  vpend : s.me.vpend = 0
  kpend : s.me.kpend = 0

theorem State.vecReady.issues {s : State} {g : Nat} {l : List Nat} (h : s.vecReady g l) : s.Issues g := by
  obtain ⟨live, placed, -, eager, unheld, calm, empty, owner, allowed, start, -, vpend, kpend, -⟩ := h
  exact ⟨live, placed, eager, unheld, calm, empty, owner, allowed, start, vpend, kpend⟩

theorem takeVector_owner {s : State} (h : s.vown s.me = true) : takeVector.run s = .ok () s := by
  simp only [takeVector, run_bind, run_get, h, if_true, run_pure]

/-- What becomes of the head of the queue, from how its entry ended (R153, R163, R239), of a strand that holds a slot. -/
def State.entryEnds (s : State) : VOut → State
  | .retire vl => { s with me := s.me.retire vl }
  | .stop vs => { s with me := { s.me with vstart := BitVec.ofNat 12 vs } }
  | .trap vs t => State.takeTrap { s with me := { s.me with vstart := BitVec.ofNat 12 vs } } t false true

section execution

variable {s : State} {i : Instr} {g n : Nat} {o : VOp}

theorem State.issued_vq (h : s.me.vq = []) : (s.issued i o n).me.vq = [s.me.entry i o] := by
  simp [State.issued, Strand.enqueue, h]

theorem openStrip_inStrip {s : State} {e : VEntry} (h : e.strip = s.me.strip) : (openStrip e).run s = .ok () s.inStrip := by
  unfold openStrip State.inStrip
  by_cases hr : s.me.running = s.me.strip
  · simp [h, hr]
  · simp [h, hr, Ne.symm hr]

/-- A queue that has the entry of an instruction alone executes it. -/
theorem runHead_issued {out : VOut} {v : State} (hs : s.Issues g)
    (h : (inSpace (s.me.entry i o) (attempt (runEntry (s.me.entry i o)))).run (s.issued i o n).inStrip = .ok out v) :
    runHead.run (s.issued i o n) = .ok () (v.entryEnds out) := by
  have head : (s.issued i o n).me.vq.head? = some (s.me.entry i o) := by rw [State.issued_vq hs.empty]; rfl
  have ready : (s.issued i o n).me.vready = true := by
    have live : (s.issued i o n).me.live = true := hs.live
    have held : (s.issued i o n).me.vheld = false := hs.unheld
    have trap : (s.issued i o n).me.vtrap = none := hs.calm
    simp [Strand.vready, live, held, trap, State.issued_vq hs.empty]
  have owner : (s.issued i o n).vown (s.issued i o n).me = true := hs.owner
  have pends : (s.issued i o n).me.pends (s.me.entry i o) = false := by
    have vpend : (s.issued i o n).me.vpend = 0 := hs.vpend
    have kpend : (s.issued i o n).me.kpend = 0 := hs.kpend
    simp [Strand.pends, vpend, kpend]
  have strip : (openStrip (s.me.entry i o)).run (s.issued i o n) = .ok () (s.issued i o n).inStrip := openStrip_inStrip rfl
  have eager : (s.issued i o n).me.eager = true := hs.eager
  have placed : (s.issued i o n).me.place.isSome = true := hs.placed
  have unplaced : (s.issued i o n).me.place.isNone = false := by simpa using placed
  simp only [runHead, run_bind, run_me, run_get, ready, takeVector_owner owner, owner, head, pends, strip, eager, Bool.not_true,
    Bool.false_eq_true, if_false, if_true, List.length_nil, freeBelow, Nat.le_refl, run_pure, h, Bool.not_false, placed, unplaced]
  cases out <;> simp [State.entryEnds]

/-- The vector unit that keeps up executes that entry and no other. -/
theorem keepUp_issued {u : State} (hs : s.Issues g) (h : runHead.run (s.issued i o n) = .ok () u) :
    keepUp.run (s.issued i o n) = .ok () u := by
  have eager : (s.issued i o n).me.eager = true := hs.eager
  have one : (s.issued i o n).me.vq.length = 1 := by rw [State.issued_vq hs.empty]; rfl
  have head : tryHead.run (s.issued i o n) = .ok () u := by
    simp only [EStateM.run] at h
    simp only [tryHead, EStateM.run, h]
  simp only [keepUp, run_bind, run_me, eager, if_true, one, drain, head]
  split <;> rfl

/-- An instruction without a scalar destination that its checks and waits let pass, and whose entry executes at once. -/
theorem vissue_executes {op : M VOp} {out : VOut} {v : State} (hs : s.Issues g) (h2 : g ≠ 2) (ho : op.run s = .ok o s)
    (h : (inSpace (s.me.entry i o) (attempt (runEntry (s.me.entry i o)))).run (s.issued i o n).inStrip = .ok out v) :
    vissue i g n none op s = .next (v.entryEnds out) := by
  have kept := keepUp_issued hs (runHead_issued hs h)
  have room : (decide (s.me.vq.length < 64) && !s.me.ldffQueued) = true := by simp [hs.empty, Strand.ldffQueued]
  refine runInstr_ok ?_
  simp only [run_bind, vcheck_ok hs.unheld h2 hs.allowed, vwaits, run_me, run_waitFor, room, if_true, run_pure,
    takeVector_owner hs.owner, ho, run_modMe, run_advance]
  exact kept

/-- An entry runs in the space that it was issued in, which it leaves as it is (R145). -/
theorem inSpace_run {e : VEntry} {m : M VOut} {p v : State} {out : VOut} (h : (attempt m).run p = .ok out v)
    (hp : e.asid = p.me.asid ∧ e.ptbase = p.me.ptbase ∧ e.level = p.me.pl)
    (hv : v.me.asid = p.me.asid ∧ v.me.ptbase = p.me.ptbase ∧ v.me.pl = p.me.pl) :
    (inSpace e (attempt m)).run p = .ok out v := by
  obtain ⟨ha, hb, hl⟩ := hp
  obtain ⟨va, vb, vl⟩ := hv
  simp only [inSpace, run_bind, run_me, run_modMe, ha, hb, hl, h, run_pure]
  simp only [← va, ← vb, ← vl]

/-- An entry that a check stops is a trap of the queue, and has done nothing (R153). -/
theorem attempt_trap {m : M VOut} {p p' : State} {t : Trap} (h : m.run p = .error (.trap t false) p') :
    (attempt m).run p = .ok (.trap p.me.vstart.toNat t) p := by
  simp only [EStateM.run] at h
  simp only [attempt, EStateM.run, h]

theorem attempt_ok {m : M VOut} {p v : State} {out : VOut} (h : m.run p = .ok out v) : (attempt m).run p = .ok out v := by
  simp only [EStateM.run] at h
  simp only [attempt, EStateM.run, h]

/-- What a strip that begins leaves of its strand (R130). -/
theorem State.inStrip_me (p : State) : p.inStrip.me = { p.me with
    running := p.me.strip, deps := if p.me.running = p.me.strip then p.me.deps else [] } := by
  unfold State.inStrip
  by_cases h : p.me.running = p.me.strip
  · rw [if_pos h, if_pos h, ← h]
  · rw [if_neg h, if_neg h]

theorem State.entryEnds_start (p : State) (t : Trap) : p.entryEnds (.trap p.me.vstart.toNat t) = p.takeTrap t false true := by
  rw [State.entryEnds, BitVec.ofNat_toNat, BitVec.setWidth_eq]

/-- An entry starts in the space that it was issued in (R145). -/
theorem started_space (s : State) (i : Instr) (o : VOp) (n : Nat) : (s.issued i o n).inStrip.me.asid = s.me.asid ∧
    (s.issued i o n).inStrip.me.ptbase = s.me.ptbase ∧ (s.issued i o n).inStrip.me.pl = s.me.pl := by
  rw [State.inStrip_me]
  exact ⟨rfl, rfl, rfl⟩

/-- An instruction whose entry comes to an end, in the space that it was issued in. -/
theorem vissue_ends {op : M VOp} {out : VOut} {v : State} (hs : s.Issues g) (h2 : g ≠ 2) (ho : op.run s = .ok o s)
    (h : (runEntry (s.me.entry i o)).run (s.issued i o n).inStrip = .ok out v)
    (hv : v.me.asid = s.me.asid ∧ v.me.ptbase = s.me.ptbase ∧ v.me.pl = s.me.pl) :
    vissue i g n none op s = .next (v.entryEnds out) := by
  obtain ⟨asid, ptbase, pl⟩ := started_space s i o n
  exact vissue_executes hs h2 ho (inSpace_run (attempt_ok h) ⟨asid.symm, ptbase.symm, pl.symm⟩ (by rwa [asid, ptbase, pl]))

/-- An instruction whose entry is stopped by a check before its first element: a trap of the queue, its entry still in it. -/
theorem vissue_traps {op : M VOp} {t : Trap} {p' : State} (hs : s.Issues g) (h2 : g ≠ 2) (ho : op.run s = .ok o s)
    (h : (runEntry (s.me.entry i o)).run (s.issued i o n).inStrip = .error (.trap t false) p') :
    vissue i g n none op s = .next ((s.issued i o n).inStrip.takeTrap t false true) := by
  obtain ⟨asid, ptbase, pl⟩ := started_space s i o n
  rw [vissue_executes hs h2 ho (inSpace_run (attempt_trap h) ⟨asid.symm, ptbase.symm, pl.symm⟩ ⟨rfl, rfl, rfl⟩),
    State.entryEnds_start]

end execution
theorem entry_words {t : Strand} {i : Instr} {o : VOp} {a b : IWord} (h : encode i = [a, b]) :
    (t.entry i o).words = Instr.words i := by
  simp only [VEntry.words, Strand.entry, Instr.words, h, List.headD_cons, List.drop_succ_cons, List.drop_zero]

theorem with1_readable {x : SReg} {f : Word → VOp} {s : State} (h : s.me.readable x) :
    (with1 x f).run s = .ok (f (s.me.sreg x)) s := by
  simp only [with1, run_bind, readS_plain h, run_pure]

section started

variable (s : State) (i : Instr) (o : VOp) (n : Nat)

theorem started_vtagOf (r : Nat) : (s.issued i o n).inStrip.me.vtagOf r = s.me.vtagOf r := by rw [State.inStrip_me]; rfl
theorem started_kreg (r : Nat) : (s.issued i o n).inStrip.me.kreg r = s.me.kreg r := by rw [State.inStrip_me]; rfl
theorem started_vpoison : (s.issued i o n).inStrip.me.vpoison = s.me.vpoison := by rw [State.inStrip_me]; rfl
theorem started_vstart : (s.issued i o n).inStrip.me.vstart = s.me.vstart := by rw [State.inStrip_me]; rfl
theorem started_active (k : MBits) (lo m : Nat) : (s.issued i o n).inStrip.me.active k lo m = s.me.active k lo m := by
  rw [State.inStrip_me]; rfl

end started

/-- The active elements from the first one on, by either definition (R240). -/
theorem Strand.active_zero (t : Strand) (k : MBits) (cap : Nat) : t.active k 0 (min t.vl.toNat cap) = t.actives k cap := by
  unfold Strand.active Strand.actives
  rw [List.drop_zero]
  refine List.filter_congr fun e he => ?_
  have below' : e < min t.vl.toNat cap := List.mem_range.1 he
  simp only [Strand.isActive, below', decide_true, Bool.true_and]

section entries

variable {s : State} {i : Instr} {o : VOp} {n : Nat}

/-- Is an element of an entry active, where VSTART is 0 (R143, R240)? -/
theorem entry_any (h : s.me.vstart = 0) (k : MBits) (cap : Nat) :
    (s.me.entry i o).any (s.issued i o n).inStrip.me k cap = !(s.me.actives k cap).isEmpty := by
  rw [VEntry.any, started_active, started_vstart, h, ← Strand.active_zero]
  rfl

/-- The elements of an access by unit stride (R288). -/
theorem entry_elts_unit (h : s.me.vstart = 0) (base : Word) (w : Nat) (k : KReg) :
    (s.me.entry i o).elts (s.issued i o n).inStrip.me .unit base w k = s.elements .unit base w k := by
  rw [VEntry.elts, started_active, started_kreg, started_vstart, h, State.elements, ← Strand.active_zero]
  rfl

end entries

end Sys2Proof.Machine

/-! A strand before the first element of an entry (R142, R143, R243, R246, R254). -/

namespace Sys2Proof.Machine

/-- A strand before the first element of an entry, with nothing to do there: of `vecReady` what the frame of entries looks at (R254). -/
structure State.Clean (s : State) (named : List Nat) : Prop where
  live : s.me.live = true
  vpoison : s.me.vpoison = 0
  kpoison : s.me.kpoison = 0
  tiles : s.me.tiles = []
  slots : ∀ r ∈ named, (s.me.vres r).inSlot = true

theorem State.vecReady.clean {s : State} {i : Instr} {o : VOp} {g n : Nat} {named : List Nat} (h : s.vecReady g named) :
    (s.issued i o n).inStrip.Clean named := by
  obtain ⟨live, -, -, -, -, -, -, -, -, -, -, -, -, vpoison, kpoison, tiles, slots⟩ := h
  constructor <;> rw [State.inStrip_me]
  exacts [live, vpoison, kpoison, tiles, slots]

section resident

variable {s : State}

theorem consume_clean {regs masks : List Nat} {keep : Bool} (hv : s.me.vpoison = 0) (hk : s.me.kpoison = 0) :
    (consume regs masks keep).run s = .ok () s := by
  have regs' : regs.find? (fun r => s.me.vpoison.getLsbD r) = none := by simp [hv]
  have masks' : masks.find? (fun k => k != 0 && s.me.kpoison.getLsbD k) = none := by simp [hk]
  simp only [consume, run_bind, run_me, regs', masks', run_pure]

/-- Registers that are resident already (R246). -/
theorem reside_resident {named : List Nat} (hl : s.me.live = true) (hr : ∀ r ∈ named, (s.me.vres r).inSlot = true) :
    (reside named).run s = .ok () s := by
  have loop := run_forIn_pure (s := s) (l := (below 64).filter fun r => named.contains r)
    (f := fun r (_ : PUnit) => do
      if !(← makeResident r named) then trapAt 0x0A (wd r)
      pure (.yield PUnit.unit)) (g := fun u _ => u)
    (fun r hr' u => by
      have slot := hr r (by simpa using (List.mem_filter.1 hr').2)
      simp [makeResident, slot]) PUnit.unit
  simp only [reside, run_bind, loop, run_me, hl, Bool.not_true, Bool.false_eq_true, if_false, run_pure]

theorem ready_resident {named srcs masks : List Nat} {act : Bool} (h : s.Clean named) :
    (ready named srcs masks act).run s = .ok () s := by
  have resident := reside_resident h.live h.slots
  cases act <;> simp [ready, resident, consume_clean h.vpoison h.kpoison]

theorem prepare_resident {named srcs masks : List Nat} {act : Bool} (h : s.Clean named) :
    (prepare named srcs masks act).run s = .ok () s := by
  simp only [prepare, run_bind, ready_resident h, run_me, run_mergeAll (.inr h.tiles), run_pure]

end resident

end Sys2Proof.Machine

/-! Traps of vector instructions at issue and in the queue (R98, R142, R153, R154, R159, R234, R242, R289, R298, R314, R467). -/

namespace Sys2Proof.Machine

/-- A row of the tables is issued as the operation of its entry says: of its group, with its scalar destination. -/
def Issued (w : Instr × VOp × Nat × Nat) : Prop :=
  ∃ op : M VOp, ∀ s, exec w.1 s = vissue w.1 w.2.2.2 w.2.2.1 w.2.1.sd op s

theorem issued_issuesArith (t : Strand) (d a b c : VReg) (x y e : SReg) (dk ak k : KReg) (rm : BitVec 3) (tg : BitVec 4)
    (g : BitVec 8) (f : BitVec 1) : ∀ w ∈ issuesArith t d a b c x y e dk ak k rm tg g f, Issued w := by
  unfold issuesArith
  simp only [List.forall_mem_append, List.forall_mem_cons, List.not_mem_nil, false_imp_iff, implies_true, and_true]
  and_intros
  all_goals exact ⟨_, fun _ => rfl⟩

theorem issued_issuesMemory (t : Strand) (d b c : VReg) (x y e : SReg) (k : KReg) (h z : BitVec 2) (q : BitVec 3)
    (p : BitVec 4) (l : BitVec 16) (f r : BitVec 1) : ∀ w ∈ issuesMemory t d b c x y e k h z q p l f r, Issued w := by
  unfold issuesMemory
  simp only [List.forall_mem_cons, List.not_mem_nil, false_imp_iff, implies_true, and_true]
  and_intros
  all_goals exact ⟨_, fun _ => rfl⟩

section stops

variable {s : State}

theorem mismatch_two {α : Type} (a b : Nat) : (mismatch [a, b] : M α).run s = .error (.trap ⟨9, wd (a + 16 * b), .sup⟩ false) s := by
  simp [mismatch, Nat.shiftLeft_eq, Nat.mul_comm]

/-- Sources of two tags are a type mismatch before anything else (R159, R234). -/
theorem runBin_mismatch {e : VEntry} {op : BinOp} {d a b : VReg} {k : KReg} {ta tb : Nat} (ho : op.agnostic = false)
    (ha : s.me.vtagOf a.toNat = ta) (hb : s.me.vtagOf b.toNat = tb) (h : ta ≠ tb) :
    (runBin e op d a (.reg b) k).run s = .error (.trap ⟨9, wd (ta + 16 * tb), .sup⟩ false) s := by
  have differ : (tb != ta) = true := by simpa using h.symm
  simp only [runBin, run_bind, run_me, ho, ha, hb, Bool.false_eq_true, if_false, VSrc.tag, differ, Bool.true_or, if_true, VSrc.shown, mismatch_two]

/-- A poisoned source traps before the first element, if one is active (R143, R254). -/
theorem consume_poisoned {r : Nat} {regs masks : List Nat} (h : s.me.vpoison.getLsbD r = true) :
    (consume (r :: regs) masks).run s = .error (.trap ⟨0x0F, wd (1 + 4 * r), .sup⟩ false) s := by
  simp [consume, h, Nat.shiftLeft_eq, Nat.mul_comm]

theorem prepare_poisoned {r : Nat} {named regs masks : List Nat} (h : s.me.vpoison.getLsbD r = true) :
    (prepare named (r :: regs) masks true).run s = .error (.trap ⟨0x0F, wd (1 + 4 * r), .sup⟩ false) s := by
  simp only [prepare, ready, run_bind, if_true, consume_poisoned h]

theorem runUn_mv_poisoned {e : VEntry} {d a : VReg} {k : KReg} (h : s.me.vpoison.getLsbD a.toNat = true)
    (ha : e.any s.me (s.me.kreg k.toNat) (8192 / widthOf (s.me.vtagOf a.toNat)) = true) :
    (runUn e .mv d a k).run s = .error (.trap ⟨0x0F, wd (1 + 4 * a.toNat), .sup⟩ false) s := by
  simp only [runUn, run_bind, run_me, UnOp.takes, UnOp.rounds, Bool.not_true, Bool.false_eq_true, if_false, run_pure, ha, prepare_poisoned h]

/-- An index register that is loaded over with data of another width is illegal, before its tag is looked at (R298). -/
theorem runLd_over_index {e : VEntry} {d : VReg} {base : Word} {h : Nat} {f : Bool} {k : KReg}
    (hw : widthOf (s.me.vtagOf d.toNat) ≠ widthOf e.tag.toNat) :
    (runLd e d base (.index d h) f k).run s = .error (.trap ⟨1, e.words, .sup⟩ false) s := by
  simp [runLd, VAddr.checkGroup, hw, badEntry]

/-- A chunk whose first element fails its checks performs nothing (R289). -/
theorem chunks_first_fault {acc : Acc} {extra : Place → Word → M Bool} {perform : List Placed → M Unit} {l : List Elt}
    {q : State} {f : EltFault} (hperform : (perform []).run q = .ok () q)
    (h : (checkChunk acc extra (takeChunk [] l).1).run s = .ok ([], some f) q) :
    (chunks acc extra perform l.length l).run s = .ok (.fault f) q := by
  cases l with
  | nil => cases h
  | cons x l =>
    simp only [List.length_cons, chunks, List.isEmpty_cons, Bool.false_eq_true, if_false, run_bind, h, hperform, run_pure]

theorem runSt_first_fault {e : VEntry} {v : VReg} {base : Word} {k : KReg} {q : State} {f : EltFault}
    (hready : ∀ masks act, (prepare [v.toNat] [v.toNat] masks act).run s = .ok () s)
    (h : (checkChunk .w noExtra (takeChunk [] (e.elts s.me .unit base (widthOf (s.me.vtagOf v.toNat)) k)).1).run s =
      .ok ([], some f) q) :
    (runSt e v base .unit false k).run s = .ok (.trap f.e f.trap) q := by
  have faults := chunks_first_fault (perform := fun c =>
    if widthOf (s.me.vtagOf v.toNat) = 4 then storeNibbles v.toNat c
    else storeChunk v.toNat (widthOf (s.me.vtagOf v.toNat)) false c) (by split <;> rfl) h
  simp only [runSt, run_bind, run_me, VAddr.checkTags, run_pure, VAddr.names, hready, faults]

end stops

theorem TlbOnly.checkAddr (acc : Acc) (x : Elt) (a : Word) : TlbOnly (checkAddr acc noExtra x a) := by
  refine TlbOnly.ite ((TlbOnly.pure _).bind fun _ => TlbOnly.pure _) ((TlbOnly.placeE a acc).bind fun r => ?_)
  cases r with
  | error p => exact TlbOnly.pure _
  | ok pl => exact (TlbOnly.pure _).bind fun _ => TlbOnly.pure _

theorem TlbOnly.checkElt (acc : Acc) (x : Elt) (l : List Word) : TlbOnly (checkElt acc noExtra x l) := by
  induction l with
  | nil => exact TlbOnly.pure _
  | cons a l ih =>
    refine (TlbOnly.checkAddr acc x a).bind fun r => ?_
    cases r with
    | error f => exact TlbOnly.pure _
    | ok pl =>
      refine ih.bind fun r => ?_
      cases r <;> exact TlbOnly.pure _

/-- The checks of a chunk find places, and change nothing but cached translations (R289). -/
theorem TlbOnly.checkChunk (acc : Acc) (l : List Elt) : TlbOnly (checkChunk acc noExtra l) := by
  induction l with
  | nil => exact TlbOnly.pure _
  | cons x l ih =>
    refine (TlbOnly.checkElt acc x x.at').bind fun r => ?_
    cases r with
    | error f => exact TlbOnly.pure _
    | ok ps => exact ih.bind fun _ => TlbOnly.pure _

/-- What issue itself refuses (R98, R154, R314, R467). -/
theorem issue_refuses {s : State} {w : Instr × VOp × Nat × Nat} (hw : Issued w) :
    (s.me.vheld = true → exec w.1 s = .next (s.takeTrap ⟨1, Instr.words w.1, .sup⟩ false false)) ∧
    (s.me.vheld = false → ∀ t, w.2.1.sd = some t → s.me.isPort t = true →
      exec w.1 s = .next (s.takeTrap ⟨1, Instr.words w.1, .sup⟩ false false)) ∧
    (s.me.vheld = false → (∀ t, w.2.1.sd = some t → s.me.isPort t = false) → w.2.2.2 = 2 → s.myPart? = none →
      exec w.1 s = .next (s.takeTrap ⟨1, Instr.words w.1, .sup⟩ false false)) ∧
    (s.me.vheld = false → (∀ t, w.2.1.sd = some t → s.me.isPort t = false) →
      ∀ u, s.myPart? = some u → u.fmask.getLsbD w.2.2.2 = true →
        exec w.1 s = .next (s.takeTrap ⟨3, Instr.words w.1, .hyp⟩ false false)) := by
  obtain ⟨op, issue⟩ := hw
  rw [issue s]
  refine ⟨fun h => vissue_refused (vcheck_held h), fun h t ht hp => ?_, fun h hp h2 hn => ?_,
    fun h hp u hu hg => vissue_refused (vcheck_masked h hp hu hg)⟩
  · rw [ht]
    exact vissue_refused (vcheck_port h hp)
  · rw [h2]
    exact vissue_refused (vcheck_no_part h hp hn)

/-- Settles O40: what issue refuses, and four entries that stop before their first element. -/
theorem vectorTraps : Obligations.VectorTraps := by
  intro s d a b c x y e dk ak k rm tg g h z q p l f r
  refine ⟨fun w hw => ?_, fun _ hs hne => ?_, fun _ hs hx hne => ?_, fun _ hv ha hs => ?_, fun q1 n _ hs hx faults => ?_⟩
  · rcases List.mem_append.1 hw with hw | hw
    · exact issue_refuses (issued_issuesArith s.me d a b c x y e dk ak k rm tg g f w hw)
    · exact issue_refuses (issued_issuesMemory s.me d b c x y e k h z q p l f r w hw)
  · exact vissue_traps hs.issues (by decide) (run_pure ..)
      (runBin_mismatch rfl (started_vtagOf ..) (started_vtagOf ..) hne)
  · have stops := runLd_over_index (s := (s.issued (.vldx d x d k h) (.ld d (s.me.sreg x) (.index d h.toNat) false k) 8).inStrip)
      (e := s.me.entry (.vldx d x d k h) (.ld d (s.me.sreg x) (.index d h.toNat) false k)) (base := s.me.sreg x) (h := h.toNat)
      (f := false) (k := k) (by rw [started_vtagOf]; exact hne)
    rw [entry_words rfl] at stops
    exact vissue_traps hs.issues (by decide) (with1_readable hx) stops
  · refine vissue_traps (o := .un .mv d a k) ?_ (by decide) (run_pure ..) (runUn_mv_poisoned ?_ ?_)
    · obtain ⟨live, placed, eager, unheld, calm, empty, owner, allowed, start, vpend, kpend⟩ := hs.issues
      exact ⟨live, placed, eager, unheld, calm, empty, owner, allowed, start, vpend, kpend⟩
    · rw [started_vpoison]
      exact hv
    · rw [started_kreg, started_vtagOf]
      have start : s.me.vstart = 0 := hs.issues.start
      simpa [entry_any start, vlmax] using ha
  · have start := hs.issues.start
    have stops : (runEntry (s.me.entry (.vst d x k) (.st d (s.me.sreg x) .unit false k))).run
        (s.issued (.vst d x k) (.st d (s.me.sreg x) .unit false k) 4).inStrip = .ok (.trap n.e n.trap) q1 := by
      refine runSt_first_fault (fun masks act => prepare_resident hs.clean) ?_
      rw [started_vtagOf, entry_elts_unit start]
      exact faults
    obtain ⟨l, m, same⟩ := TlbOnly.checkChunk _ _ _ _ _ faults
    exact vissue_ends (op := with1 x fun y => .st d y .unit false k) hs.issues (by decide) (with1_readable hx) stops
      (by rw [same]; exact started_space ..)

end Sys2Proof.Machine

/-! Elements of numbers and of vector registers: what a write of one leaves (R232). -/

namespace Sys2Proof.Machine

section numbers

variable {w e j v x : Nat}

/-- A write of an element replaces the middle of three parts of a number. -/
theorem setElem_eq (w j v x : Nat) :
    setElem w j v x = (x / 2 ^ (w * (j + 1)) * 2 ^ w + v % 2 ^ w) * 2 ^ (w * j) + x % 2 ^ (w * j) := by
  have split : x = (x / 2 ^ (w * (j + 1)) * 2 ^ w + elem w j x) * 2 ^ (w * j) + x % 2 ^ (w * j) := by
    have parts : x / 2 ^ (w * (j + 1)) * 2 ^ w + elem w j x = x / 2 ^ (w * j) := by
      rw [elem, Nat.shiftRight_eq_div_pow, Nat.mul_succ, Nat.pow_add, ← Nat.div_div_eq_div_mul, Nat.div_add_mod']
    rw [parts, Nat.div_add_mod']
  rw [setElem, Nat.shiftLeft_eq, Nat.shiftLeft_eq]
  have := Nat.add_mul (x / 2 ^ (w * (j + 1)) * 2 ^ w) (elem w j x) (2 ^ (w * j))
  rw [Nat.add_mul]
  omega

theorem setElem_div (w j v x : Nat) : setElem w j v x / 2 ^ (w * (j + 1)) = x / 2 ^ (w * (j + 1)) := by
  have low : setElem w j v x / 2 ^ (w * j) = x / 2 ^ (w * (j + 1)) * 2 ^ w + v % 2 ^ w := by
    rw [setElem_eq, Nat.mul_comm _ (2 ^ (w * j)), Nat.mul_add_div (by positivity), Nat.div_eq_of_lt (Nat.mod_lt _ (by positivity)),
      Nat.add_zero]
  rw [Nat.mul_succ, Nat.pow_add, ← Nat.div_div_eq_div_mul, low, Nat.mul_comm _ (2 ^ w), Nat.mul_add_div (by positivity),
    Nat.div_eq_of_lt (Nat.mod_lt _ (by positivity)), Nat.add_zero, Nat.mul_succ, Nat.pow_add]

theorem elem_setElem_same (w j v x : Nat) : elem w j (setElem w j v x) = v % 2 ^ w := by
  rw [elem, Nat.shiftRight_eq_div_pow, setElem_eq, Nat.mul_comm _ (2 ^ (w * j)), Nat.mul_add_div (by positivity),
    Nat.div_eq_of_lt (Nat.mod_lt _ (by positivity)), Nat.add_zero, Nat.mul_comm, Nat.mul_add_mod, Nat.mod_mod]

theorem elem_setElem_other (h : e ≠ j) : elem w e (setElem w j v x) = elem w e x := by
  rcases Nat.lt_or_gt_of_ne h with h | h
  · have low : ∀ y, elem w e y = y % 2 ^ (w * j) % 2 ^ (w * (e + 1)) / 2 ^ (w * e) := fun y => by
      rw [elem, Nat.shiftRight_eq_div_pow, Nat.mod_mod_of_dvd _ (pow_dvd_pow 2 (Nat.mul_le_mul_left w h)), Nat.mul_succ, Nat.pow_add,
        Nat.mod_mul_right_div_self]
    rw [low, low x, setElem_eq, Nat.mul_add_mod_self_right, Nat.mod_mod]
  · have high : ∀ y, elem w e y = y / 2 ^ (w * (j + 1)) / 2 ^ (w * (e - (j + 1))) % 2 ^ w := fun y => by
      rw [elem, Nat.shiftRight_eq_div_pow, Nat.div_div_eq_div_mul, ← Nat.pow_add, ← Nat.mul_add, Nat.add_sub_cancel' h]
    rw [high, high x, setElem_div]

theorem setElem_lt {n : Nat} (hx : x < 2 ^ n) (hn : w * (j + 1) ≤ n) : setElem w j v x < 2 ^ n := by
  have cut : 2 ^ n = 2 ^ (n - w * (j + 1)) * 2 ^ (w * (j + 1)) := by rw [← Nat.pow_add, Nat.sub_add_cancel hn]
  rw [cut] at hx ⊢
  rw [← Nat.div_lt_iff_lt_mul (by positivity)] at hx ⊢
  rwa [setElem_div]

end numbers
section cells

variable {v : Vector VBits 64} {w r e x r' e' : Nat}

/-- Element `e` of width `w` of register `r` of a vector file. -/
def cell (v : Vector VBits 64) (w r e : Nat) : Nat := elem w e (v.toList.getD r 0).toNat

/-- A vector file with that element written. -/
def setCell (v : Vector VBits 64) (w r e x : Nat) : Vector VBits 64 :=
  v.setIfInBounds r (BitVec.ofNat 8192 (setElem w e x (v.toList.getD r 0).toNat))

theorem getD_setIfInBounds_same (y : VBits) (hr : r < 64) : (v.setIfInBounds r y).toList.getD r 0 = y := by
  simp [List.getD, hr]

theorem getD_setIfInBounds_other (y : VBits) (h : r' ≠ r) : (v.setIfInBounds r y).toList.getD r' 0 = v.toList.getD r' 0 := by
  simp [List.getD, h.symm]

/-- An element that lies in its register ends there. -/
theorem cell_bound (he : e < 8192 / w) : w * (e + 1) ≤ 8192 :=
  (Nat.mul_comm ..).le.trans ((Nat.le_div_iff_mul_le (Nat.pos_of_ne_zero fun h => by simp [h] at he)).1 he)

theorem toNat_setElem {n : Nat} {y : BitVec n} (h : w * (e + 1) ≤ n) :
    (BitVec.ofNat n (setElem w e x y.toNat)).toNat = setElem w e x y.toNat :=
  (BitVec.toNat_ofNat ..).trans (Nat.mod_eq_of_lt (setElem_lt y.isLt h))

theorem cell_setCell_same (hr : r < 64) (he : e < 8192 / w) : cell (setCell v w r e x) w r e = x % 2 ^ w := by
  rw [cell, setCell, getD_setIfInBounds_same _ hr, toNat_setElem (cell_bound he), elem_setElem_same]

theorem cell_setCell_other (he : e < 8192 / w) (h : ¬(r' = r ∧ e' = e)) :
    cell (setCell v w r e x) w r' e' = cell v w r' e' := by
  by_cases hr : r' = r
  · subst hr
    have he' : e' ≠ e := fun h' => h ⟨rfl, h'⟩
    by_cases hb : r' < 64
    · rw [cell, setCell, getD_setIfInBounds_same _ hb, toNat_setElem (cell_bound he), elem_setElem_other he', cell]
    · rw [setCell, Vector.setIfInBounds_eq_of_size_le (Nat.le_of_not_lt hb)]
  · rw [cell, setCell, getD_setIfInBounds_other _ hr, cell]

theorem Strand.elemAt_eq_cell (t : Strand) (he : e < 8192 / w) : t.elemAt r w e = cell t.v w r e := by
  rw [Strand.elemAt, Nat.mod_eq_of_lt he, Nat.div_eq_of_lt he]
  rfl

/-- A write of an element of a strand without poison (R142, R246). -/
theorem Strand.putElem_eq (t : Strand) (he : e < 8192 / w) (hp : t.vpoison = 0) :
    t.putElem r w e x = { t with v := setCell t.v w r e x, res := t.res.setIfInBounds r .dirty } := by
  have clean : setBit t.vpoison r false = t.vpoison := by simp [setBit, hp]
  rw [Strand.putElem, Nat.mod_eq_of_lt he, Nat.div_eq_of_lt he, Nat.add_zero, clean]
  rfl

theorem Strand.laneOr_eq (t : Strand) (e : Nat) (f : FSet) : ∃ l, t.laneOr e f = { t with lanes := l } := by
  unfold Strand.laneOr
  split
  · exact ⟨t.lanes, rfl⟩
  · exact ⟨_, rfl⟩

end cells

/-- A loop whose rounds go on and keep a property of the state that names the rounds done. -/
theorem run_forIn_each {α : Type} {f : α → PUnit → M (ForInStep PUnit)} {l : List α} (R : List α → State → Prop)
    (h : ∀ done x todo, l = done ++ x :: todo → ∀ s, R done s → ∃ t, (f x PUnit.unit).run s = .ok (.yield PUnit.unit) t ∧ R (done ++ [x]) t)
    {s : State} (h0 : R [] s) : ∃ t, (forIn l PUnit.unit f).run s = .ok PUnit.unit t ∧ R l t := by
  suffices key : ∀ todo done, l = done ++ todo → ∀ s, R done s →
      ∃ t, (forIn todo PUnit.unit f).run s = .ok PUnit.unit t ∧ R l t from key l [] rfl s h0
  intro todo
  induction todo with
  | nil => exact fun done e s hs => ⟨s, rfl, by rwa [e, List.append_nil]⟩
  | cons x todo ih =>
    intro done e s hs
    obtain ⟨t, hx, ht⟩ := h done x todo e s hs
    obtain ⟨u, hu, hr⟩ := ih (done ++ [x]) (by simpa using e) t ht
    exact ⟨u, by rw [List.forIn_cons, run_bind, hx]; exact hu, hr⟩

end Sys2Proof.Machine

/-! The patterns that a fused operation gives fit their format (R48, R51, R54, R218). -/

namespace Sys2Proof.Machine

/-- The patterns that rounding to a format can give lie in its width, for the IEEE formats. -/
structure Fmt.Fits (f : Fmt) : Prop where
  ieee : f.ieee = true
  nan : f.nan < 2 ^ f.n
  inf : ∀ neg, f.inf neg < 2 ^ f.n
  big : ∀ neg, f.big neg < 2 ^ f.n
  finite : ∀ neg, f.sign neg + f.big false < 2 ^ f.n

theorem tagFmt_fits {t : Nat} (h8 : 8 ≤ t) (h12 : t < 12) : (tagFmt t).Fits ∧ (tagFmt t).n = widthOf t ∧ fmtOfTag t = some (tagFmt t) := by
  interval_cases t <;> exact ⟨⟨rfl, by decide, by decide, by decide, by decide⟩, rfl, rfl⟩

section bounds

variable {f : Fmt} (h : f.Fits)
include h

theorem Fmt.Fits.sign (neg : Bool) : f.sign neg < 2 ^ f.n := (Nat.le_add_right ..).trans_lt (h.finite neg)

theorem overflow_lt (rm : Nat) (neg sat : Bool) : (overflow f rm neg sat).1 < 2 ^ f.n := by
  simp only [overflow, h.ieee, if_true]
  split
  · exact h.inf neg
  · exact h.big neg

theorem roundRat_lt (rm : Nat) (neg : Bool) (num den : Nat) (sat : Bool) : (roundRat f rm neg num den sat).1 < 2 ^ f.n := by
  unfold roundRat
  dsimp only
  split
  · exact overflow_lt h rm neg sat
  next hmag => exact (Nat.add_le_add_left (Nat.le_of_not_lt hmag) _).trans_lt (h.finite neg)

theorem roundInt_lt (rm : Nat) (x e : Int) (zneg sat : Bool) : (roundInt f rm x e zneg sat).1 < 2 ^ f.n := by
  unfold roundInt roundDy
  split
  · exact h.sign zneg
  · split
    · exact h.sign _
    · exact roundRat_lt h ..

theorem addV_lt (rm : Nat) (a b : FVal) : (addV f rm a b false).1 < 2 ^ f.n := by
  unfold addV
  split
  · exact roundInt_lt h ..
  · exact h.nan
  · exact h.nan
  · split
    · exact h.inf _
    · exact h.nan
  · exact h.inf _
  · exact h.inf _

theorem fFma_lt (rm a b c : Nat) (negP negC : Bool) : (fFma f rm a b c negP negC).1 < 2 ^ f.n := by
  unfold fFma
  dsimp only
  generalize (if negC then (unpack f c).negate else unpack f c) = z
  cases mulV (unpack f a) (unpack f b) with
  | none => exact h.nan
  | some p =>
    dsimp only
    split
    · exact h.nan
    · exact addV_lt h ..

end bounds

/-- a × b + c in a tag's format is an element of its width (R279). -/
theorem tagFma_lt {t : Nat} (h : t < 12) (rm a b c : Nat) : (tagFma t rm a b c).1 < 2 ^ widthOf t := by
  by_cases h8 : t < 8
  · have int : fmtOfTag t = none := by interval_cases t <;> rfl
    simp only [tagFma, int]
    exact Nat.mod_lt _ (by positivity)
  · obtain ⟨fits, width, float⟩ := tagFmt_fits (Nat.le_of_not_lt h8) h
    simp only [tagFma, float, ← width]
    exact fFma_lt fits ..

end Sys2Proof.Machine

/-! Outer products and tiles (R98, R243, R278-R281). -/

namespace Sys2Proof.Machine

/-- A strand in the course of writing elements: the free choices that it has drawn, its vector file, residency and lane flags differ. -/
def State.writing (p : State) (n : Nat) (v : Vector VBits 64) (res : Vector Res 64) (lanes : Vector (BitVec 5) 32) : State :=
  { p with draw := n, me := { p.me with v := v, res := res, lanes := lanes } }

/-- A tile from register `d` of a vector file that was `v0`, where the elements that are done have a value and the others and the
registers outside it are as they were. -/
structure Tile (v0 v : Vector VBits 64) (d w : Nat) (val : Nat → Nat → Nat → Prop) (done : Nat → Nat → Prop) : Prop where
  outside : ∀ r, ¬(d ≤ r ∧ r < d + 8) → v.toList.getD r 0 = v0.toList.getD r 0
  new : ∀ r e, r < 8 → e < 8192 / w → done r e → val r e (cell v w (d + r) e)
  old : ∀ r e, r < 8 → e < 8192 / w → ¬ done r e → cell v w (d + r) e = cell v0 w (d + r) e

section tiles

variable {v0 v : Vector VBits 64} {d w : Nat} {val : Nat → Nat → Nat → Prop} {done done' : Nat → Nat → Prop}

theorem Tile.start (h : ∀ r e, ¬ done r e) : Tile v0 v0 d w val done :=
  ⟨fun _ _ => rfl, fun r e _ _ hd => absurd hd (h r e), fun _ _ _ _ _ => rfl⟩

theorem Tile.congr (h : Tile v0 v d w val done) (hd : ∀ r e, r < 8 → e < 8192 / w → (done r e ↔ done' r e)) :
    Tile v0 v d w val done' :=
  ⟨h.outside, fun r e hr he h' => h.new r e hr he ((hd r e hr he).2 h'),
    fun r e hr he h' => h.old r e hr he fun k => h' ((hd r e hr he).1 k)⟩

/-- One more element is done. -/
theorem Tile.write {i j x : Nat} (h : Tile v0 v d w val done) (hd : d + 8 ≤ 64) (hi : i < 8) (hj : j < 8192 / w)
    (hx : val i j (x % 2 ^ w)) : Tile v0 (setCell v w (d + i) j x) d w val fun r e => done r e ∨ (r = i ∧ e = j) := by
  refine ⟨fun r hr => ?_, fun r e hr he hde => ?_, fun r e hr he hde => ?_⟩
  · rw [setCell, getD_setIfInBounds_other _ (by omega), h.outside r hr]
  · by_cases hij : r = i ∧ e = j
    · obtain ⟨rfl, rfl⟩ := hij
      rwa [cell_setCell_same (by omega) he]
    · rw [cell_setCell_other hj (by omega)]
      exact h.new r e hr he (hde.resolve_right hij)
  · rw [cell_setCell_other hj (fun hij => hde (.inr ⟨by omega, hij.2⟩))]
    exact h.old r e hr he fun k => hde (.inl k)

end tiles

theorem State.writing_elemAt {p : State} {n : Nat} {v : Vector VBits 64} {res : Vector Res 64} {lanes : Vector (BitVec 5) 32}
    {r w e : Nat} (he : e < 8192 / w) : (p.writing n v res lanes).me.elemAt r w e = cell v w r e :=
  Strand.elemAt_eq_cell _ he

/-- An element is written, and its flags go to their lane set. -/
theorem State.writing_putElem {p : State} (n : Nat) (v : Vector VBits 64) (res : Vector Res 64) (lanes : Vector (BitVec 5) 32)
    {r w e x k : Nat} {f : FSet} (hp : p.me.vpoison = 0) (he : e < 8192 / w) :
    ∃ l, ((p.writing n v res lanes).me.putElem r w e x).laneOr k f =
      (p.writing n (setCell v w r e x) (res.setIfInBounds r .dirty) l).me := by
  obtain ⟨l, lane⟩ := Strand.laneOr_eq ((p.writing n v res lanes).me.putElem r w e x) k f
  have clean : (p.writing n v res lanes).me.vpoison = 0 := hp
  exact ⟨l, by rw [lane, Strand.putElem_eq _ he clean]; rfl⟩

/-- A member of a list without duplicates is not among those before it. -/
theorem not_mem_before {α : Type} {l done todo : List α} {x : α} (hl : l.Nodup) (e : l = done ++ x :: todo) : x ∉ done :=
  fun hm => List.disjoint_of_nodup_append (e ▸ hl) hm (List.mem_cons_self ..)

/-- A computation that completes, draws free choices and does nothing else, with a property of what it answers. -/
def Draws {α : Type} (m : M α) (P : α → Prop) : Prop := ∀ s, ∃ a n, m.run s = .ok a { s with draw := n } ∧ P a

section draws

variable {α β : Type} {m : M α} {P : α → Prop} {Q : β → Prop}

theorem Draws.pure {a : α} (h : P a) : Draws (pure a) P := fun s => ⟨a, s.draw, rfl, h⟩

theorem Draws.bind {f : α → M β} (hm : Draws m P) (hf : ∀ a, P a → Draws (f a) Q) : Draws (m >>= f) Q := by
  intro s
  obtain ⟨a, n, ha, hp⟩ := hm s
  obtain ⟨b, n', hb, hq⟩ := hf a hp { s with draw := n }
  exact ⟨b, n', by rw [run_bind, ha]; exact hb, hq⟩

theorem Draws.ite {c : Prop} [Decidable c] {m' : M α} (h : Draws m P) (h' : Draws m' P) : Draws (if c then m else m') P := by
  split
  · exact h
  · exact h'

theorem Draws.freeBelow {n : Nat} (h : 0 < n) : Draws (freeBelow n) (· < n) := by
  by_cases h1 : n ≤ 1
  · rw [Sys2Proof.Machine.freeBelow, if_pos h1]
    exact Draws.pure h
  · rw [Sys2Proof.Machine.freeBelow, if_neg h1]
    exact fun s => ⟨_, _, rfl, Nat.mod_lt _ h⟩

theorem Draws.freeBool : Draws freeBool fun _ => True :=
  (Draws.freeBelow Nat.two_pos).bind fun _ _ => Draws.pure trivial

end draws

/-- A computation that completes, with a property of what it answers and where it ends. -/
def Ends {α : Type} (m : M α) (s : State) (P : α → State → Prop) : Prop := ∃ a t, m.run s = .ok a t ∧ P a t

section ends

variable {α β : Type} {m : M α} {s t : State} {P : α → State → Prop} {Q : β → State → Prop}

theorem Ends.of_run {a : α} (h : m.run s = .ok a t) (hp : P a t) : Ends m s P := ⟨a, t, h, hp⟩

theorem Ends.pure {a : α} (h : P a s) : Ends (pure a) s P := ⟨a, s, rfl, h⟩

theorem Ends.bind {f : α → M β} (hm : Ends m s P) (hf : ∀ a t, P a t → Ends (f a) t Q) : Ends (m >>= f) s Q := by
  obtain ⟨a, t, ha, hp⟩ := hm
  obtain ⟨b, u, hb, hq⟩ := hf a t hp
  exact ⟨b, u, by rw [run_bind, ha]; exact hb, hq⟩

/-- What follows a part whose run is known. -/
theorem Ends.after {a : α} {f : α → M β} (h : m.run s = .ok a t) (hf : Ends (f a) t Q) : Ends (m >>= f) s Q :=
  Ends.bind (P := fun b u => b = a ∧ u = t) ⟨a, t, h, rfl, rfl⟩ fun _ _ e => e.1 ▸ e.2 ▸ hf

theorem Ends.get_bind {f : State → M β} (h : Ends (f s) s Q) : Ends (get >>= f) s Q := h.after (run_get s)

theorem Ends.forIn {f : α → PUnit → M (ForInStep PUnit)} {l : List α} (R : List α → State → Prop) (h0 : R [] s)
    (h : ∀ done x todo, l = done ++ x :: todo → ∀ s, R done s →
      Ends (f x PUnit.unit) s fun r t => r = .yield PUnit.unit ∧ R (done ++ [x]) t) :
    Ends (forIn l PUnit.unit f) s fun _ t => R l t := by
  obtain ⟨t, run, hr⟩ := run_forIn_each R (fun done x todo e s hs => by
    obtain ⟨r, t, run, rfl, hr⟩ := h done x todo e s hs
    exact ⟨t, run, hr⟩) h0
  exact ⟨_, t, run, hr⟩

end ends

/-- The operands of an outer product pass its checks: an entry whole, eight elements of the first source in its register, one tag that has
arithmetic, a rounding mode (R242, R253, R278). -/
structure State.TileOk (q : State) (e : VEntry) (d a b : VReg) (g : Nat) : Prop where
  clean : q.Clean ([a.toNat, b.toNat] ++ group d 8)
  start : q.me.vstart = 0
  inside : 8 * g + 7 < vlmax (q.me.vtagOf a.toNat)
  tag : q.me.vtagOf a.toNat < 12
  source : q.me.vtagOf b.toNat = q.me.vtagOf a.toNat
  target : ∀ r ∈ group d 8, q.me.vtagOf r = q.me.vtagOf a.toNat
  mode : e.frm.toNat ≤ 4

theorem whole_start {q : State} {e : VEntry} (h : q.me.vstart = 0) : e.whole.run q = .ok () q := by simp [VEntry.whole, h]

/-- The captured rounding mode of an entry (R253). -/
theorem mode_captured {q : State} {e : VEntry} (h : e.frm.toNat ≤ 4) : (e.mode 7).run q = .ok e.frm.toNat q := by
  simp only [VEntry.mode, if_true, if_neg (Nat.not_lt.2 h), run_pure]

section outer

variable {q : State} {e : VEntry} {d a b : VReg} {k : KReg} {g : Nat}

/-- The columns of an outer product: the active elements of its second source. -/
def VEntry.columns (e : VEntry) (t : Strand) (k : KReg) (cap : Nat) : List Nat := t.active (t.kreg k.toNat) 0 (min e.vl cap)

/-- The eight elements of its first source. -/
def Strand.rows (t : Strand) (a : VReg) (g : Nat) : List Nat :=
  (below 8).map fun i => t.elemAt a.toNat (widthOf (t.vtagOf a.toNat)) (8 * g + i)

theorem State.TileOk.tags (h : q.TileOk e d a b g) : ((q.me.vtagOf b.toNat != q.me.vtagOf a.toNat) ||
    decide (11 < q.me.vtagOf a.toNat) || (group d 8).any fun r => q.me.vtagOf r != q.me.vtagOf a.toNat) = false := by
  have target : ((group d 8).any fun r => q.me.vtagOf r != q.me.vtagOf a.toNat) = false :=
    List.any_eq_false.2 fun r hr => by simp [h.target r hr]
  have tag := h.tag
  simp only [h.source, target, bne_self_eq_false, Bool.false_or, Bool.or_false, decide_eq_false_iff_not]
  omega

theorem Strand.active_nodup (t : Strand) (m : MBits) (lo n : Nat) : (t.active m lo n).Nodup :=
  (List.nodup_range.sublist (List.drop_sublist ..)).filter _

theorem Strand.lt_of_mem_active {t : Strand} {m : MBits} {lo n i : Nat} (h : i ∈ t.active m lo n) : i < n :=
  List.mem_range.1 (List.mem_of_mem_drop (List.mem_filter.1 h).1)

theorem runTile_ordered {val : Nat → Nat → Nat → Prop} (h : q.TileOk e d a b g) (hd : d.toNat + 8 ≤ 64)
    (hb : ¬(d.toNat ≤ b.toNat ∧ b.toNat < d.toNat + 8))
    (hval : ∀ i < 8, ∀ j ∈ e.columns q.me k (vlmax (q.me.vtagOf a.toNat)), val i j
      ((tagFma (q.me.vtagOf a.toNat) e.frm.toNat (nth (q.me.rows a g) i 0)
        (cell q.me.v (widthOf (q.me.vtagOf a.toNat)) b.toNat j)
        (cell q.me.v (widthOf (q.me.vtagOf a.toNat)) (d.toNat + i) j)).1 % 2 ^ widthOf (q.me.vtagOf a.toNat))) :
    Ends (runTile e true d a b k g) q fun out t => out = .retire none ∧ ∃ v res lanes, t = q.writing q.draw v res lanes ∧
      Tile q.me.v v d.toNat (widthOf (q.me.vtagOf a.toNat)) val
        fun _ j => j ∈ e.columns q.me k (vlmax (q.me.vtagOf a.toNat)) := by
  have inside : ¬(8192 / widthOf (q.me.vtagOf a.toNat) ≤ 8 * g + 7) := Nat.not_le.2 h.inside
  unfold runTile
  refine Ends.after (whole_start h.start) (Ends.after (run_me q) ?_)
  simp only [inside, if_false, h.tags, Bool.false_eq_true, if_true]
  refine Ends.after (mode_captured h.mode) (Ends.after (ready_resident h.clean) (Ends.after (run_mergeAll (.inr h.clean.tiles))
    (Ends.after (run_me q) (Ends.bind (Ends.forIn (fun dn s => ∃ v res lanes, s = q.writing q.draw v res lanes ∧
      Tile q.me.v v d.toNat (widthOf (q.me.vtagOf a.toNat)) val fun _ j => j ∈ dn)
      ⟨q.me.v, q.me.res, q.me.lanes, rfl, Tile.start (by simp)⟩ ?_) fun _ t ht => Ends.pure ⟨rfl, ht⟩))))
  rintro dn j todo split _ ⟨v, res, lanes, rfl, tile⟩
  have split : e.columns q.me k (vlmax (q.me.vtagOf a.toNat)) = dn ++ j :: todo := split
  have mem : j ∈ e.columns q.me k (vlmax (q.me.vtagOf a.toNat)) := split ▸ List.mem_append_right dn (List.mem_cons_self ..)
  have hj : j < 8192 / widthOf (q.me.vtagOf a.toNat) := (Strand.lt_of_mem_active mem).trans_le (Nat.min_le_right ..)
  have column : j ∉ dn := not_mem_before (Strand.active_nodup ..) split
  have source : (q.writing q.draw v res lanes).me.elemAt b.toNat (widthOf (q.me.vtagOf a.toNat)) j =
      cell q.me.v (widthOf (q.me.vtagOf a.toNat)) b.toNat j := by
    rw [State.writing_elemAt hj, cell, tile.outside _ hb, cell]
  refine Ends.after (run_me _) (Ends.bind (Ends.forIn (fun rows s => ∃ v res lanes, s = q.writing q.draw v res lanes ∧
      Tile q.me.v v d.toNat (widthOf (q.me.vtagOf a.toNat)) val fun r e => e ∈ dn ∨ (r ∈ rows ∧ e = j))
      ⟨v, res, lanes, rfl, tile.congr (by simp)⟩ ?_) ?_)
  · rintro rows i todo split _ ⟨v, res, lanes, rfl, tile⟩
    have hi : i < 8 := List.mem_range.1 (split ▸ List.mem_append_right rows (List.mem_cons_self ..) : i ∈ below 8)
    have row : i ∉ rows := not_mem_before List.nodup_range split
    have old : (q.writing q.draw v res lanes).me.elemAt (d.toNat + i) (widthOf (q.me.vtagOf a.toNat)) j =
        cell q.me.v (widthOf (q.me.vtagOf a.toNat)) (d.toNat + i) j := by
      rw [State.writing_elemAt hj, tile.old i j hi hj (by simp [column, row])]
    refine Ends.after (run_me _) ?_
    rw [source, old]
    obtain ⟨l, put⟩ := State.writing_putElem q.draw v res lanes (r := d.toNat + i) (k := j) h.clean.vpoison hj
    refine Ends.after (run_modMe ..) (Ends.pure ⟨rfl, _, _, l, congrArg (fun t => { q with me := t }) put, ?_⟩)
    refine (tile.write hd hi hj (hval i hi j mem)).congr fun r e _ _ => by simp; tauto
  · rintro _ _ ⟨v, res, lanes, rfl, tile⟩
    exact Ends.pure ⟨rfl, v, res, lanes, rfl, tile.congr fun r e hr _ => by simp [below, hr]⟩

end outer

section contribution

variable {q : State} {e : VEntry} {d a b : VReg} {k : KReg} {g : Nat}

/-- The contribution that `vmop.r` leaves (R243, R280). -/
def State.contribution (q : State) (e : VEntry) (a b : VReg) (k : KReg) (g : Nat) : TilePart where
  rows := q.me.rows a g
  cols := q.me.vreg b.toNat
  act := (e.columns q.me k (vlmax (q.me.vtagOf a.toNat))).foldl (fun m j => setBit m j true) 0
  frm := e.frm

theorem runTile_open (h : q.TileOk e d a b g) : (runTile e false d a b k g).run q =
    .ok (.retire none) { q with me := { q.me with tiles := [⟨d.toNat, [q.contribution e a b k g]⟩] } } := by
  have inside : ¬(8192 / widthOf (q.me.vtagOf a.toNat) ≤ 8 * g + 7) := Nat.not_le.2 h.inside
  have none_open := h.clean.tiles
  simp only [runTile, run_bind, whole_start h.start, run_me, inside, Bool.false_eq_true, if_false, h.tags, mode_captured h.mode,
    ready_resident h.clean, run_mergeAll (.inr h.clean.tiles), openTile, none_open, run_modMe, List.filter_nil, List.length_nil,
    List.nil_append]
  simp [State.contribution, VEntry.columns, Strand.rows, vlmax]

theorem getLsbD_setBit {n : Nat} (x : BitVec n) {i j : Nat} (hj : j < n) : (setBit x i true).getLsbD j = (x.getLsbD j || i == j) := by
  simp only [setBit, if_true, BitVec.getLsbD_or, BitVec.getLsbD_ofNat, Nat.testBit_two_pow, hj, decide_true, Bool.true_and]
  rfl

/-- The mask of a list of elements. -/
theorem getLsbD_foldl_setBit {n : Nat} (l : List Nat) (x : BitVec n) {j : Nat} (hj : j < n) :
    (l.foldl (fun m i => setBit m i true) x).getLsbD j = (x.getLsbD j || l.contains j) := by
  induction l generalizing x with
  | nil => simp
  | cons i l ih => rw [List.foldl_cons, ih, getLsbD_setBit _ hj, List.contains_cons, Bool.or_assoc, BEq.comm]

end contribution

section clear

variable {q : State} {e : VEntry} {d : VReg}

/-- A strand with a register cleared (R281). -/
def Strand.clear (t : Strand) (r : Nat) : Strand :=
  { t with v := t.v.setIfInBounds r 0, res := t.res.setIfInBounds r .dirty, vpoison := setBit t.vpoison r false }

theorem State.writing_clear (n : Nat) (v : Vector VBits 64) (res : Vector Res 64) (lanes : Vector (BitVec 5) 32) (r : Nat)
    (hp : q.me.vpoison = 0) : (q.writing n v res lanes).me.clear r =
      (q.writing n (v.setIfInBounds r 0) (res.setIfInBounds r .dirty) lanes).me := by
  have clean : setBit q.me.vpoison r false = q.me.vpoison := by simp [setBit, hp]
  simp only [Strand.clear, State.writing, clean]

/-- Registers that are cleared one after the other. -/
theorem foldl_clear (n : Nat) (lanes : Vector (BitVec 5) 32) (hp : q.me.vpoison = 0) (l : List Nat) (v : Vector VBits 64)
    (res : Vector Res 64) : ∃ v' res', l.foldl Strand.clear (q.writing n v res lanes).me = (q.writing n v' res' lanes).me ∧
      (∀ r ∈ l, r < 64 → v'.toList.getD r 0 = 0) ∧ ∀ r, r ∉ l → v'.toList.getD r 0 = v.toList.getD r 0 := by
  induction l generalizing v res with
  | nil => exact ⟨v, res, rfl, nofun, fun _ _ => rfl⟩
  | cons x l ih =>
    obtain ⟨v', res', run, cleared, kept⟩ := ih (v.setIfInBounds x 0) (res.setIfInBounds x .dirty)
    refine ⟨v', res', by rw [List.foldl_cons, State.writing_clear _ _ _ _ _ hp, run], fun r hr h64 => ?_, fun r hr => ?_⟩
    · by_cases hl : r ∈ l
      · exact cleared r hl h64
      · obtain rfl : r = x := (List.mem_cons.1 hr).resolve_right hl
        rw [kept r hl, getD_setIfInBounds_same _ h64]
    · obtain ⟨hx, hl⟩ := not_or.1 fun h => hr (List.mem_cons.2 h)
      rw [kept r hl, getD_setIfInBounds_other _ hx]

/-- `vmzero` clears the registers of its tile (R281). -/
theorem runTileZero_resident (hs : q.me.vstart = 0) (h : q.Clean (group d 8)) :
    ∃ v res, (runTileZero e d).run q = .ok (.retire none) (q.writing q.draw v res q.me.lanes) ∧
      (∀ r ∈ group d 8, r < 64 → v.toList.getD r 0 = 0) ∧ ∀ r, r ∉ group d 8 → v.toList.getD r 0 = q.me.vreg r := by
  obtain ⟨v, res, run, cleared, kept⟩ := foldl_clear q.draw q.me.lanes h.vpoison (group d 8) q.me.v q.me.res
  refine ⟨v, res, ?_, cleared, kept⟩
  have same : { q with me := { q.me with tiles := q.me.tiles.filter (·.base != d.toNat) } } = q := by
    rw [h.tiles, List.filter_nil, ← h.tiles]
  simp only [runTileZero, run_bind, whole_start hs, run_modMe, same, reside_resident h.live h.slots, run_pure]
  exact congrArg (fun t => EStateM.Result.ok (VOut.retire none) { q with me := t }) run

end clear

/-- An element and a product, added in either order, fused or not (R280): for integers the sum modulo the width. -/
theorem addTerms_product (tag a b c m : Nat) :
    ∀ l ∈ [((⟨false, a, 0, []⟩ : Term), (⟨true, b, c, [m]⟩ : Term)), (⟨true, b, c, [m]⟩, ⟨false, a, 0, []⟩)],
      Draws (addTerms tag l.1 l.2) fun z => z.1.prod = false ∧ (fmtOfTag tag = none → z.1.a = (b * c + a) % 2 ^ widthOf tag) := by
  have sum : fmtOfTag tag = none → (tagAdd tag m a (Term.round tag ⟨true, b, c, [m]⟩).1.a).1 = (b * c + a) % 2 ^ widthOf tag ∧
      (tagAdd tag m (Term.round tag ⟨true, b, c, [m]⟩).1.a a).1 = (b * c + a) % 2 ^ widthOf tag ∧
      (tagFma tag m b c a).1 = (b * c + a) % 2 ^ widthOf tag := fun int => by
    simp [tagAdd, tagFma, Term.round, int, Nat.add_comm]
  rintro l (_ | ⟨_, _ | ⟨_, ⟨⟩⟩⟩)
  · exact (Draws.freeBelow Nat.one_pos).bind fun i hi => (Draws.pure (P := (· = false)) rfl).bind fun fuse hf => by
      obtain rfl : i = 0 := Nat.lt_one_iff.1 hi
      subst hf
      exact Draws.pure ⟨rfl, fun int => (sum int).1⟩
  · exact (Draws.freeBelow Nat.one_pos).bind fun i hi => Draws.freeBool.bind fun fuse _ => by
      obtain rfl : i = 0 := Nat.lt_one_iff.1 hi
      refine Draws.ite (Draws.pure ⟨rfl, fun int => (sum int).2.2⟩) (Draws.pure ⟨rfl, fun int => (sum int).2.1⟩)

/-- What is left of a sum is its value. -/
theorem freeSum_one (tag : Nat) (z : Term) : Draws (freeSum tag 1 [z]) fun v => v.1 = (z.round tag).1.a := Draws.pure rfl

/-- The sum of an element and one product, in the order that the choices make (R280). -/
theorem freeSum_product (tag a b c m : Nat) : Draws (freeSum tag 2 [⟨false, a, 0, []⟩, ⟨true, b, c, [m]⟩])
    fun z => fmtOfTag tag = none → z.1 = (b * c + a) % 2 ^ widthOf tag := by
  have rest : ∀ l ∈ [((⟨false, a, 0, []⟩ : Term), (⟨true, b, c, [m]⟩ : Term)), (⟨true, b, c, [m]⟩, ⟨false, a, 0, []⟩)],
      Draws (do
        let z ← addTerms tag l.1 l.2
        let v ← freeSum tag 1 [z.1]
        pure (v.1, z.2 ||| v.2)) fun z => fmtOfTag tag = none → z.1 = (b * c + a) % 2 ^ widthOf tag :=
    fun l hl => (addTerms_product tag a b c m l hl).bind fun z hz => (freeSum_one tag z.1).bind fun v hv =>
      Draws.pure fun int => by
        obtain ⟨value, hsum⟩ := hz
        rw [hv, Term.round, value]
        exact hsum int
  rw [freeSum]
  refine (Draws.freeBelow Nat.two_pos).bind fun i hi => ?_
  interval_cases i
  · refine (Draws.freeBelow Nat.one_pos).bind fun j hj => ?_
    obtain rfl : j = 0 := Nat.lt_one_iff.1 hj
    exact rest _ (List.mem_cons_self ..)
  · refine (Draws.freeBelow Nat.one_pos).bind fun j hj => ?_
    obtain rfl : j = 0 := Nat.lt_one_iff.1 hj
    exact rest _ (List.mem_cons_of_mem _ (List.mem_cons_self ..))

section merge

variable {q : State} {n : Nat} {v : Vector VBits 64} {res : Vector Res 64} {lanes : Vector (BitVec 5) 32}

theorem State.writing_strand? : (q.writing n v res lanes).strand? q.me.uid = some (q.writing n v res lanes).me := by
  simp [State.strand?, State.strands, State.writing]

theorem State.writing_modStrand (f : Strand → Strand) :
    (q.writing n v res lanes).modStrand q.me.uid f = { q.writing n v res lanes with me := f (q.writing n v res lanes).me } :=
  if_pos rfl

/-- A part that draws free choices, in a strand that writes elements. -/
theorem Ends.draws_writing {α β : Type} {m : M α} {f : α → M β} {D : α → Prop} {Q : β → State → Prop} (h : Draws m D)
    (hf : ∀ a n', D a → Ends (f a) (q.writing n' v res lanes) Q) : Ends (m >>= f) (q.writing n v res lanes) Q := by
  obtain ⟨a, n', run, ha⟩ := h (q.writing n v res lanes)
  exact Ends.after run (hf a n' ha)

theorem Ends.modStrand_writing {f : Strand → Strand} {P : PUnit → State → Prop}
    (h : P ⟨⟩ { q.writing n v res lanes with me := f (q.writing n v res lanes).me }) :
    Ends (modify fun s => s.modStrand q.me.uid f) (q.writing n v res lanes) P :=
  Ends.of_run (run_modify ..) (State.writing_modStrand (q := q) f ▸ h)

theorem Ends.modStrand_bind {α : Type} {f : Strand → Strand} {g : PUnit → M α} {P : α → State → Prop}
    (h : Ends (g ⟨⟩) { q.writing n v res lanes with me := f (q.writing n v res lanes).me } P) :
    Ends ((modify fun s => s.modStrand q.me.uid f) >>= g) (q.writing n v res lanes) P :=
  Ends.bind (Ends.modStrand_writing (P := fun _ t => t = _) rfl) fun _ _ e => e ▸ h

/-- The elements of a merge that are done: of the rows before row `i` and of some columns of it, those that the contribution has. -/
def TilePart.merges (p : TilePart) (done : List Nat) (i : Nat) (dn : List Nat) (r e : Nat) : Prop :=
  (r ∈ done ∨ (r = i ∧ e ∈ dn)) ∧ p.act.getLsbD e = true

theorem TilePart.merges_active {p : TilePart} {done dn : List Nat} {i j r e : Nat} (h : p.act.getLsbD j = true) :
    p.merges done i (dn ++ [j]) r e ↔ p.merges done i dn r e ∨ (r = i ∧ e = j) := by
  have here : e = j → p.act.getLsbD e = true := fun he => he ▸ h
  simp only [merges, List.mem_append, List.mem_singleton]
  tauto

theorem TilePart.merges_inactive {p : TilePart} {done dn : List Nat} {i j r e : Nat} (h : ¬ p.act.getLsbD j = true) :
    p.merges done i (dn ++ [j]) r e ↔ p.merges done i dn r e := by
  have skip : e = j → ¬ p.act.getLsbD e = true := fun he => he ▸ h
  simp only [merges, List.mem_append, List.mem_singleton]
  tauto

/-- The value that a merge leaves in an element of a tile with one contribution, for the tags of integers (R280). -/
def State.merged (q : State) (d : Nat) (p : TilePart) (r e x : Nat) : Prop :=
  fmtOfTag (q.me.vtagOf d) = none → x = (nth p.rows r 0 * elem (widthOf (q.me.vtagOf d)) e p.cols.toNat +
    cell q.me.v (widthOf (q.me.vtagOf d)) (d + r) e) % 2 ^ widthOf (q.me.vtagOf d)

/-- A strand in the course of the merge of a contribution into the tile from register `d`. -/
def State.merging (q : State) (d : Nat) (p : TilePart) (done : Nat → Nat → Prop) (s : State) : Prop :=
  ∃ n v res lanes, s = q.writing n v res lanes ∧ Tile q.me.v v d (widthOf (q.me.vtagOf d)) (q.merged d p) done

/-- One more element of a row is merged. -/
theorem Tile.merge {d i j x : Nat} {p : TilePart} {done dn : List Nat}
    (h : Tile q.me.v v d (widthOf (q.me.vtagOf d)) (q.merged d p) (p.merges done i dn)) (hd : d + 8 ≤ 64) (hi : i < 8)
    (hj : j < 8192 / widthOf (q.me.vtagOf d)) (act : p.act.getLsbD j = true) (fresh : i ∉ done ∧ j ∉ dn)
    (hx : fmtOfTag (q.me.vtagOf d) = none → x = (nth p.rows i 0 * elem (widthOf (q.me.vtagOf d)) j p.cols.toNat +
      cell v (widthOf (q.me.vtagOf d)) (d + i) j) % 2 ^ widthOf (q.me.vtagOf d)) :
    Tile q.me.v (setCell v (widthOf (q.me.vtagOf d)) (d + i) j x) d (widthOf (q.me.vtagOf d)) (q.merged d p)
      (p.merges done i (dn ++ [j])) := by
  refine (h.write hd hi hj fun int => ?_).congr fun r e _ _ => (TilePart.merges_active act).symm
  have old : ¬ p.merges done i dn i j := fun ⟨hdone, _⟩ => hdone.elim fresh.1 fun hdn => fresh.2 hdn.2
  rw [← h.old i j hi hj old, hx int, Nat.mod_mod]

theorem mergeTile_one {d : Nat} {p : TilePart} (ht : q.me.tiles = [⟨d, [p]⟩]) (hd : d + 8 ≤ 64) :
    Ends (mergeTile q.me.uid d) q fun _ t => ∃ n v res lanes,
      t = { q.writing n v res lanes with me := { (q.writing n v res lanes).me with tiles := [] } } ∧
      Tile q.me.v v d (widthOf (q.me.vtagOf d)) (q.merged d p) fun _ e => p.act.getLsbD e = true := by
  have found : q.strand? q.me.uid = some q.me := by simp [State.strand?, State.strands]
  unfold mergeTile
  refine Ends.get_bind ?_
  simp only [found, ht, List.find?_cons, beq_self_eq_true]
  refine Ends.bind (Ends.forIn (fun done => q.merging d p fun r e => r ∈ done ∧ p.act.getLsbD e = true)
    ⟨q.draw, q.me.v, q.me.res, q.me.lanes, rfl, Tile.start (by simp)⟩ ?_) ?_
  · rintro done i todo split _ ⟨n, v, res, lanes, rfl, tile⟩
    have hi : i < 8 := List.mem_range.1 (split ▸ List.mem_append_right done (List.mem_cons_self ..) : i ∈ below 8)
    refine Ends.bind (Ends.forIn (fun dn => q.merging d p (p.merges done i dn))
      ⟨n, v, res, lanes, rfl, tile.congr (by simp [TilePart.merges])⟩ ?_) ?_
    · rintro dn j todo' split' _ ⟨n, v, res, lanes, rfl, tile⟩
      have hj : j < 8192 / widthOf (q.me.vtagOf d) :=
        List.mem_range.1 (split' ▸ List.mem_append_right dn (List.mem_cons_self ..) : j ∈ below (8192 / widthOf (q.me.vtagOf d)))
      by_cases act : p.act.getLsbD j = true
      · simp only [List.filter_cons, act, if_true, List.filter_nil, List.isEmpty_cons, Bool.not_false, List.map_cons, List.map_nil,
          List.length_cons, List.length_nil, Nat.zero_add, Nat.reduceAdd]
        refine Ends.get_bind ?_
        simp only [State.writing_strand?, Option.elim_some]
        refine Ends.draws_writing (freeSum_product _ _ _ _ _) fun x m hx => Ends.modStrand_bind ?_
        obtain ⟨l, lane⟩ := Strand.laneOr_eq (q.writing m v res lanes).me j x.2
        rw [lane]
        exact Ends.pure ⟨rfl, m, setCell v (widthOf (q.me.vtagOf d)) (d + i) j x.1, res, l, rfl, tile.merge hd hi hj act
          ⟨not_mem_before List.nodup_range split, not_mem_before List.nodup_range split'⟩ hx⟩
      · simp only [List.filter_cons, act, Bool.false_eq_true, if_false, List.filter_nil, List.isEmpty_nil, Bool.not_true]
        exact Ends.pure ⟨rfl, n, v, res, lanes, rfl, tile.congr fun r e _ _ => (TilePart.merges_inactive act).symm⟩
    · rintro _ _ ⟨n, v, res, lanes, rfl, tile⟩
      refine Ends.modStrand_bind (Ends.pure ⟨rfl, n, v,
        if ((q.writing n v res lanes).me.vres (d + i)).inSlot then res.setIfInBounds (d + i) .dirty else res, lanes,
        by split <;> rfl, tile.congr fun r e _ he => ?_⟩)
      simp [TilePart.merges, below, he]
  · rintro _ _ ⟨n, v, res, lanes, rfl, tile⟩
    refine Ends.modStrand_writing ⟨n, v, res, lanes, ?_, tile.congr fun r e hr _ => by simp [below, hr]⟩
    have closed : (q.writing n v res lanes).me.tiles.filter (·.base != d) = [] := by simp [State.writing, ht]
    rw [closed]

end merge

end Sys2Proof.Machine

/-! An outer product, a merge or a clearing as an instruction (R237, R239, R278-R281). -/

namespace Sys2Proof.Machine

theorem mem_tile {d : VReg} {r : Nat} : r ∈ group d 8 ↔ d.toNat ≤ r ∧ r < d.toNat + 8 := by
  simp only [group, below, List.mem_map, List.mem_range]
  exact ⟨by rintro ⟨i, hi, rfl⟩; omega, fun h => ⟨r - d.toNat, by omega, by omega⟩⟩

theorem tile_bound {d : VReg} (h : d.toNat % 8 = 0) : d.toNat + 8 ≤ 64 := by
  have := d.isLt
  omega

theorem fmtOfTag_int {t : Nat} (h : t < 8) : fmtOfTag t = none := by interval_cases t <;> rfl

/-- a × b + c of a tag, as one product and sum (R279). -/
theorem tagFma_value {t : Nat} (h : t < 12) (rm a b c : Nat) : (tagFma t rm a b c).1 % 2 ^ widthOf t =
    (if t < 8 then ((a * b + c) % 2 ^ widthOf t, (0 : FSet)) else fFma (tagFmt t) rm a b c false false).1 := by
  rw [Nat.mod_eq_of_lt (tagFma_lt h ..)]
  split
  next h8 => simp only [tagFma, fmtOfTag_int h8]
  next h8 =>
    obtain ⟨-, -, float⟩ := tagFmt_fits (Nat.le_of_not_lt h8) h
    simp only [tagFma, float]

section merge

variable {q : State} {e : VEntry} {d : VReg}

/-- `vmrd` of a tile with one contribution (R281). -/
theorem runTileRead_one {p : TilePart} (hl : q.me.live = true) (hs : q.me.vstart = 0)
    (hr : ∀ r ∈ group d 8, (q.me.vres r).inSlot = true) (ht : q.me.tiles = [⟨d.toNat, [p]⟩]) (hd : d.toNat % 8 = 0) :
    Ends (runTileRead e d) q fun out t => out = .retire none ∧ ∃ n v res lanes,
      t = { q.writing n v res lanes with me := { (q.writing n v res lanes).me with tiles := [] } } ∧
      Tile q.me.v v d.toNat (widthOf (q.me.vtagOf d.toNat)) (q.merged d.toNat p) fun _ e => p.act.getLsbD e = true := by
  have found : q.strand? q.me.uid = some q.me := by simp [State.strand?, State.strands]
  have base : d.toNat / 8 * 8 = d.toNat := by omega
  unfold runTileRead
  refine Ends.after (whole_start hs) (Ends.after (reside_resident hl hr) (Ends.after (run_me q)
    (Ends.bind ?_ fun _ t h => Ends.pure ⟨rfl, h⟩)))
  unfold mergeFor
  refine Ends.get_bind ?_
  simp only [found, ht, base, List.any_cons, beq_self_eq_true, Bool.true_or, if_true]
  exact mergeTile_one ht (tile_bound hd)

end merge

/-- What an instruction on tiles leaves of the rest of the state (R239, R280): `t` is the strand with its open tiles. -/
def State.afterTile (s u : State) (t : Strand) : Prop :=
  u = { s.inStrip with draw := u.draw, me := { t with
    running := s.me.strip, pc := s.me.pc + 8, vcommit := s.me.vcommit + 1, vseq := s.me.vseq + 1, deps := u.me.deps
    stamp := u.me.stamp, v := u.me.v, res := u.me.res, lanes := u.me.lanes } }

section ends

variable {s : State} {i : Instr} {o : VOp} {op : M VOp} {n : Nat} {v : Vector VBits 64} {res : Vector Res 64}
  {lanes : Vector (BitVec 5) 32} {T : List OpenTile}

theorem State.issued_inStrip : (s.issued i o n).inStrip = { s.inStrip with me := (s.issued i o n).inStrip.me } := by
  unfold State.inStrip
  by_cases h : s.me.running = s.me.strip
  · have h' : (s.issued i o n).me.running = (s.issued i o n).me.strip := h
    rw [if_pos h, if_pos h']
    rfl
  · have h' : ¬(s.issued i o n).me.running = (s.issued i o n).me.strip := h
    rw [if_neg h, if_neg h']
    rfl

/-- A strand whose queue was empty retires the entry of an instruction without a scalar destination. -/
theorem Strand.retire_issued {t u : Strand} (hq : t.vq = []) (hs : t.vstart = 0) (hd : o.sd = none) {ds : List Dep}
    (hu : u = Strand.retire { t.enqueue (t.entry i o) with
      pc := t.pc + 8, running := t.strip, deps := ds, v := v, res := res, lanes := lanes, tiles := T } none) :
    u = { t with running := t.strip, pc := t.pc + 8, vcommit := t.vcommit + 1, vseq := t.vseq + 1, deps := u.deps, stamp := u.stamp
                 v := v, res := res, lanes := lanes, tiles := T } := by
  cases t
  cases hq
  cases hs
  subst hu
  simp only [Strand.retire, Strand.enqueue, Strand.entry, hd]
  rfl

theorem State.afterTile_retire (hs : s.Issues 1) (hd : o.sd = none) :
    s.afterTile (State.entryEnds { (s.issued i o 8).inStrip.writing n v res lanes with me :=
      { ((s.issued i o 8).inStrip.writing n v res lanes).me with tiles := T } } (.retire none)) { s.me with tiles := T } := by
  have ends : State.entryEnds { (s.issued i o 8).inStrip.writing n v res lanes with me :=
      { ((s.issued i o 8).inStrip.writing n v res lanes).me with tiles := T } } (.retire none) =
      { s.inStrip with draw := n, me := Strand.retire { s.me.enqueue (s.me.entry i o) with
        pc := s.me.pc + 8, running := s.me.strip, deps := if s.me.running = s.me.strip then s.me.deps else [], v := v, res := res
        lanes := lanes, tiles := T } none } := by
    unfold State.entryEnds State.writing
    rw [State.inStrip_me, State.issued_inStrip]
    rfl
  have retired := Strand.retire_issued (i := i) (v := v) (res := res) (lanes := lanes) (T := T) hs.empty hs.start hd
    (ds := if s.me.running = s.me.strip then s.me.deps else []) rfl
  rw [ends]
  exact congrArg (fun t => { s.inStrip with draw := n, me := t }) retired

theorem State.writing_tiles {q : State} (h : q.me.tiles = T) : q.writing n v res lanes =
    { q.writing n v res lanes with me := { (q.writing n v res lanes).me with tiles := T } } := by
  subst h
  rfl

/-- An instruction on tiles whose entry retires is over. -/
theorem tile_next (hs : s.Issues 1) (hx : exec i s = vissue i 1 8 none (pure o) s) (hd : o.sd = none)
    (run : (runEntry (s.me.entry i o)).run (s.issued i o 8).inStrip =
      .ok (.retire none) { (s.issued i o 8).inStrip.writing n v res lanes with me :=
        { ((s.issued i o 8).inStrip.writing n v res lanes).me with tiles := T } }) :
    ∃ u, exec i s = .next u ∧ s.afterTile u { s.me with tiles := T } ∧ u.me.v = v :=
  ⟨_, hx.trans (vissue_ends hs (by decide) (run_pure ..) run (started_space s i o 8)), State.afterTile_retire hs hd, rfl⟩

end ends

section operands

variable {s : State} {d a b : VReg} {k : KReg} {g : BitVec 8} {i : Instr} {o : VOp}

theorem started_v (s : State) (i : Instr) (o : VOp) (n : Nat) : (s.issued i o n).inStrip.me.v = s.me.v := by
  rw [State.inStrip_me]
  rfl

theorem started_vreg (s : State) (i : Instr) (o : VOp) (n r : Nat) : (s.issued i o n).inStrip.me.vreg r = s.me.vreg r := by
  rw [Strand.vreg, started_v, Strand.vreg]

theorem started_live (s : State) (i : Instr) (o : VOp) (n : Nat) : (s.issued i o n).inStrip.me.live = s.me.live := by
  rw [State.inStrip_me]
  rfl

theorem started_vres (s : State) (i : Instr) (o : VOp) (n r : Nat) : (s.issued i o n).inStrip.me.vres r = s.me.vres r := by
  rw [State.inStrip_me]
  rfl

theorem started_tiles (s : State) (i : Instr) (o : VOp) (n : Nat) : (s.issued i o n).inStrip.me.tiles = s.me.tiles := by
  rw [State.inStrip_me]
  rfl

theorem started_rows (s : State) (i : Instr) (o : VOp) (n : Nat) (a : VReg) (g : Nat) :
    (s.issued i o n).inStrip.me.rows a g = s.me.rows a g := by
  rw [State.inStrip_me]
  rfl

theorem entry_frm (t : Strand) (i : Instr) (o : VOp) : (t.entry i o).frm = t.frm := rfl

theorem started_merged (s : State) (i : Instr) (o : VOp) (n : Nat) (d : Nat) (p : TilePart) :
    (s.issued i o n).inStrip.merged d p = s.merged d p := by
  unfold State.merged
  simp only [started_vtagOf, started_v]

/-- The columns of an entry are the active elements (R240). -/
theorem entry_columns (s : State) (i : Instr) (o : VOp) (n : Nat) (k : KReg) (cap : Nat) :
    (s.me.entry i o).columns (s.issued i o n).inStrip.me k cap = s.me.actives (s.me.kreg k.toNat) cap := by
  rw [VEntry.columns, started_active, started_kreg, ← Strand.active_zero]
  rfl

theorem Strand.mem_actives {t : Strand} {m : MBits} {cap e : Nat} : e ∈ t.actives m cap ↔ t.isActive m cap e = true := by
  simp only [Strand.actives, Strand.isActive, List.mem_filter, below, List.mem_range, Bool.and_eq_true, decide_eq_true_eq]
  tauto

theorem Strand.lt_of_isActive {t : Strand} {m : MBits} {cap e : Nat} (h : t.isActive m cap e = true) : e < cap := by
  simp only [Strand.isActive, Bool.and_eq_true, decide_eq_true_eq] at h
  omega

theorem Strand.nth_rows (t : Strand) (a : VReg) (g : Nat) {i : Nat} (hi : i < 8) :
    nth (t.rows a g) i 0 = t.elemAt a.toNat (widthOf (t.vtagOf a.toNat)) (8 * g + i) := by
  simp [nth, Strand.rows, below, hi]

/-- A register holds at most 2048 elements (R232). -/
theorem vlmax_le {t : Nat} (h : t < 12) : vlmax t ≤ 2048 := by interval_cases t <;> decide

theorem State.vecReady.tileOk (hs : s.vecReady 1 ([a.toNat, b.toNat] ++ group d 8)) (hb : s.me.vtagOf b.toNat = s.me.vtagOf a.toNat)
    (ha : s.me.vtagOf a.toNat < 12) (ht : ∀ r ∈ group d 8, s.me.vtagOf r = s.me.vtagOf a.toNat)
    (hg : 8 * g.toNat + 7 < vlmax (s.me.vtagOf a.toNat)) : (s.issued i o 8).inStrip.TileOk (s.me.entry i o) d a b g.toNat := by
  have mode : s.me.frm.toNat ≤ 4 := by
    obtain ⟨-, -, -, -, -, -, -, -, -, -, mode, -⟩ := hs
    exact mode
  refine ⟨hs.clean, ?_, ?_, ?_, ?_, ?_, mode⟩
  · rw [started_vstart, hs.issues.start]
  · rwa [started_vtagOf]
  · rwa [started_vtagOf]
  · rwa [started_vtagOf, started_vtagOf]
  · intro r hr
    rw [started_vtagOf, started_vtagOf, ht r hr]

end operands

/-- The registers outside a tile are as before. -/
theorem Tile.kept {t u : Strand} {d : VReg} {w : Nat} {val : Nat → Nat → Nat → Prop} {done : Nat → Nat → Prop}
    (h : Tile t.v u.v d.toNat w val done) : ∀ r, r < 64 → r ∉ group d 8 → u.vreg r = t.vreg r :=
  fun r _ hr => h.outside r fun hr' => hr (mem_tile.2 hr')

section instructions

variable {s : State} {d a b : VReg} {k : KReg} {g : BitVec 8}

/-- `vmop.o` (R278, R279). -/
theorem exec_vmopO {val : Nat → Nat → Nat → Prop}
    (h : (s.issued (.vmopO d a b k g) (.tile true d a b k g.toNat) 8).inStrip.TileOk
      (s.me.entry (.vmopO d a b k g) (.tile true d a b k g.toNat)) d a b g.toNat)
    (hs : s.Issues 1) (hd : d.toNat % 8 = 0) (hb : b.toNat ∉ group d 8)
    (hval : ∀ i < 8, ∀ j, s.me.isActive (s.me.kreg k.toNat) (vlmax (s.me.vtagOf a.toNat)) j = true → val i j
      ((tagFma (s.me.vtagOf a.toNat) s.me.frm.toNat (nth (s.me.rows a g.toNat) i 0)
        (cell s.me.v (widthOf (s.me.vtagOf a.toNat)) b.toNat j)
        (cell s.me.v (widthOf (s.me.vtagOf a.toNat)) (d.toNat + i) j)).1 % 2 ^ widthOf (s.me.vtagOf a.toNat))) :
    ∃ u, exec (.vmopO d a b k g) s = .next u ∧ s.afterTile u s.me ∧
      Tile s.me.v u.me.v d.toNat (widthOf (s.me.vtagOf a.toNat)) val
        fun _ j => s.me.isActive (s.me.kreg k.toNat) (vlmax (s.me.vtagOf a.toNat)) j = true := by
  obtain ⟨_, _, run, rfl, v, res, lanes, rfl, tile⟩ := runTile_ordered (k := k) (val := val) h (tile_bound hd) (fun hb' => hb (mem_tile.2 hb'))
    (by simpa only [started_vtagOf, started_rows, started_v, entry_columns, Strand.mem_actives, entry_frm] using hval)
  simp only [started_vtagOf, started_v, entry_columns, Strand.mem_actives] at tile
  rw [State.writing_tiles (started_tiles ..)] at run
  obtain ⟨u, next, after, rfl⟩ := tile_next (i := .vmopO d a b k g) (o := .tile true d a b k g.toNat) hs rfl rfl run
  exact ⟨u, next, after, tile⟩

/-- `vmop.r` (R243, R280). -/
theorem exec_vmopR
    (h : (s.issued (.vmopR d a b k g) (.tile false d a b k g.toNat) 8).inStrip.TileOk
      (s.me.entry (.vmopR d a b k g) (.tile false d a b k g.toNat)) d a b g.toNat) (hs : s.Issues 1) :
    ∃ u p, exec (.vmopR d a b k g) s = .next u ∧ s.afterTile u { s.me with tiles := [⟨d.toNat, [p]⟩] } ∧ u.me.v = s.me.v ∧
      p.rows = s.me.rows a g.toNat ∧ p.cols = s.me.vreg b.toNat ∧
      (∀ e, e < 2048 → p.act.getLsbD e = s.me.isActive (s.me.kreg k.toNat) (vlmax (s.me.vtagOf a.toNat)) e) ∧ p.frm = s.me.frm := by
  obtain ⟨u, next, after, same⟩ := tile_next (i := .vmopR d a b k g) (o := .tile false d a b k g.toNat) hs rfl rfl (runTile_open h)
  refine ⟨u, _, next, after, same.trans (started_v ..), started_rows .., started_vreg .., fun e he => ?_, rfl⟩
  rw [State.contribution, getLsbD_foldl_setBit _ _ he, entry_columns, started_vtagOf]
  rw [Bool.eq_iff_iff]
  simp [Strand.mem_actives]

/-- `vmzero` (R281). -/
theorem exec_vmzero (hs : s.vecReady 1 (group d 8)) (hd : d.toNat % 8 = 0) :
    ∃ u, exec (.vmzero d) s = .next u ∧ s.afterTile u s.me ∧ (∀ r, r ∉ group d 8 → u.me.vreg r = s.me.vreg r) ∧
      ∀ r ∈ group d 8, u.me.vreg r = 0 := by
  obtain ⟨v, res, run, cleared, kept⟩ := runTileZero_resident (e := s.me.entry (.vmzero d) (.tileZero d))
    ((started_vstart ..).trans hs.issues.start) (hs.clean (i := .vmzero d) (o := .tileZero d) (n := 8))
  rw [State.writing_tiles (started_tiles ..)] at run
  obtain ⟨u, next, after, rfl⟩ := tile_next (i := .vmzero d) (o := .tileZero d) hs.issues rfl rfl run
  refine ⟨u, next, after, fun r hr => (kept r hr).trans (started_vreg ..), fun r hr => cleared r hr ?_⟩
  have := tile_bound hd
  have := mem_tile.1 hr
  omega

/-- `vmrd` of a tile with one contribution (R281). -/
theorem exec_vmrd {p : TilePart} (hp : s.me.tiles = [⟨d.toNat, [p]⟩])
    (hs : State.vecReady { s with me := { s.me with tiles := [] } } 1 (group d 8)) (hd : d.toNat % 8 = 0) :
    ∃ u, exec (.vmrd d) s = .next u ∧ s.afterTile u { s.me with tiles := [] } ∧
      Tile s.me.v u.me.v d.toNat (widthOf (s.me.vtagOf d.toNat)) (s.merged d.toNat p) fun _ e => p.act.getLsbD e = true := by
  have issues : s.Issues 1 := by
    obtain ⟨live, placed, eager, unheld, calm, empty, owner, allowed, start, vpend, kpend⟩ := hs.issues
    exact ⟨live, placed, eager, unheld, calm, empty, owner, allowed, start, vpend, kpend⟩
  have resident : ∀ r ∈ group d 8, ((s.issued (.vmrd d) (.tileRead d) 8).inStrip.me.vres r).inSlot = true := by
    obtain ⟨-, -, -, -, -, -, -, -, -, -, -, -, -, -, -, -, slots⟩ := hs
    exact fun r hr => (started_vres s ..).symm ▸ slots r hr
  obtain ⟨_, _, run, rfl, n, v, res, lanes, rfl, tile⟩ := runTileRead_one (q := (s.issued (.vmrd d) (.tileRead d) 8).inStrip)
    (e := s.me.entry (.vmrd d) (.tileRead d)) (p := p) ((started_live ..).trans issues.live)
    ((started_vstart ..).trans issues.start) resident ((started_tiles ..).trans hp) hd
  obtain ⟨u, next, after, rfl⟩ := tile_next (i := .vmrd d) (o := .tileRead d) issues rfl rfl run
  simp only [started_v, started_vtagOf, started_merged] at tile
  exact ⟨u, next, after, tile⟩

end instructions

/-- Settles O36: the elements of an outer product, its contribution, and the registers of a tile that is cleared or merged. -/
theorem tileResults : Obligations.TileResults := by
  intro s d a b k g ta w tile i el act fused frame hd
  refine ⟨fun hs hna hnb hb hta ht hg => ⟨?_, ?_⟩, fun hs => ?_, fun p hp hs => ?_⟩
  · have value : ∀ i < 8, ∀ j, act j = true → (tagFma ta s.me.frm.toNat (nth (s.me.rows a g.toNat) i 0) (cell s.me.v w b.toNat j)
        (cell s.me.v w (d.toNat + i) j)).1 % 2 ^ w = (fused (el a (8 * g.toNat + i)) (el b j) (s.me.elemAt (d.toNat + i) w j)).1 := by
      intro i hi j hj
      have inside := Strand.lt_of_isActive hj
      rw [tagFma_value hta, Strand.nth_rows _ _ _ hi, ← Strand.elemAt_eq_cell _ inside, ← Strand.elemAt_eq_cell _ inside]
    obtain ⟨u, next, after, written⟩ := exec_vmopO (val := fun i j x => x =
      (fused (el a (8 * g.toNat + i)) (el b j) (s.me.elemAt (d.toNat + i) w j)).1) (hs.tileOk hb hta ht hg) hs.issues hd hnb value
    refine ⟨u, next, ⟨after, written.kept⟩, fun r e hr he => ?_⟩
    rw [Strand.elemAt_eq_cell _ he]
    split
    next ha => exact written.new r e hr he ha
    next ha => rw [written.old r e hr he ha, Strand.elemAt_eq_cell _ he]
  · obtain ⟨u, p, next, after, same, rows, cols, active, frm⟩ := exec_vmopR (hs.tileOk hb hta ht hg) hs.issues
    exact ⟨u, p, next, ⟨after, fun r _ _ => congrArg (fun v : Vector VBits 64 => v.toList.getD r 0) same⟩, same, rows, cols,
      fun e he => active e (he.trans_le (vlmax_le hta)), frm⟩
  · obtain ⟨u, next, after, kept, cleared⟩ := exec_vmzero hs hd
    exact ⟨u, next, ⟨after, fun r _ hr => kept r hr⟩, cleared⟩
  · obtain ⟨u, next, after, written⟩ := exec_vmrd hp hs hd
    refine ⟨u, next, ⟨after, written.kept⟩, fun h8 r e => ?_⟩
    intro w hr he
    rw [Strand.elemAt_eq_cell _ he, Strand.elemAt_eq_cell _ he]
    split
    next ha => exact written.new r e hr he ha (fmtOfTag_int h8)
    next ha => exact written.old r e hr he ha

end Sys2Proof.Machine

/-! Scalar instructions that access memory: how one of a length ends, and the checks of its address (R126, R205, R207). -/

namespace Sys2Proof.Machine

/-- An instruction of `n` bytes: its effect, then the next instruction. -/
def instrOf (n : Nat) (m : M Unit) (s : State) : StepOut := runInstr (do m; advance n) s

section address

variable {m : M Unit} {s s' : State} {n : Nat}

theorem instrOf_ok (h : m.run s = .ok () s') : instrOf n m s = .next (s'.skip n) :=
  runInstr_ok (by simp only [run_bind, h, run_advance]; rfl)

/-- An effect that ends in a write of a register retires the state before that write. -/
theorem State.skip_setS (s : State) (n : Nat) (d : SReg) (x : Word) : ({ s with me := s.me.setS d x }).skip n = s.retire n d x := by
  simp only [State.skip, State.retire, Strand.setS_pc]

theorem instrOf_trap {t : Trap} (h : m.run s = .error (.trap t false) s') : instrOf n m s = .next (s.takeTrap t false false) :=
  runInstr_trap (s' := s') (by simp only [run_bind, h])

theorem instrOf_stall (h : m.run s = .error (.stall false) s') : instrOf n m s = .next s :=
  runInstr_stall (s' := s') (by simp only [run_bind, h])

theorem effAddr_plain {b : SReg} (h : s.me.readable b) {k : Nat} (off : BitVec k) :
    (effAddr b off).run s = .ok (s.me.sreg b + off.signExtend 64) s := by
  simp only [effAddr, run_bind, readS_plain h, run_pure]

/-- A misaligned address traps with cause 0x08 (R126). -/
theorem aligned_run (ea : Word) (n : Nat) (s : State) :
    (aligned ea n).run s = if ea.toNat % n = 0 then .ok () s else .error (.trap ⟨8, ea, .sup⟩ false) s := by
  by_cases h : ea.toNat % n = 0 <;> simp [aligned, h]

/-- An address without a place raises the fault of its access. -/
theorem place_error {va : Word} {acc : Acc} {e : PErr} (cause : Nat) (h : (placeE va acc).run s = .ok (.error e) s') :
    (place va acc cause).run s = .error (.trap ⟨cause, va, e.route⟩ false) s' := by
  simp only [place, run_bind, h, run_trapAt]

variable {d a b : SReg} {k : Nat} {off : BitVec k} {ext : Nat → Word} {e : PErr}

theorem load_misaligned (hb : s.me.readable b) (h : (s.me.sreg b + off.signExtend 64).toNat % n ≠ 0) :
    (load d b off n ext).run s = .error (.trap ⟨8, s.me.sreg b + off.signExtend 64, .sup⟩ false) s := by
  simp only [load, loadAt, run_bind, effAddr_plain hb, aligned_run, h, if_false]

theorem load_no_place (hb : s.me.readable b) (h : (s.me.sreg b + off.signExtend 64).toNat % n = 0)
    (hp : (placeE (s.me.sreg b + off.signExtend 64) .r).run s = .ok (.error e) s') :
    (load d b off n ext).run s = .error (.trap ⟨6, s.me.sreg b + off.signExtend 64, e.route⟩ false) s' := by
  simp only [load, loadAt, run_bind, effAddr_plain hb, aligned_run, h, if_true, place_error 6 hp]

theorem store_misaligned (hd : s.me.readable d) (hb : s.me.readable b)
    (h : (s.me.sreg b + off.signExtend 64).toNat % n ≠ 0) :
    (store d b off n).run s = .error (.trap ⟨8, s.me.sreg b + off.signExtend 64, .sup⟩ false) s := by
  simp only [store, storeAt, run_bind, readS_plain hd, effAddr_plain hb, aligned_run, h, if_false]

theorem store_no_place (hd : s.me.readable d) (hb : s.me.readable b)
    (h : (s.me.sreg b + off.signExtend 64).toNat % n = 0)
    (hp : (placeE (s.me.sreg b + off.signExtend 64) .w).run s = .ok (.error e) s') :
    (store d b off n).run s = .error (.trap ⟨7, s.me.sreg b + off.signExtend 64, e.route⟩ false) s' := by
  simp only [store, storeAt, run_bind, readS_plain hd, effAddr_plain hb, aligned_run, h, if_true, place_error 7 hp]

variable {op : AmoOp} {w sc : BitVec 2} {ar : BitVec 1}

theorem amo_misaligned (hd : s.me.readable d) (ha : s.me.readable a) (hb : s.me.readable b)
    (h : (s.me.sreg a).toNat % op.size w.toNat ≠ 0) :
    (amo op d a b w sc ar).run s = .error (.trap ⟨8, s.me.sreg a, .sup⟩ false) s := by
  by_cases cas : op = .cas
  · simp only [amo, cas, if_true, run_bind, readS_plain hd, readS_plain ha, readS_plain hb, aligned_run, cas ▸ h, if_false]
  · simp only [amo, cas, if_false, run_bind, run_pure, readS_plain ha, readS_plain hb, aligned_run, h]

theorem amo_no_place (hd : s.me.readable d) (ha : s.me.readable a) (hb : s.me.readable b)
    (h : (s.me.sreg a).toNat % op.size w.toNat = 0) (hp : (placeE (s.me.sreg a) .rw).run s = .ok (.error e) s') :
    (amo op d a b w sc ar).run s = .error (.trap ⟨7, s.me.sreg a, e.route⟩ false) s' := by
  by_cases cas : op = .cas
  · simp only [amo, cas, if_true, run_bind, readS_plain hd, readS_plain ha, readS_plain hb, aligned_run, cas ▸ h, place_error 7 hp]
  · simp only [amo, cas, if_false, run_bind, run_pure, readS_plain ha, readS_plain hb, aligned_run, h, if_true, place_error 7 hp]

end address

/-- The rows of `anyLoad` are loads of their offset and size. -/
theorem exec_anyLoad (off : BitVec 11) (offL : BitVec 41) : ∀ p ∈ anyLoad off offL,
    ∃ (k : Nat) (o : BitVec k) (ext : Nat → Word), p.2.2.1 = o.signExtend 64 ∧
      ∀ d b s, exec (p.1 d b) s = instrOf p.2.1 (load d b o p.2.2.2.1 ext) s := by
  simp only [anyLoad, loads, loadsL, List.map_cons, List.map_nil, List.cons_append, List.nil_append, List.forall_mem_cons]
  exact ⟨⟨11, off, _, rfl, fun _ _ _ => rfl⟩, ⟨11, off, _, rfl, fun _ _ _ => rfl⟩, ⟨11, off, _, rfl, fun _ _ _ => rfl⟩,
    ⟨11, off, _, rfl, fun _ _ _ => rfl⟩, ⟨11, off, _, rfl, fun _ _ _ => rfl⟩, ⟨11, off, _, rfl, fun _ _ _ => rfl⟩,
    ⟨11, off, _, rfl, fun _ _ _ => rfl⟩, ⟨41, offL, _, rfl, fun _ _ _ => rfl⟩, ⟨41, offL, _, rfl, fun _ _ _ => rfl⟩,
    ⟨41, offL, _, rfl, fun _ _ _ => rfl⟩, ⟨41, offL, _, rfl, fun _ _ _ => rfl⟩, ⟨41, offL, _, rfl, fun _ _ _ => rfl⟩,
    ⟨41, offL, _, rfl, fun _ _ _ => rfl⟩, ⟨41, offL, _, rfl, fun _ _ _ => rfl⟩, by simp⟩

/-- The rows of `anyStore` are stores of their offset and size. -/
theorem exec_anyStore (off : BitVec 11) (offL : BitVec 41) : ∀ p ∈ anyStore off offL,
    ∃ (k : Nat) (o : BitVec k), p.2.2.1 = o.signExtend 64 ∧
      ∀ x b s, exec (p.1 x b) s = instrOf p.2.1 (store x b o p.2.2.2) s := by
  simp only [anyStore, List.forall_mem_cons]
  exact ⟨⟨11, off, rfl, fun _ _ _ => rfl⟩, ⟨11, off, rfl, fun _ _ _ => rfl⟩, ⟨11, off, rfl, fun _ _ _ => rfl⟩,
    ⟨11, off, rfl, fun _ _ _ => rfl⟩, ⟨41, offL, rfl, fun _ _ _ => rfl⟩, ⟨41, offL, rfl, fun _ _ _ => rfl⟩,
    ⟨41, offL, rfl, fun _ _ _ => rfl⟩, ⟨41, offL, rfl, fun _ _ _ => rfl⟩, by simp⟩

/-- `amo.fadd` and the rows of `atomics` are atomics of their size. -/
theorem exec_atomics (d a b : SReg) (sc w : BitVec 2) (ar : BitVec 1) :
    ∀ i ∈ (Instr.amoFadd d a b sc w ar, nth [2, 2, 4, 8] w.toNat 8) :: atomics.map fun p => (p.1 d a b sc w ar, 2 ^ w.toNat),
      ∃ op : AmoOp, i.2 = op.size w.toNat ∧ ∀ s, exec i.1 s = instrOf 4 (amo op d a b w sc ar) s := by
  simp only [atomics, List.map_cons, List.map_nil, List.forall_mem_cons]
  exact ⟨⟨.fadd, rfl, fun _ => rfl⟩, ⟨.swap, rfl, fun _ => rfl⟩, ⟨.add, rfl, fun _ => rfl⟩, ⟨.and, rfl, fun _ => rfl⟩,
    ⟨.or, rfl, fun _ => rfl⟩, ⟨.xor, rfl, fun _ => rfl⟩, ⟨.min, rfl, fun _ => rfl⟩, ⟨.max, rfl, fun _ => rfl⟩,
    ⟨.minu, rfl, fun _ => rfl⟩, ⟨.maxu, rfl, fun _ => rfl⟩, ⟨.cas, rfl, fun _ => rfl⟩, by simp⟩

end Sys2Proof.Machine

/-! Full bits of the scratch: `ldsync` and `fclr` (R114, R206). -/

namespace Sys2Proof.Machine

section fullBits

variable {s : State} {d b : SReg} {k : Nat} {off : BitVec k} {ea : Word} {a : Nat}

/-- The scratch is placed in whole granules: an aligned address stays aligned (R111). -/
theorem scratchPlace_aligned (h : (scratchPlace ea).run s = .ok (some a) s) (h8 : ea.toNat % 8 = 0) : a % 8 = 0 := by
  simp only [scratchPlace, run_bind, run_get] at h
  cases hs : s.split? s.me.owner.lid s.me.clu with
  | none => simp [hs] at h
  | some x =>
    simp only [hs, run_pure, EStateM.Result.ok.injEq, and_true] at h
    split at h
    · obtain ⟨u, -, rfl⟩ := Option.map_eq_some_iff.1 h
      simp only [stashAt, apertureBase]
      omega
    · cases h

theorem scratchOnly_inside (h : inAperture ea = true) (hp : (scratchPlace ea).run s = .ok (some a) s) (c : Nat) :
    (scratchOnly ea c).run s = .ok a s := by
  simp only [scratchOnly, run_bind, run_get, h, if_true, hp, run_pure]

/-- Outside the aperture, or at or above S, a strand of a partition takes the fault itself (R206). -/
theorem scratchOnly_outside (ho : s.me.owner ≠ .hyp) (h : inAperture ea = false ∨ (scratchPlace ea).run s = .ok none s) (c : Nat) :
    (scratchOnly ea c).run s = .error (.trap ⟨c, ea, .sup⟩ false) s := by
  cases inside : inAperture ea with
  | false =>
    simp only [scratchOnly, run_bind, run_get, inside, Bool.false_eq_true, if_false, run_pure, ho, decide_false, Bool.false_and,
      run_trapAt]
  | true =>
    have none_here := h.resolve_left (by simp [inside])
    simp only [scratchOnly, run_bind, run_get, inside, if_true, none_here, ho, if_false, run_trapAt, decide_false,
      Bool.false_and, Bool.false_eq_true]

theorem loadSync_full (hb : s.me.readable b) (hd : s.me.writable d) (h : s.me.sreg b + off.signExtend 64 = ea)
    (h8 : ea.toNat % 8 = 0) (hin : inAperture ea = true) (hp : (scratchPlace ea).run s = .ok (some a) s) (hf : s.fullAt a = true)
    (hset : s.settled a 8) (hrest : s.resting a 8) (hbad : s.badAt a 8 = false) :
    (loadSync d b off).run s = .ok () { s.acquire with me := s.me.setS d (wd (s.natAt a 8)) } := by
  have lags : (⟨a, .scratch, false⟩ : Place).lags = true := rfl
  have clean : s.acquire.badAt a 8 = false := hbad
  have write := writeS_plain (s := s.acquire) (x := wd (s.natAt a 8)) hd
  simp only [loadSync, run_bind, effAddr_plain hb, h, aligned_run, h8, if_true, scratchOnly_inside hin hp, run_get, run_waitFor, hf,
    loadPath, loadFrom, lags, readAs_settled _ (scratchPlace_aligned hp h8) hset hrest, run_modify, writeMem, run_me, clean,
    Bool.false_and, Bool.false_eq_true, if_false, write]
  rfl

theorem loadSync_empty (hb : s.me.readable b) (h : s.me.sreg b + off.signExtend 64 = ea) (h8 : ea.toNat % 8 = 0)
    (hin : inAperture ea = true) (hp : (scratchPlace ea).run s = .ok (some a) s) (hf : s.fullAt a = false) :
    (loadSync d b off).run s = .error (.stall false) s := by
  simp only [loadSync, run_bind, effAddr_plain hb, h, aligned_run, h8, if_true, scratchOnly_inside hin hp, run_get, run_waitFor, hf,
    Bool.false_eq_true, if_false]

theorem loadSync_misaligned (hb : s.me.readable b) (h : s.me.sreg b + off.signExtend 64 = ea) (h8 : ea.toNat % 8 ≠ 0) :
    (loadSync d b off).run s = .error (.trap ⟨8, ea, .sup⟩ false) s := by
  simp only [loadSync, run_bind, effAddr_plain hb, h, aligned_run, h8, if_false]

theorem loadSync_outside (hb : s.me.readable b) (h : s.me.sreg b + off.signExtend 64 = ea) (h8 : ea.toNat % 8 = 0)
    (ho : s.me.owner ≠ .hyp) (hout : inAperture ea = false ∨ (scratchPlace ea).run s = .ok none s) :
    (loadSync d b off).run s = .error (.trap ⟨6, ea, .sup⟩ false) s := by
  simp only [loadSync, run_bind, effAddr_plain hb, h, aligned_run, h8, if_true, scratchOnly_outside ho hout]

theorem clearFull_inside (hb : s.me.readable b) (h : s.me.sreg b + off.signExtend 64 = ea) (hin : inAperture ea = true)
    (hp : (scratchPlace ea).run s = .ok (some a) s) : (clearFull b off).run s = .ok () (s.clrFull (a / 64)) := by
  simp only [clearFull, run_bind, effAddr_plain hb, h, scratchOnly_inside hin hp, run_modify]

theorem clearFull_outside (hb : s.me.readable b) (h : s.me.sreg b + off.signExtend 64 = ea) (ho : s.me.owner ≠ .hyp)
    (hout : inAperture ea = false ∨ (scratchPlace ea).run s = .ok none s) :
    (clearFull b off).run s = .error (.trap ⟨7, ea, .sup⟩ false) s := by
  simp only [clearFull, run_bind, effAddr_plain hb, h, scratchOnly_outside ho hout]

end fullBits

/-- Settles O13: the outcomes of `loadSync` and `clearFull`, of either length. -/
theorem fullBits : Obligations.FullBits := by
  intro off offL s d b hb p hp
  obtain ⟨k, o, ea, sync, clear⟩ : ∃ (k : Nat) (o : BitVec k), s.me.sreg b + o.signExtend 64 = s.me.sreg b + p.2.2.1 ∧
      (∀ s, exec p.1 s = instrOf p.2.2.2 (loadSync d b o) s) ∧ ∀ s, exec p.2.1 s = instrOf p.2.2.2 (clearFull b o) s := by
    rcases hp with _ | ⟨_, _ | ⟨_, h⟩⟩
    · exact ⟨11, off, rfl, fun _ => rfl, fun _ => rfl⟩
    · exact ⟨41, offL, rfl, fun _ => rfl, fun _ => rfl⟩
    · cases h
  refine ⟨fun a hin ha => ⟨fun h8 hd hf hset hrest hbad => ?_, fun h8 hf => ?_, fun h8 => ?_, ?_⟩, fun ⟨pid, c, q, l, ho⟩ hout => ?_⟩
  · exact (sync s).trans ((instrOf_ok (loadSync_full hb hd ea h8 hin ha hf hset hrest hbad)).trans
      (congrArg _ (s.acquire.skip_setS _ _ _)))
  · exact (sync s).trans (instrOf_stall (loadSync_empty hb ea h8 hin ha hf))
  · exact (sync s).trans (instrOf_trap (loadSync_misaligned hb ea h8))
  · exact (clear s).trans (instrOf_ok (clearFull_inside hb ea hin ha))
  · have here : s.me.owner ≠ .hyp := by simp [ho]
    exact ⟨fun h8 => (sync s).trans (instrOf_trap (loadSync_outside hb ea h8 here hout)),
      (clear s).trans (instrOf_trap (clearFull_outside hb ea here hout))⟩

end Sys2Proof.Machine

/-! Fences: what is left of a recent store, and who may still miss it (R128, R210; log 11). -/

namespace Sys2Proof.Machine

/-- A sweep keeps some of the stores, each with some of its bytes. -/
theorem mem_sweep {l : List Recent} {cov : List (Nat × BitVec 8)} {x : Recent} (h : x ∈ sweep l cov) :
    ∃ y ∈ l, ∃ m, x = { y with mask := m } := by
  induction l generalizing cov with
  | nil => cases h
  | cons y l ih =>
    have later : ∀ {cov}, x ∈ sweep l cov → ∃ z ∈ y :: l, ∃ m, x = { z with mask := m } := fun h => by
      obtain ⟨z, hz, rest⟩ := ih h
      exact ⟨z, List.mem_cons_of_mem _ hz, rest⟩
    unfold sweep at h
    dsimp only at h
    split at h
    · exact later h
    · split at h
      · exact later h
      · rcases List.mem_cons.1 h with rfl | h
        · exact ⟨y, List.mem_cons_self .., _, rfl⟩
        · exact later h

theorem mem_withMember {α : Type} [DecidableEq α] (l : List α) (x : α) : x ∈ withMember l x := by
  unfold withMember
  split
  next h => simpa using h
  next => exact List.mem_cons_self ..

/-- Fixing a path to a store only takes viewers away. -/
theorem Recent.mem_fix_hid {x : Recent} {u : Nat} {b : Bool} {v : Viewer} (h : v ∈ (x.fix u b).hid) : v ∈ x.hid := by
  unfold Recent.fix at h
  split at h
  · exact List.mem_of_mem_filter h
  · exact h

/-- Another strand's path that is fixed to a store does not go behind it any more (R126). -/
theorem Recent.fix_fixed {x : Recent} {u : Nat} (b : Bool) (h : x.uid ≠ u) : (u, b) ∈ (x.fix u b).fixed := by
  simp only [Recent.fix, h, if_false]
  exact mem_withMember _ _

/-- A viewer that may miss a store although the store has performed at a scope before later accesses of the classes `q` (R128):
`own` tells the strand's own stores, `cl` is its cluster. -/
def Viewer.unordered (own : Bool) (q : Nat → Bool) (scope : Nat) (cl : Option Nat) : Viewer → Prop
  | .scal => own = true → q 0 = false
  | .record => own = true → q 0 = false ∧ q 2 = false
  | .vec => own = true → q 1 = false
  | .strip => own = true → q 1 = false
  | .fetch => own = true → q 3 = false
  | .sibS _ => False
  | .sibV _ => False
  | .engines l => scope < 2 ∧ (scope = 1 → ∀ n, cl = some n → n ∈ l)
  | .calls _ l => q 2 = true → scope < 2 ∧ (scope = 1 → ∀ n, cl = some n → n ∈ l)

/-- The cluster is one of those that a viewer leaves out once a store has performed there. -/
theorem mem_near {cl : Option Nat} {n : Nat} (h : cl = some n) (l : List Nat) :
    n ∈ cl.toList.filter (fun n => !l.contains n) ++ l := by
  subst h
  by_cases hn : n ∈ l <;> simp [hn]

/-- Who is left after a store has performed is not ordered after it (R128). -/
theorem Viewer.unordered_of_mem_past {own : Bool} {us : List Nat} {q : Nat → Bool} {scope : Nat} {cl : Option Nat} {v w : Viewer}
    (h : w ∈ v.past own us q scope cl) : w.unordered own q scope cl := by
  cases v with
  | scal | record | vec | strip | fetch =>
    simp only [Viewer.past] at h
    split at h
    next => cases h
    next hq =>
      obtain rfl := List.mem_singleton.1 h
      simpa [Viewer.unordered] using hq
  | sibS c => cases h
  | sibV c => cases h
  | engines l =>
    simp only [Viewer.past] at h
    split at h
    next h0 =>
      obtain rfl := List.mem_singleton.1 h
      exact ⟨by omega, by omega⟩
    next =>
      rcases List.mem_append.1 h with h | h
      · split at h
        · cases h
        · obtain rfl := List.mem_singleton.1 h
          exact ⟨by omega, fun _ n hn => mem_near hn l⟩
      · split at h
        · cases h
        next hq =>
          obtain rfl := List.mem_singleton.1 h
          exact fun h => absurd h hq
  | calls vs l =>
    simp only [Viewer.past] at h
    split at h
    next h0 =>
      obtain rfl := List.mem_singleton.1 h
      intro hq
      have : scope = 0 := by simpa [hq] using h0
      exact ⟨by omega, by omega⟩
    next =>
      split at h
      · cases h
      · obtain rfl := List.mem_singleton.1 h
        exact fun _ => ⟨by omega, fun _ n hn => mem_near hn l⟩

/-- The vector path of the writer itself is left only where it was there before. -/
theorem Viewer.vec_mem_past {own : Bool} {us : List Nat} {q : Nat → Bool} {scope : Nat} {cl : Option Nat} {v : Viewer}
    (h : Viewer.vec ∈ v.past own us q scope cl) : v = .vec := by
  cases v with
  | vec => rfl
  | sibS c | sibV c => cases h
  | scal | record | strip | fetch =>
    simp only [Viewer.past] at h
    split at h <;> simp at h
  | engines l =>
    simp only [Viewer.past] at h
    split at h
    · simp at h
    · rcases List.mem_append.1 h with h | h <;> split at h <;> simp at h
  | calls us l =>
    simp only [Viewer.past] at h
    split at h
    · simp at h
    · split at h <;> simp at h

/-- What a fence of a strand makes of one recent store (R128). -/
def State.ordered (s : State) (p q : Nat → Bool) (scope : Nat) (x : Recent) : Recent :=
  if (p 0 && x.heldBy s.me.uid false) || (p 1 && x.heldBy s.me.uid true) then
    let y := if p 1 && q 1 && x.heldBy s.me.uid true then x.fix s.me.uid true else x
    { y with hid := (y.hid.flatMap (Viewer.past (x.uid = s.me.uid) [s.me.uid, x.uid] q scope (s.strandCluster s.me))).eraseDups }
  else x

/-- A fence changes the recent stores alone. -/
theorem State.order_eq (s : State) (p q : Nat → Bool) (scope : Nat) : s.order p q scope = { s with
    recent := sweep ((if p 0 && q 1 then s.linesBack else s.recent).map (s.ordered p q scope)) [] } := rfl

section ordered

variable {s : State} {p q : Nat → Bool} {scope : Nat} {x : Recent}

/-- Which bytes a store wrote, what it replaced, whose it is and who has observed it stay; only who may miss it and who may not go
behind it change. -/
theorem State.ordered_same (s : State) (p q : Nat → Bool) (scope : Nat) (x : Recent) :
    ∃ h f, s.ordered p q scope x = { x with hid := h, fixed := f } := by
  unfold State.ordered Recent.fix
  dsimp only
  split
  · split
    · split <;> exact ⟨_, _, rfl⟩
    · exact ⟨_, _, rfl⟩
  · exact ⟨_, _, rfl⟩

theorem State.ordered_hid (hc : ((p 0 && x.heldBy s.me.uid false) || (p 1 && x.heldBy s.me.uid true)) = true) {v : Viewer}
    (h : v ∈ (s.ordered p q scope x).hid) : v.unordered (x.uid = s.me.uid) q scope (s.strandCluster s.me) := by
  simp only [State.ordered, hc, if_true, List.mem_eraseDups, List.mem_flatMap] at h
  obtain ⟨w, -, hw⟩ := h
  exact Viewer.unordered_of_mem_past hw

theorem State.ordered_fixed (hp : p 1 = true) (hq : q 1 = true) (hx : x.heldBy s.me.uid true = true) (hu : x.uid ≠ s.me.uid) :
    (s.me.uid, true) ∈ (s.ordered p q scope x).fixed := by
  simp only [State.ordered, hp, hq, hx, Bool.and_true, Bool.or_true, if_true]
  exact x.fix_fixed true hu

/-- A vector path that may miss a store after the fence might before it. -/
theorem State.vec_of_ordered {c : CoreId} {v : Viewer} (hv : v = .vec ∨ v = .sibV c) (h : v ∈ (s.ordered p q scope x).hid) : v ∈ x.hid := by
  by_cases hc : ((p 0 && x.heldBy s.me.uid false) || (p 1 && x.heldBy s.me.uid true)) = true
  · rcases hv with rfl | rfl
    · simp only [State.ordered, hc, if_true, List.mem_eraseDups, List.mem_flatMap] at h
      obtain ⟨w, hw, past⟩ := h
      obtain rfl := Viewer.vec_mem_past past
      split at hw
      · exact Recent.mem_fix_hid hw
      · exact hw
    · exact (State.ordered_hid hc h).elim
  · rwa [State.ordered, if_neg hc] at h

/-- A recent store after a fence is one from before, with some of its bytes, as the fence leaves it. -/
theorem State.mem_order (h : x ∈ (s.order p q scope).recent) : ∃ y ∈ (if p 0 && q 1 then s.linesBack else s.recent),
    ∃ m, x = { s.ordered p q scope y with mask := m } := by
  rw [State.order_eq] at h
  obtain ⟨y, hy, m, rfl⟩ := mem_sweep h
  obtain ⟨z, hz, rfl⟩ := List.mem_map.1 hy
  exact ⟨z, hz, m, rfl⟩

/-- Writing the dirty lines back takes viewers away, and only changes whom a store may be missed by (R110, R128). -/
theorem State.mem_linesBack (h : x ∈ s.linesBack) : ∃ y ∈ s.recent, ∃ m l, x = { y with mask := m, hid := l } := by
  unfold State.linesBack at h
  split at h
  · exact ⟨x, h, x.mask, x.hid, rfl⟩
  · obtain ⟨y, hy, m, rfl⟩ := mem_sweep h
    obtain ⟨z, hz, rfl⟩ := List.mem_map.1 hy
    split
    · exact ⟨z, hz, m, z.hid, rfl⟩
    · exact ⟨z, hz, m, _, rfl⟩

/-- No vector path of the core misses a scalar store to HBM of a strand there once its lines are written back (R110, R128). -/
theorem State.linesBack_seen {c : CoreId} (hc : s.myCore = some c) (hv : x.vector = false) (ha : x.addr < 2 ^ 40)
    (hu : (s.strand? x.uid).bind s.coreOf = some c) (h : x ∈ s.linesBack) : Viewer.vec ∉ x.hid ∧ Viewer.sibV c ∉ x.hid := by
  simp only [State.linesBack, hc] at h
  obtain ⟨y, hy, m, rfl⟩ := mem_sweep h
  obtain ⟨z, hz, rfl⟩ := List.mem_map.1 hy
  have mine : ¬((z.vector || decide (2 ^ 40 ≤ z.addr) || (s.strand? z.uid).bind s.coreOf != some c) = true) := by
    intro skip
    rw [if_pos skip] at hv ha hu
    rcases Bool.or_eq_true_iff.1 skip with skip | skip
    · rcases Bool.or_eq_true_iff.1 skip with skip | skip
      · exact absurd (hv.symm.trans skip) Bool.false_ne_true
      · exact absurd (of_decide_eq_true skip) (Nat.not_le.2 ha)
    · exact absurd hu (by simpa using skip)
  simp only [mine]
  simp

end ordered

/-- Settles O16: a fence with an empty queue retires; what it leaves of a recent store is what `ordered` makes of it. -/
theorem fenceResults : Obligations.FenceResults := by
  intro s succ pred sc hq
  have run : (fence succ pred sc).run s = .ok () (s.order pred.getLsbD succ.getLsbD sc.toNat) := by
    simp [fence, run_waitFor, hq]
  refine ⟨_, instrOf_ok (n := 4) run, rfl, fun x hx => ?_, fun x hx covered => ?_, fun x hx c u hp hs hc hv ha hu hcore => ?_⟩ <;>
    obtain ⟨y, hy, m, rfl⟩ := State.mem_order hx <;>
    obtain ⟨l, f, same⟩ := s.ordered_same pred.getLsbD succ.getLsbD sc.toNat y
  · have from_recent : ∃ z ∈ s.recent, ∃ m l, y = { z with mask := m, hid := l } := by
      split at hy
      · exact State.mem_linesBack hy
      · exact ⟨y, hy, y.mask, y.hid, rfl⟩
    obtain ⟨z, hz, m', l', rfl⟩ := from_recent
    rw [same]
    exact ⟨z, hz, rfl, rfl, rfl, rfl, rfl⟩
  · have uid : (s.ordered pred.getLsbD succ.getLsbD sc.toNat y).uid = y.uid := by rw [same]
    have held : ∀ b, ({ s.ordered pred.getLsbD succ.getLsbD sc.toNat y with mask := m }).heldBy s.me.uid b = y.heldBy s.me.uid b :=
      fun b => by rw [same]; rfl
    rw [held, held] at covered
    have left : ∀ v ∈ (s.ordered pred.getLsbD succ.getLsbD sc.toNat y).hid,
        v.unordered (y.uid = s.me.uid) succ.getLsbD sc.toNat (s.strandCluster s.me) :=
      fun v hv => State.ordered_hid (by simpa using covered) hv
    have mine : (s.ordered pred.getLsbD succ.getLsbD sc.toNat y).uid = s.me.uid → decide (y.uid = s.me.uid) = true :=
      fun own => decide_eq_true (uid.symm.trans own)
    refine ⟨fun c => ⟨left _, left _⟩, fun own => ?_, fun h2 own h => ?_, fun h2 l => ?_, fun h1 n l hn => ?_, fun h1 h2 hy own => ?_⟩
    · refine ⟨fun h0 => ⟨fun h => ?_, fun h => ?_⟩, fun h1 => ⟨fun h => ?_, fun h => ?_⟩, fun h3 h => ?_⟩
      · exact absurd (left _ h (mine own)) (by simp [h0])
      · exact absurd (left _ h (mine own)).1 (by simp [h0])
      · exact absurd (left _ h (mine own)) (by simp [h1])
      · exact absurd (left _ h (mine own)) (by simp [h1])
      · exact absurd (left _ h (mine own)) (by simp [h3])
    · exact absurd (left _ h (mine own)).2 (by simp [h2])
    · exact ⟨fun h => absurd (left _ h).1 (Nat.not_lt.2 h2), fun hq us h => absurd (left _ h hq).1 (Nat.not_lt.2 h2)⟩
    · exact ⟨fun h => (left _ h).2 h1 n hn, fun hq us h => (left _ h hq).2 h1 n hn⟩
    · exact State.ordered_fixed h1 h2 ((held true).symm.trans hy) (uid ▸ own)
  · have lines : y ∈ s.linesBack := by simpa [hp, hs] using hy
    rw [same] at hv ha hu
    have seen := State.linesBack_seen (x := y) hc hv ha (by rw [hu]; exact hcore) lines
    exact ⟨fun h => seen.1 (State.vec_of_ordered (x := y) (c := c) (.inl rfl) h),
      fun h => seen.2 (State.vec_of_ordered (x := y) (.inr rfl) h)⟩

end Sys2Proof.Machine

/-! Walks of the translation tables: what one entry makes of a walk (R116-R120). -/

namespace Sys2Proof.Machine

theorem bits_eq (x lo n : Nat) : bits x lo n = x / 2 ^ lo % 2 ^ n := by rw [bits, Nat.shiftRight_eq_div_pow]

theorem bit_eq (x i : Nat) : bit x i = decide (x / 2 ^ i % 2 = 1) := Nat.testBit_eq_decide_div_mod_eq

theorem pteOa_eq (e : Nat) : pteOa e = e / 2 ^ 9 % 2 ^ 39 * 2 ^ 9 := by rw [pteOa, bits_eq, Nat.shiftLeft_eq]

/-- A valid entry that names a table at a multiple of `align` (R117). -/
def TableEntry (e align : Nat) : Prop := e % 4 = 1 ∧ e / 4 % 2 ^ 7 = 0 ∧ e / 2 ^ 48 % 2 ^ 8 = 0 ∧ pteOa e % align = 0

/-- A valid entry that maps a page of `size` bytes; at stage 2 without U, G and DET (R117, R120). -/
def LeafEntry (stage2 : Bool) (e size : Nat) : Prop :=
  e % 4 = 3 ∧ (stage2 = true → e / 2 ^ 5 % 2 ^ 3 = 0) ∧ e / 2 ^ 48 % 2 ^ 8 = 0 ∧ pteOa e % size = 0

/-- The leaf that an entry gives. -/
def leafOf (e size : Nat) : Leaf :=
  ⟨pteOa e, size, e.testBit 2, e.testBit 3, e.testBit 4, e.testBit 5, e.testBit 6, e.testBit 7⟩

@[simp] theorem leafOf_oa (e size : Nat) : (leafOf e size).oa = pteOa e := rfl
@[simp] theorem leafOf_size (e size : Nat) : (leafOf e size).size = size := rfl
@[simp] theorem leafOf_det (e size : Nat) : (leafOf e size).det = e.testBit 7 := rfl

/-- A leaf without U, G and DET. -/
theorem leafOf_plain {e : Nat} (size : Nat) (h : e / 2 ^ 5 % 2 ^ 3 = 0) :
    leafOf e size = ⟨pteOa e, size, e.testBit 2, e.testBit 3, e.testBit 4, false, false, false⟩ := by
  obtain ⟨h5, h6, h7⟩ : e.testBit 5 = false ∧ e.testBit 6 = false ∧ e.testBit 7 = false := by
    simp only [Nat.testBit_eq_decide_div_mod_eq, decide_eq_false_iff_not]
    omega
  simp [leafOf, h5, h6, h7]

section entries

variable {rd : Nat → Except XErr Nat} {bad : XErr} {stage2 : Bool} {x tbl e : Nat} {l : Lvl} {t : List Lvl}

theorem walk_unread {f : XErr} (hr : rd (tbl + 8 * bits x l.lo l.n) = .error f) : walk rd bad stage2 x (l :: t) tbl = .error f := by
  simp only [walk, hr]

/-- A walk goes on from the table that an entry names. -/
theorem walk_table (hr : rd (tbl + 8 * bits x l.lo l.n) = .ok e) (hn : l.next ≠ 0) (h : TableEntry e l.next) :
    walk rd bad stage2 x (l :: t) tbl = walk rd bad stage2 x t (pteOa e) := by
  obtain ⟨kind, low, high, align⟩ := h
  have valid : bit e 0 = true := by rw [bit_eq]; exact decide_eq_true (by omega)
  have node : bit e 1 = false := by rw [bit_eq]; exact decide_eq_false (by omega)
  have low : bits e 2 7 = 0 := (bits_eq ..).trans low
  have high : bits e 48 8 = 0 := (bits_eq ..).trans high
  simp [walk, hr, valid, node, high, low, hn, align]

/-- Is a leaf entry well formed at its level? -/
theorem pteLeafOk_iff : pteLeafOk stage2 l e = true ↔ l.leaf ≠ 0 ∧ (e.testBit 8 = true → l.next = 0) ∧
    (stage2 = true → e / 2 ^ 5 % 2 ^ 3 = 0) ∧ pteOa e % pteSize l e = 0 := by
  have flags : e / 2 ^ 5 % 2 ^ 3 = 0 ↔ bit e 5 = false ∧ bit e 6 = false ∧ bit e 7 = false := by
    simp only [bit_eq, decide_eq_false_iff_not]
    omega
  rw [flags]
  unfold pteLeafOk bit
  cases stage2 <;> cases e.testBit 8 <;> simp [and_assoc]

/-- A walk ends at a well-formed leaf. -/
theorem walk_leaf (hr : rd (tbl + 8 * bits x l.lo l.n) = .ok e) (h0 : l.leaf ≠ 0) (h8 : e.testBit 8 = true → l.next = 0)
    (h : LeafEntry stage2 e (pteSize l e)) : walk rd bad stage2 x (l :: t) tbl = .ok (leafOf e (pteSize l e)) := by
  obtain ⟨kind, flags, high, align⟩ := h
  have valid : bit e 0 = true := by rw [bit_eq]; exact decide_eq_true (by omega)
  have leaf : bit e 1 = true := by rw [bit_eq]; exact decide_eq_true (by omega)
  have ok := pteLeafOk_iff.2 ⟨h0, h8, flags, align⟩
  simp only [walk, hr, valid, leaf, bits_eq e 48 8, high, ok]
  rfl

/-- Any other entry ends the walk in its error. -/
theorem walk_broken (hr : rd (tbl + 8 * bits x l.lo l.n) = .ok e) (ht : l.next ≠ 0 → ¬ TableEntry e l.next)
    (hl : l.leaf ≠ 0 → (e.testBit 8 = true → l.next = 0) → ¬ LeafEntry stage2 e (pteSize l e)) :
    walk rd bad stage2 x (l :: t) tbl = .error bad := by
  simp only [walk, hr]
  split
  · rfl
  next form =>
    obtain ⟨valid, high⟩ : bit e 0 = true ∧ e / 2 ^ 48 % 2 ^ 8 = 0 := by simpa [bits_eq] using form
    rw [bit_eq] at valid
    have valid := of_decide_eq_true valid
    split
    next leaf =>
      rw [bit_eq] at leaf
      have leaf := of_decide_eq_true leaf
      split
      next ok =>
        obtain ⟨h0, h8, flags, align⟩ := pteLeafOk_iff.1 ok
        exact absurd ⟨by omega, flags, high, align⟩ (hl h0 h8)
      next => rfl
    next node =>
      rw [bit_eq, decide_eq_true_eq] at node
      split
      · rfl
      next form =>
        obtain ⟨⟨hn, low⟩, align⟩ : (l.next ≠ 0 ∧ e / 2 ^ 2 % 2 ^ 7 = 0) ∧ pteOa e % l.next = 0 := by simpa [bits_eq] using form
        exact absurd ⟨by omega, low, high, align⟩ (ht hn)

/-- A leaf above the last level: its size is its level's (R116, R119). -/
def UpperLeaf (stage2 : Bool) (e size : Nat) : Prop := LeafEntry stage2 e size ∧ e.testBit 8 = false ∧ size ≠ 0

theorem pteSize_upper (l : Lvl) (h : e.testBit 8 = false) : pteSize l e = l.leaf := by simp [pteSize, bit, h]

theorem walk_upper_leaf (hr : rd (tbl + 8 * bits x l.lo l.n) = .ok e) (h : UpperLeaf stage2 e l.leaf) :
    walk rd bad stage2 x (l :: t) tbl = .ok (leafOf e l.leaf) := by
  obtain ⟨form, h8, h0⟩ := h
  have size := pteSize_upper l h8
  exact size ▸ walk_leaf hr h0 (by simp [h8]) (size.symm ▸ form)

theorem walk_upper_broken (hr : rd (tbl + 8 * bits x l.lo l.n) = .ok e) (hn : l.next ≠ 0)
    (h : ¬ TableEntry e l.next ∧ ¬ UpperLeaf stage2 e l.leaf) : walk rd bad stage2 x (l :: t) tbl = .error bad :=
  walk_broken hr (fun _ => h.1) fun h0 h8 form => by
    have h8 : e.testBit 8 = false := Bool.eq_false_iff.2 (mt h8 hn)
    exact h.2 ⟨pteSize_upper l h8 ▸ form, h8, h0⟩

/-- The last level (R116): it has leaves alone, of 2 MiB for B2M (R119). -/
def lastLevel : Lvl := ⟨16, 8, 0, 2 ^ 16⟩

theorem pteSize_last (e : Nat) : pteSize lastLevel e = if e.testBit 8 then 2 ^ 21 else 2 ^ 16 := rfl

theorem walk_last_leaf (hr : rd (tbl + 8 * bits x 16 8) = .ok e) (h : LeafEntry stage2 e (pteSize lastLevel e)) :
    walk rd bad stage2 x [lastLevel] tbl = .ok (leafOf e (pteSize lastLevel e)) :=
  walk_leaf hr (by decide) (fun _ => rfl) h

theorem walk_last_broken (hr : rd (tbl + 8 * bits x 16 8) = .ok e) (h : ¬ LeafEntry stage2 e (pteSize lastLevel e)) :
    walk rd bad stage2 x [lastLevel] tbl = .error bad :=
  walk_broken hr (fun h0 => absurd rfl h0) fun _ _ => h

/-- The page sizes of leaves (R116, R119). -/
def pageSizes : List Nat := [2 ^ 30, 2 ^ 24, 2 ^ 21, 2 ^ 16]

theorem walk_size {ls : List Lvl} (hs : ∀ l ∈ ls, l.leaf = 0 ∨ l.leaf ∈ pageSizes) {f : Leaf}
    (h : walk rd bad stage2 x ls tbl = .ok f) : f.size ∈ pageSizes := by
  induction ls generalizing tbl with
  | nil => cases h
  | cons l t ih =>
    unfold walk at h
    split at h
    · cases h
    · split at h
      · cases h
      · split at h
        · split at h
          next ok =>
            cases h
            unfold pteSize
            split
            · simp [pageSizes]
            · exact (hs l (List.mem_cons_self ..)).resolve_left (pteLeafOk_iff.1 ok).1
          next => cases h
        · split at h
          · cases h
          · exact ih (fun l hl => hs l (List.mem_cons_of_mem _ hl)) h

theorem pteSize_last_mem (e : Nat) : pteSize lastLevel e ∈ pageSizes := by
  rw [pteSize_last]
  split <;> decide

/-- The smaller of two page sizes divides both. -/
theorem min_dvd_pageSize : ∀ a ∈ pageSizes, ∀ b ∈ pageSizes, min a b ∣ a := by decide

end entries

end Sys2Proof.Machine

/-! The place of an address: what translation answers with nothing cached, and regions (R106-R109, R116-R120, R135, R435). -/

namespace Sys2Proof.Machine

theorem freeBelow_one (s : State) : (freeBelow 1).run s = .ok 0 s := rfl

section place

variable {s : State} {va : Word} {acc : Acc} {p : Part} {pid ctx rcb lid : Nat}

theorem placeE_mon (h : s.me.owner = .mon) : (placeE va acc).run s =
    .ok (if va.toNat < 2 ^ 27 then .ok ⟨svcAt va.toNat, .svc, false⟩ else .error ⟨false, .mon⟩) s := by
  simp only [placeE, run_bind, run_get, h, run_pure]

theorem placeE_hyp (h : s.me.owner = .hyp) : (placeE va acc).run s =
    .ok (if va.toNat < s.hypSize then .ok ⟨s.hypAt va.toNat, .svc, false⟩ else .error ⟨false, .mon⟩) s := by
  simp only [placeE, run_bind, run_get, h, run_pure]

/-- A fetch has no place in the scratch aperture (R107). -/
theorem placeE_fetch_aperture (ho : s.me.owner = .part pid ctx rcb lid) (h : inAperture va = true) :
    (placeE va .x).run s = .ok (.error ⟨false, .sup⟩) s := by
  simp only [placeE, run_bind, run_get, ho, h, if_true, run_pure]

/-- An address in the scratch aperture is placed by the share of the launch alone (R107). -/
theorem placeE_aperture (ho : s.me.owner = .part pid ctx rcb lid) (h : inAperture va = true) (hx : acc ≠ .x) {o : Option Nat}
    (hs : (scratchPlace va).run s = .ok o s) : (placeE va acc).run s =
      .ok (o.elim (.error ⟨false, .sup⟩) fun a => .ok ⟨a, .scratch, false⟩) s := by
  simp only [placeE, run_bind, run_get, ho, h, if_true, hx, if_false, hs]
  cases o <;> rfl

/-- Elsewhere it is translated. -/
theorem placeE_translated (ho : s.me.owner = .part pid ctx rcb lid) (h : inAperture va = false) {r : Except XErr Place} {s1 : State}
    (hx : (xlate s.myTlbs pid s.me.asid s.me.ptbase s.me.pl va acc).run s = .ok r s1) :
    (placeE va acc).run s = .ok (r.mapError XErr.place) s1 := by
  simp only [placeE, run_bind, run_get, ho, h, Bool.false_eq_true, if_false, hx]
  cases r <;> rfl

variable {at' : List TlbPlace} {asid : BitVec 16} {ptbase : Word} {level : Level}

theorem xlate_not_canonical (hp : s.part? pid = some p) (h : canonical va = false) :
    (xlate at' pid asid ptbase level va acc).run s = .ok (.error XErr.s1) s := by
  simp [xlate, hp, h]

/-- No cached translation of the partition serves an address. -/
theorem no_hits (hm : ∀ t ∈ s.tlb, t.pid ≠ pid) (a : Nat) :
    (s.tlb.filter fun t => at'.contains t.place && t.serves pid asid a) = [] :=
  List.filter_eq_nil_iff.2 fun t ht => by simp [Tlb.serves, hm t ht]

/-- With nothing cached for the partition a walk starts at the root (R116, R121): where it fails, so does the translation. -/
theorem xlate_walk_error (hp : s.part? pid = some p) (hc : canonical va = true) (hm : ∀ t ∈ s.tlb, t.pid ≠ pid) {e : XErr}
    (hw : s.walkBoth p ptbase va.toNat acc (level = .app) = .error e) :
    (xlate at' pid asid ptbase level va acc).run s = .ok (.error e) s := by
  have walked : s.walkFrom p levels (rootOf ptbase) va.toNat acc (level = .app) = .error e := hw
  simp only [xlate, run_bind, run_get, hp, hc, Bool.not_true, Bool.false_eq_true, if_false, no_hits hm, List.length_nil, Nat.zero_add,
    freeBelow_one, if_true, walked, run_pure]

/-- Where it finds a page, that is used, and what the walk met is cached. -/
theorem xlate_walk_ok (hp : s.part? pid = some p) (hc : canonical va = true) (hm : ∀ t ∈ s.tlb, t.pid ≠ pid) {x : Page}
    (hw : s.walkBoth p ptbase va.toNat acc (level = .app) = .ok x) :
    (xlate at' pid asid ptbase level va acc).run s = .ok (s.usePage p x va.toNat acc (level = .app))
      (s.cacheAll at' p asid levels (rootOf ptbase) va.toNat x) := by
  have walked : s.walkFrom p levels (rootOf ptbase) va.toNat acc (level = .app) = .ok x := hw
  simp only [xlate, run_bind, run_get, hp, hc, Bool.not_true, Bool.false_eq_true, if_false, no_hits hm, List.length_nil, Nat.zero_add,
    freeBelow_one, if_true, walked, run_modify, run_pure]

end place

/-! ### The walk of both stages -/

section walked

variable {s : State} {va : Word} {acc : Acc} {p : Part} {pid ctx rcb lid : Nat} {e size : Nat} {l : Leaf}

/-- What makes a leaf of stage 1 refuse an access of the executing strand (R118). -/
def Refused (s : State) (acc : Acc) (e : Nat) : Prop :=
  (e.testBit 2 = false ∧ (acc = .r ∨ acc = .rw ∨ e.testBit 3 = true)) ∨ (e.testBit 3 = false ∧ (acc = .w ∨ acc = .rw)) ∨
  (e.testBit 4 = false ∧ acc = .x) ∨ (e.testBit 5 = false ∧ s.me.pl = .app)

theorem leafOf_refuses (s : State) (acc : Acc) (e size : Nat) :
    (leafOf e size).refuses acc (s.me.pl = .app) = true ↔ Refused s acc e := by
  unfold Refused leafOf Leaf.refuses
  cases acc <;> cases e.testBit 2 <;> cases e.testBit 3 <;> cases e.testBit 4 <;> cases e.testBit 5 <;> simp

/-- Stage 2 maps pages of the four sizes (R116, R119). -/
theorem State.stage2_size {ipa : Nat} (h : s.stage2 p ipa = .ok l) : l.size ∈ pageSizes := walk_size (by decide) h

/-- The IPA of an address is found again from the smaller of its two pages (R120). -/
theorem ipa_in_page {oa n a b : Nat} (ha : a ∈ pageSizes) (hb : b ∈ pageSizes) (h : oa % a = 0) :
    (oa + n % a) / min a b * min a b + n % min a b = oa + n % a := by
  have hd := min_dvd_pageSize a ha b hb
  have low : (oa + n % a) % min a b = n % min a b := by
    rw [Nat.add_mod, Nat.mod_eq_zero_of_dvd (hd.trans (Nat.dvd_of_mod_eq_zero h)), Nat.mod_mod_of_dvd _ hd, Nat.zero_add, Nat.mod_mod]
  rw [← low]
  exact Nat.div_add_mod' ..

section walkFrom

variable {ls : List Lvl} {tbl a : Nat} {app : Bool}

theorem State.walkFrom_error {f : XErr} (h : walk (s.entryAt p ·) XErr.s1 false (a % 2 ^ 56) ls tbl = .error f) :
    s.walkFrom p ls tbl a acc app = .error f := by simp only [State.walkFrom, h]

theorem State.walkFrom_refused (h : walk (s.entryAt p ·) XErr.s1 false (a % 2 ^ 56) ls tbl = .ok l) (hr : l.refuses acc app = true) :
    s.walkFrom p ls tbl a acc app = .error ⟨true, none, false⟩ := by simp only [State.walkFrom, h, hr, if_true]

theorem State.walkFrom_ok (h : walk (s.entryAt p ·) XErr.s1 false (a % 2 ^ 56) ls tbl = .ok l) (hr : ¬ l.refuses acc app = true) :
    s.walkFrom p ls tbl a acc app = s.pageOf p a l := by
  rw [State.walkFrom, h]
  exact if_neg hr

end walkFrom

theorem State.pageOf_error {a : Nat} {f : XErr} (h : s.stage2 p (l.oa + a % l.size) = .error f) : s.pageOf p a l = .error f := by
  simp only [State.pageOf, h]

theorem State.pageOf_ok {a ipa : Nat} {l2 : Leaf} (hi : l.oa + a % l.size = ipa) (h : s.stage2 p ipa = .ok l2) : s.pageOf p a l =
    .ok ⟨a / min l.size l2.size * min l.size l2.size, ipa / min l.size l2.size * min l.size l2.size, min l.size l2.size, l, l2⟩ := by
  simp only [State.pageOf, hi, h]

/-- The strand is one of a partition for which nothing is cached, and the address is one that is translated. -/
structure Walks (s : State) (p : Part) (va : Word) : Prop where
  owner : ∃ ctx rcb lid, s.me.owner = .part p.pid ctx rcb lid
  part : s.part? p.pid = some p
  cold : ∀ t ∈ s.tlb, t.pid ≠ p.pid
  canonical : canonical va = true
  low : inAperture va = false

/-- What stage 1 answers for an address of the executing strand. -/
def State.stage1 (s : State) (p : Part) (va : Word) : Except XErr Leaf :=
  walk (s.entryAt p ·) XErr.s1 false (va.toNat % 2 ^ 56) levels (rootOf s.me.ptbase)

theorem Walks.failed (h : Walks s p va) {f : XErr} (hw : s.walkBoth p s.me.ptbase va.toNat acc (s.me.pl = .app) = .error f) :
    (placeE va acc).run s = .ok (.error f.place) s := by
  obtain ⟨ctx, rcb, lid, ho⟩ := h.owner
  exact placeE_translated ho h.low (xlate_walk_error h.part h.canonical h.cold hw)

theorem Walks.found (h : Walks s p va) {x : Page} (hw : s.walkBoth p s.me.ptbase va.toNat acc (s.me.pl = .app) = .ok x) :
    ∃ s1, s1 = { s with tlb := s1.tlb } ∧
      (placeE va acc).run s = .ok ((s.usePage p x va.toNat acc (s.me.pl = .app)).mapError XErr.place) s1 := by
  obtain ⟨ctx, rcb, lid, ho⟩ := h.owner
  obtain ⟨tlb, cached⟩ := s.cacheAll_eq s.myTlbs p s.me.asid levels (rootOf s.me.ptbase) va.toNat x
  have run := placeE_translated ho h.low (xlate_walk_ok (at' := s.myTlbs) (asid := s.me.asid) h.part h.canonical h.cold hw)
  rw [cached] at run
  exact ⟨_, rfl, run⟩

/-- A walk of stage 1 that fails is a fault that the strand takes (R118). -/
theorem Walks.unmapped (h : Walks s p va) (hw : s.stage1 p va = .error XErr.s1) :
    (placeE va acc).run s = .ok (.error ⟨false, .sup⟩) s := by
  exact h.failed (f := XErr.s1) (State.walkFrom_error hw)

/-- So is a leaf of stage 1 that refuses the access (R118). -/
theorem Walks.refused (h : Walks s p va) (hw : s.stage1 p va = .ok (leafOf e size)) (hr : Refused s acc e) :
    (placeE va acc).run s = .ok (.error ⟨false, .sup⟩) s := by
  exact h.failed (f := ⟨true, none, false⟩) (State.walkFrom_refused hw ((leafOf_refuses ..).2 hr))

variable {ipa : Nat}

/-- A stage-2 fault (R118, R120). -/
theorem Walks.stage2_fault (h : Walks s p va) (hw : s.stage1 p va = .ok (leafOf e size)) (hr : ¬ Refused s acc e) {f : XErr}
    (h2 : s.stage2 p (pteOa e + va.toNat % size) = .error f) : (placeE va acc).run s = .ok (.error f.place) s := by
  exact h.failed ((State.walkFrom_ok hw (mt (leafOf_refuses s acc e size).1 hr)).trans (State.pageOf_error h2))

/-- With a leaf of both stages the access is that of the IPA, by the permissions and the region of stage 2 (R118, R120, R135). -/
theorem Walks.mapped (h : Walks s p va) (hw : s.stage1 p va = .ok (leafOf e size)) (hr : ¬ Refused s acc e)
    (hs : size ∈ pageSizes) (ha : pteOa e % size = 0) (hi : pteOa e + va.toNat % size = ipa) (h2 : s.stage2 p ipa = .ok l) :
    ∃ s1, s1 = { s with tlb := s1.tlb } ∧ (placeE va acc).run s =
      .ok ((if l.refuses acc false then .error ⟨true, some ipa, false⟩
        else s.region p ipa (l.oa + ipa % l.size) acc.writes (e.testBit 7) false : Except XErr Place).mapError XErr.place) s1 := by
  have allowed := mt (leafOf_refuses s acc e size).1 hr
  obtain ⟨s1, same, run⟩ := h.found ((State.walkFrom_ok hw allowed).trans (State.pageOf_ok hi h2))
  have again : ipa / min (leafOf e size).size l.size * min (leafOf e size).size l.size + va.toNat % min (leafOf e size).size l.size =
      ipa := by
    rw [← hi]
    exact ipa_in_page hs (State.stage2_size h2) ha
  refine ⟨s1, same, run.trans ?_⟩
  simp only [State.usePage, allowed, again, Bool.false_eq_true, if_false, leafOf_det]

end walked

end Sys2Proof.Machine

/-! The five levels of a walk, and regions (R108, R109, R116-R120, R435). -/

namespace Sys2Proof.Machine

/-- The five levels of a walk (R116): at each an entry is broken, a leaf from the third level on, or names the next table. What an
entry of the last level makes of it is left to `K`. -/
theorem walk_tree {rd : Nat → Except XErr Nat} {bad : XErr} {stage2 : Bool} {x root i0 : Nat} {reads : Nat → Nat → Nat → Prop}
    {table leaf : Nat → Nat → Prop} {E : Prop} {L : Nat → Nat → Prop} {K : Nat → Prop} (hi : bits x 46 10 = i0)
    (hr : ∀ {tbl i e}, reads tbl i e → rd (tbl + 8 * i) = .ok e) (ht : ∀ {e a}, table e a ↔ TableEntry e a)
    (hl : ∀ {e n}, leaf e n ↔ UpperLeaf stage2 e n)
    (hE : walk rd bad stage2 x levels root = .error bad → E)
    (hL : ∀ {e n}, walk rd bad stage2 x levels root = .ok (leafOf e n) → n ∈ pageSizes → LeafEntry stage2 e n → L e n)
    (hK : ∀ {e n}, (¬ LeafEntry stage2 e n → E) → (LeafEntry stage2 e n → L e n) → n = pteSize lastLevel e → K e) :
    ∀ e0 e1 e2 e3 e4, reads root i0 e0 →
      (¬ table e0 2048 ∧ ¬ leaf e0 0 → E) ∧
      (table e0 2048 → reads (pteOa e0) (x / 2 ^ 38 % 2 ^ 8) e1 →
        (¬ table e1 2048 ∧ ¬ leaf e1 0 → E) ∧
        (table e1 2048 → reads (pteOa e1) (x / 2 ^ 30 % 2 ^ 8) e2 →
          (¬ table e2 512 ∧ ¬ leaf e2 (2 ^ 30) → E) ∧
          (leaf e2 (2 ^ 30) → L e2 (2 ^ 30)) ∧
          (table e2 512 → reads (pteOa e2) (x / 2 ^ 24 % 2 ^ 6) e3 →
            (¬ table e3 2048 ∧ ¬ leaf e3 (2 ^ 24) → E) ∧
            (leaf e3 (2 ^ 24) → L e3 (2 ^ 24)) ∧
            (table e3 2048 → reads (pteOa e3) (x / 2 ^ 16 % 2 ^ 8) e4 → K e4)))) := by
  have upper : ∀ {e a n}, ¬ table e a ∧ ¬ leaf e n → ¬ TableEntry e a ∧ ¬ UpperLeaf stage2 e n := fun h => by rwa [ht, hl] at h
  intro e0 e1 e2 e3 e4 r0
  subst hi
  have r0 := hr r0
  refine ⟨fun h => hE (walk_upper_broken r0 (by decide) (upper h)), fun t0 r1 => ?_⟩
  have w1 : walk rd bad stage2 x levels root = _ := walk_table r0 (by decide) (ht.1 t0)
  rw [← bits_eq] at r1
  have r1 := hr r1
  refine ⟨fun h => hE (w1.trans (walk_upper_broken r1 (by decide) (upper h))), fun t1 r2 => ?_⟩
  have w2 := w1.trans (walk_table r1 (by decide) (ht.1 t1))
  rw [← bits_eq] at r2
  have r2 := hr r2
  refine ⟨fun h => hE (w2.trans (walk_upper_broken r2 (by decide) (upper h))),
    fun h => hL (w2.trans (walk_upper_leaf r2 (hl.1 h))) (by decide) (hl.1 h).1, fun t2 r3 => ?_⟩
  have w3 := w2.trans (walk_table r2 (by decide) (ht.1 t2))
  rw [← bits_eq] at r3
  have r3 := hr r3
  refine ⟨fun h => hE (w3.trans (walk_upper_broken r3 (by decide) (upper h))),
    fun h => hL (w3.trans (walk_upper_leaf r3 (hl.1 h))) (by decide) (hl.1 h).1,
    fun t3 r4 => ?_⟩
  have w4 := w3.trans (walk_table r3 (by decide) (ht.1 t3))
  rw [← bits_eq] at r4
  have r4 := hr r4
  exact hK (fun h => hE (w4.trans (walk_last_broken r4 h))) (fun h => hL (w4.trans (walk_last_leaf r4 h)) (pteSize_last_mem e4) h) rfl

/-! ### Where an address is -/

theorem inAperture_iff {va : Word} : inAperture va = true ↔ 2 ^ 64 - 2 ^ 24 ≤ va.toNat := by
  exact decide_eq_true_iff

theorem canonical_iff {va : Word} : canonical va = true ↔ va.toNat / 2 ^ 55 = 0 ∨ va.toNat / 2 ^ 55 = 511 := by
  have := va.isLt
  simp only [canonical, bits_eq, Bool.or_eq_true, decide_eq_true_eq]
  omega

section scratch

variable {s : State} {va : Word}

theorem scratchPlace_none (h : s.split? s.me.owner.lid s.me.clu = none) : (scratchPlace va).run s = .ok none s := by
  simp only [scratchPlace, run_bind, run_get, h, run_pure]

/-- An offset at or above S has no place (R107). -/
theorem scratchPlace_over {y : Split} (h : s.split? s.me.owner.lid s.me.clu = some y) (hs : y.scr * 65536 ≤ va.toNat - apertureBase) :
    (scratchPlace va).run s = .ok none s := by
  simp only [scratchPlace, run_bind, run_get, h, run_pure, Nat.not_lt.2 hs, if_false]

theorem scratchPlace_under {y : Split} (h : s.split? s.me.owner.lid s.me.clu = some y) (hs : va.toNat - apertureBase < y.scr * 65536) :
    (scratchPlace va).run s = .ok (y.at (va.toNat - apertureBase)) s := by
  simp only [scratchPlace, run_bind, run_get, h, run_pure, hs, if_true]

end scratch

/-! ### Regions -/

section regions

variable {s : State} {p : Part} {ipa out : Nat} {wr det : Bool}

/-- A PMA lies on its home, which answers NACK unless it is up (R109, R421). -/
theorem State.pmaPlace_eq (s : State) (q : Part) (pma : Nat) (kind : RKind) (det : Bool) : s.pmaPlace q pma kind det false =
    if (s.bh (q.bh (pma / 4096 % q.nb))).state = .owned then
      .ok ⟨hbmAt (q.bh (pma / 4096 % q.nb)) (pma / 4096 / q.nb * 4096 + pma % 4096), kind, det⟩
    else .error ⟨false, none, true⟩ := by
  by_cases up : (s.bh (q.bh (pma / 4096 % q.nb))).state = .owned <;> simp [State.pmaPlace, Part.pmaAt, up]

theorem bits_zero (x n : Nat) : bits x 0 n = x % 2 ^ n := by rw [bits_eq, Nat.pow_zero, Nat.div_one]

/-- A page with DET lies in region 00 (R135). -/
theorem region_det (hd : det = true) (hr : out / 2 ^ 46 % 4 ≠ 0) : s.region p ipa out wr det false = .error XErr.s1 := by
  have hr : bits out 46 2 ≠ 0 := by rwa [bits_eq]
  simp [State.region, hd, hr]

/-- Region 00: a PMA of the partition (R108, R109). -/
theorem region_pma (hr : out / 2 ^ 46 % 4 = 0) : s.region p ipa out wr det false =
    if out % 2 ^ 46 < 2 ^ 34 * p.nb then s.pmaPlace p (out % 2 ^ 46) .pma det false else .error ⟨false, some ipa, false⟩ := by
  have hr : bits out 46 2 = 0 := by rwa [bits_eq]
  simp [State.region, hr, bits_zero]

/-- Region 01: a window of the partition (R435). -/
theorem region_no_window (hd : det = false) (hr : out / 2 ^ 46 % 4 = 1)
    (hw : p.windows.find? (·.win == out / 2 ^ 42 % 16) = none) :
    s.region p ipa out wr det false = .error ⟨false, some ipa, false⟩ := by
  have hr : bits out 46 2 = 1 := by rwa [bits_eq]
  have hw : p.windows.find? (·.win == bits out 42 4) = none := by rwa [bits_eq]
  simp [State.region, hd, hr, hw]

theorem region_window {w : Window} (hd : det = false) (hr : out / 2 ^ 46 % 4 = 1)
    (hw : p.windows.find? (·.win == out / 2 ^ 42 % 16) = some w) : s.region p ipa out wr det false =
      if w.len ≤ out % 2 ^ 42 then .error ⟨false, some ipa, false⟩
      else if wr = true ∧ w.wr = false then .error ⟨true, some ipa, false⟩
      else (s.part? w.exp).elim (.error ⟨false, some ipa, false⟩) fun q => s.pmaPlace q (w.base + out % 2 ^ 42) .win false false := by
  have hr : bits out 46 2 = 1 := by rwa [bits_eq]
  have hw : p.windows.find? (·.win == bits out 42 4) = some w := by rwa [bits_eq]
  cases hq : s.part? w.exp <;> simp [State.region, hd, hr, hw, bits_zero, hq]

/-- Region 10: the host aperture (R108). -/
theorem region_host (hd : det = false) (hr : out / 2 ^ 46 % 4 = 2) :
    s.region p ipa out wr det false = .ok ⟨hostAt (out % 2 ^ 46), .host, false⟩ := by
  have hr : bits out 46 2 = 2 := by rwa [bits_eq]
  simp [State.region, hd, hr, bits_zero]

theorem region_reserved (hd : det = false) (hr : out / 2 ^ 46 % 4 = 3) :
    s.region p ipa out wr det false = .error ⟨false, some ipa, false⟩ := by
  have hr : bits out 46 2 = 3 := by rwa [bits_eq]
  simp [State.region, hd, hr]

end regions

/-! ### The obligation -/

theorem leafEntry_one_iff {e size : Nat} : LeafEntry false e size ↔ e % 4 = 3 ∧ e / 2 ^ 48 % 2 ^ 8 = 0 ∧ pteOa e % size = 0 := by
  simp [LeafEntry]

theorem leafEntry_two_iff {e size : Nat} :
    LeafEntry true e size ↔ e % 4 = 3 ∧ e / 2 ^ 5 % 2 ^ 3 = 0 ∧ e / 2 ^ 48 % 2 ^ 8 = 0 ∧ pteOa e % size = 0 := by
  simp [LeafEntry]

theorem upperLeaf_one_iff {e size : Nat} : UpperLeaf false e size ↔
    e % 4 = 3 ∧ e / 2 ^ 48 % 2 ^ 8 = 0 ∧ e.testBit 8 = false ∧ size ≠ 0 ∧ pteOa e % size = 0 := by
  rw [UpperLeaf, leafEntry_one_iff]
  tauto

theorem upperLeaf_two_iff {e size : Nat} : UpperLeaf true e size ↔
    e % 4 = 3 ∧ e / 2 ^ 5 % 2 ^ 3 = 0 ∧ e / 2 ^ 48 % 2 ^ 8 = 0 ∧ e.testBit 8 = false ∧ size ≠ 0 ∧ pteOa e % size = 0 := by
  rw [UpperLeaf, leafEntry_two_iff]
  tauto

theorem pteOa_fun : (fun e : Nat => e / 2 ^ 9 % 2 ^ 39 * 2 ^ 9) = pteOa := funext fun e => (pteOa_eq e).symm

/-- A read of a stage-2 table: it lies in HYP memory (R116, R120). -/
def State.hypEntry (s : State) (bad : XErr) (a : Nat) : Except XErr Nat :=
  if a + 8 ≤ s.hypSize then .ok (s.natAt (s.hypAt a) 8) else .error bad

theorem State.stage2_eq (s : State) (p : Part) (ipa : Nat) : s.stage2 p ipa =
    walk (s.hypEntry ⟨false, some ipa, false⟩) ⟨false, some ipa, false⟩ true ipa levels (p.s2root.toNat / 2 ^ 13 % 2 ^ 35 * 2 ^ 13) := by
  rw [← bits_eq, ← Nat.shiftLeft_eq]
  rfl

theorem State.stage1_eq (s : State) (p : Part) (va : Word) : s.stage1 p va =
    walk (s.entryAt p ·) XErr.s1 false (va.toNat % 2 ^ 56) levels (s.me.ptbase.toNat / 2 ^ 13 % 2 ^ 35 * 2 ^ 13) := by
  rw [← bits_eq, ← Nat.shiftLeft_eq]
  rfl

theorem top_index (n : Nat) : bits (n % 2 ^ 56) 46 10 = n % 2 ^ 56 / 2 ^ 46 := by
  rw [bits_eq]
  omega

/-- What becomes of an access that stage 1 maps by an entry to a page of `size` bytes. -/
def Mapped (s : State) (p : Part) (va : Word) (acc : Acc) (e size : Nat) : Prop :=
  let ipa := pteOa e + va.toNat % size
  (Refused s acc e → (placeE va acc).run s = .ok (.error ⟨false, .sup⟩) s) ∧
  (¬ Refused s acc e →
    (∀ f, s.stage2 p ipa = .error f → (placeE va acc).run s = .ok (.error f.place) s) ∧
    (∀ l, s.stage2 p ipa = .ok l → ∃ s1, s1 = { s with tlb := s1.tlb } ∧
      (l.refuses acc false = true → (placeE va acc).run s = .ok (.error ⟨false, .s2 (BitVec.ofNat 48 ipa)⟩) s1) ∧
      (∀ pl, l.refuses acc false = false →
        s.region p ipa (l.oa + ipa % l.size) acc.writes (e.testBit 7) false = .ok pl → (placeE va acc).run s = .ok (.ok pl) s1) ∧
      (∀ f, l.refuses acc false = false →
        s.region p ipa (l.oa + ipa % l.size) acc.writes (e.testBit 7) false = .error f →
        (placeE va acc).run s = .ok (.error f.place) s1)))

theorem Walks.mapped_by {s : State} {p : Part} {va : Word} {acc : Acc} {e size : Nat} (h : Walks s p va)
    (hw : s.stage1 p va = .ok (leafOf e size)) (hs : size ∈ pageSizes) (ha : pteOa e % size = 0) : Mapped s p va acc e size := by
  refine ⟨h.refused hw, fun hr => ⟨fun f => h.stage2_fault hw hr, fun l h2 => ?_⟩⟩
  obtain ⟨s1, same, run⟩ := h.mapped hw hr hs ha rfl h2
  refine ⟨s1, same, fun no => ?_, fun pl yes hg => ?_, fun f yes hg => ?_⟩
  · rwa [if_pos no] at run
  · rwa [if_neg (Bool.eq_false_iff.1 yes), hg] at run
  · rwa [if_neg (Bool.eq_false_iff.1 yes), hg] at run

/-- What an entry of the last level makes of an access. -/
def LastOne (s : State) (p : Part) (va : Word) (acc : Acc) (e : Nat) : Prop :=
  (e % 4 ≠ 3 ∨ e / 2 ^ 48 % 2 ^ 8 ≠ 0 ∨ pteOa e % pteSize lastLevel e ≠ 0 → (placeE va acc).run s = .ok (.error ⟨false, .sup⟩) s) ∧
  (e % 4 = 3 → e / 2 ^ 48 % 2 ^ 8 = 0 → pteOa e % pteSize lastLevel e = 0 → Mapped s p va acc e (pteSize lastLevel e))

/-- Stage 2 maps an IPA by an entry to a page of `size` bytes, which has no U, G or DET (R120). -/
def Maps2 (s : State) (p : Part) (ipa e size : Nat) : Prop :=
  s.stage2 p ipa = .ok ⟨pteOa e, size, e.testBit 2, e.testBit 3, e.testBit 4, false, false, false⟩

/-- What an entry of the last level makes of an IPA. -/
def LastTwo (s : State) (p : Part) (ipa e : Nat) : Prop :=
  (e % 4 ≠ 3 ∨ e / 2 ^ 5 % 2 ^ 3 ≠ 0 ∨ e / 2 ^ 48 % 2 ^ 8 ≠ 0 ∨ pteOa e % pteSize lastLevel e ≠ 0 →
    s.stage2 p ipa = .error ⟨false, some ipa, false⟩) ∧
  (e % 4 = 3 → e / 2 ^ 5 % 2 ^ 3 = 0 → e / 2 ^ 48 % 2 ^ 8 = 0 → pteOa e % pteSize lastLevel e = 0 →
    Maps2 s p ipa e (pteSize lastLevel e))

/-- Settles O11: rows of the accesses that stop at their checks, then one lemma for the tree of five levels, used for both stages. -/
theorem accessFaults : Obligations.AccessFaults := by
  unfold Obligations.AccessFaults
  rw [pteOa_fun]
  refine ⟨fun off offL s s1 r b e hb => ⟨fun p hp => ?_, fun hr p hp => ?_⟩, fun s s1 d a b sc w ar e ha hb hd i hi => ?_,
    fun s va acc => ⟨fun ho => placeE_mon ho, fun ho => placeE_hyp ho, fun pid ctx rcb lid p ho hp cold =>
      ⟨fun high => ?_, fun h0 h1 => ?_, fun can low e0 e1 e2 e3 e4 => ?_⟩⟩,
    fun s p ipa => ⟨fun h => ?_, fun e0 e1 e2 e3 e4 => ?_⟩, fun s p ipa out wr det => ?_⟩
  · obtain ⟨k, o, ext, ho, run⟩ := exec_anyLoad off offL p hp
    obtain ⟨f, len, off', n, x⟩ := p
    obtain rfl : off' = o.signExtend 64 := ho
    exact ⟨fun h => (run r b s).trans (instrOf_trap (load_misaligned hb h)),
      fun h he => (run r b s).trans (instrOf_trap (load_no_place hb h he))⟩
  · obtain ⟨k, o, ho, run⟩ := exec_anyStore off offL p hp
    obtain ⟨f, len, off', n⟩ := p
    obtain rfl : off' = o.signExtend 64 := ho
    exact ⟨fun h => (run r b s).trans (instrOf_trap (store_misaligned hr hb h)),
      fun h he => (run r b s).trans (instrOf_trap (store_no_place hr hb h he))⟩
  · obtain ⟨op, hn, run⟩ := exec_atomics d a b sc w ar i hi
    rw [hn]
    exact ⟨fun h => (run s).trans (instrOf_trap (amo_misaligned hd ha hb h)),
      fun h he => (run s).trans (instrOf_trap (amo_no_place hd ha hb h he))⟩
  · have ap := inAperture_iff.2 high
    refine ⟨fun hx => hx ▸ placeE_fetch_aperture ho ap, fun hx hy => ?_, fun y hx hy => ⟨fun above => ?_, fun a below ha => ?_⟩⟩
    all_goals have hy : s.split? s.me.owner.lid s.me.clu = _ := (congrArg (s.split? ·.lid s.me.clu) ho).trans hy
    · exact placeE_aperture ho ap hx (scratchPlace_none hy)
    · exact placeE_aperture ho ap hx (scratchPlace_over hy above)
    · exact placeE_aperture ho ap hx ((scratchPlace_under hy below).trans (congrArg (EStateM.Result.ok · s) ha))
  · have can := mt canonical_iff.1 (not_or.2 ⟨h0, h1⟩)
    have low := mt inAperture_iff.1 (show ¬ 2 ^ 64 - 2 ^ 24 ≤ va.toNat by omega)
    exact placeE_translated ho (Bool.eq_false_iff.2 low) (xlate_not_canonical hp (Bool.eq_false_iff.2 can))
  · obtain rfl : p.pid = pid := by simpa using List.find?_some hp
    have low := Bool.eq_false_iff.2 (mt inAperture_iff.1 (Nat.not_le.2 low))
    have h : Walks s p va := ⟨⟨ctx, rcb, lid, ho⟩, hp, cold, canonical_iff.2 can, low⟩
    have tree := s.stage1_eq p va
    refine walk_tree (L := Mapped s p va acc) (K := LastOne s p va acc) (top_index _) (fun h => h) Iff.rfl upperLeaf_one_iff.symm
      (fun w => h.unmapped (tree.trans w)) (fun w hs form => h.mapped_by (tree.trans w) hs form.2.2.2) ?_ e0 e1 e2 e3 e4
    rintro e n no yes rfl
    rw [leafEntry_one_iff] at no yes
    exact ⟨fun _ => no (by tauto), fun k high al => yes ⟨k, high, al⟩⟩
  · refine (s.stage2_eq p ipa).trans (walk_unread (if_neg ?_))
    rw [bits_eq]
    exact Nat.not_le.2 h
  · have tree := s.stage2_eq p ipa
    have read : ∀ {tbl i e}, tbl + 8 * i + 8 ≤ s.hypSize ∧ s.natAt (s.hypAt (tbl + 8 * i)) 8 = e →
        s.hypEntry ⟨false, some ipa, false⟩ (tbl + 8 * i) = .ok e :=
      fun h => (if_pos h.1).trans (congrArg _ h.2)
    refine walk_tree (L := Maps2 s p ipa) (K := LastTwo s p ipa) (bits_eq ..) read Iff.rfl upperLeaf_two_iff.symm tree.trans
      (fun w _ form => (tree.trans w).trans (congrArg _ (leafOf_plain _ (form.2.1 rfl)))) ?_ e0 e1 e2 e3 e4
    rintro e n no yes rfl
    rw [leafEntry_two_iff] at no yes
    exact ⟨fun _ => no (by tauto), fun k flags high al => yes ⟨k, flags, high, al⟩⟩
  · refine ⟨region_det, fun hr above => (region_pma hr).trans (if_neg (Nat.not_lt.2 above)), fun hr under => ?_,
      fun hd hr => ⟨region_no_window hd hr, fun w hw => ?_⟩, region_host, region_reserved⟩
    · rw [region_pma hr, if_pos under, State.pmaPlace_eq]
      exact ⟨fun up => if_pos up, fun down => if_neg down⟩
    · have place := region_window (s := s) (ipa := ipa) (wr := wr) hd hr hw
      rw [place]
      refine ⟨fun above => if_pos above, fun within hwr hw => ?_, fun within hwr => ?_⟩
      · rw [if_neg (Nat.not_le.2 within), if_pos ⟨hwr, hw⟩]
      · rw [if_neg (Nat.not_le.2 within), if_neg (by simpa using hwr)]
        refine ⟨fun hq => by rw [hq]; rfl, fun q hq => ?_⟩
        rw [hq, Option.elim_some, State.pmaPlace_eq]
        exact ⟨fun up => if_pos up, fun down => if_neg down⟩

end Sys2Proof.Machine

/-! System instructions but `end`: `tlbi`, `tlbia`, `swb`, `dfin` and `test.scan` (R113, R123, R223, R224). -/

namespace Sys2Proof.Machine

section levels

variable {s : State}

theorem needLevel_ok {l : Level} {i : Instr} (h : l.num ≤ s.me.pl.num) : (needLevel l i).run s = .ok () s := by
  simp [needLevel, Nat.not_lt.2 h]

theorem sup_le_of_ne_app (h : s.me.pl ≠ .app) : Level.sup.num ≤ s.me.pl.num := by
  revert h
  cases s.me.pl <;> simp [Level.num]

end levels

/-! ### Translations that are dropped -/

section tlb

variable {s : State} {p : Part} {f : Tlb → Bool}

theorem State.landAll_onTime (h : s.onTime) : s.landAll = s := by
  have none : (s.strands.filter fun t => !t.late.isEmpty) = [] := List.filter_eq_nil_iff.2 fun t ht => by simp [h t ht]
  simp only [State.landAll, none, List.foldl_nil]

/-- A fence of the partition before something else, and its late loads, change only what paths may still miss (log 11). -/
theorem State.order_landsTo (s : State) (p q : Nat → Bool) (n : Nat) : s.landsTo (s.order p q n).landAll :=
  ⟨s.order p q n, rfl, rfl, fun h => State.landAll_onTime h⟩

theorem fencePosts_run (h : s.me.vq = []) : fencePosts.run s = .ok () (s.order (· ≤ 1) (· ≤ 2) 2) := by
  simp [fencePosts, waitAccesses, run_waitFor, h]

theorem dropTlb_run (hp : s.myPart? = some p) : (dropTlb f).run s = .ok () (s.dropEntries p f) := by
  simp only [dropTlb, run_modify, hp]

/-- What an invalidation leaves of the cached translations. -/
theorem State.mem_dropEntries_tlb {x : Tlb} :
    x ∈ (s.dropEntries p f).tlb ↔ x ∈ s.landAll.tlb ∧ ¬ (x.pid = p.pid ∧ f x = true) := by
  simp only [State.dropEntries, State.reveal, List.mem_filter, Bool.not_eq_true', Bool.and_eq_false_iff, decide_eq_false_iff_not, not_and_or,
    Bool.not_eq_true]

theorem State.dropEntries_eq (s : State) (p : Part) (f : Tlb → Bool) : s.dropEntries p f =
    { s.landAll with tlb := (s.dropEntries p f).tlb, recent := (s.dropEntries p f).recent } := rfl

/-- The entries that translate the page of an address (R123). -/
theorem Tlb.covers_iff {va : Nat} {asid : BitVec 16} {x : Tlb} : x.covers va asid = true ↔ (x.what.global = true ∨ x.asid = asid) ∧
    (∀ y, x.what = .page y → x.va / y.l1.size = va / y.l1.size) ∧
    (∀ i tb, x.what = .table i tb → x.va ≤ va ∧ va < x.va + x.size) := by
  cases h : x.what <;> simp [Tlb.covers, h]

theorem exec_tlbia (hl : s.me.pl ≠ .app) (hq : s.me.vq = []) (hp : s.myPart? = some p) :
    exec .tlbia s = .next (((s.order (· ≤ 1) (· ≤ 2) 2).dropEntries p fun _ => true).skip 4) :=
  scalar_ok (by
    simp only [run_bind, needLevel_ok (sup_le_of_ne_app hl), fencePosts_run hq]
    exact dropTlb_run hp)

theorem exec_tlbi {a b : SReg} (hl : s.me.pl ≠ .app) (hq : s.me.vq = []) (hp : s.myPart? = some p) (ha : s.me.readable a)
    (hb : s.me.readable b) : exec (.tlbi a b) s = .next
      (((s.order (· ≤ 1) (· ≤ 2) 2).dropEntries p (Tlb.covers (s.me.sreg a).toNat ((s.me.sreg b).setWidth 16))).skip 4) :=
  scalar_ok (by
    simp only [run_bind, needLevel_ok (sup_le_of_ne_app hl), readS_plain ha, readS_plain hb, fencePosts_run hq]
    exact dropTlb_run hp)

end tlb

/-! ### `dfin` -/

section dfin

variable {s s1 : State} {a b : SReg} {x n : Nat} {o : Option Place}

theorem dfinFrom_done (start : Nat) {stop fuel va : Nat} (h : stop ≤ va) (s : State) : (dfinFrom start stop fuel va).run s = .ok () s := by
  cases fuel <;> simp [dfinFrom, h]

/-- What `dfin` does at a place. -/
def State.finishAt (s : State) (n : Nat) : Option Place → State
  | some pl => if pl.det then (s.accums.filter fun c => c.meets pl.addr n).foldl State.collapse s else s
  | none => s

/-- A range inside one block of 4 KiB is one piece (R223). -/
theorem dfinFrom_block (hn : n ≠ 0) (h : x % 4096 + n ≤ 4096) (fuel : Nat) :
    (dfinFrom x (x + n) (fuel + 1) x).run s = if inAperture (wd x) = true then .ok () s else
      match (dfinPlace (wd x) (wd x)).run s with
      | .ok o s1 => .ok () (s1.finishAt n o)
      | .error e s1 => .error e s1 := by
  have go : ¬ x + n ≤ x := by omega
  have last : min (x + n) ((x / 4096 + 1) * 4096) = x + n := by omega
  have start : max x (x / 65536 * 65536) = x := by omega
  have len : x + n - x = n := by omega
  by_cases ap : inAperture (wd x) = true
  · simp [dfinFrom, go, last, ap, dfinFrom_done]
  · simp only [dfinFrom, go, last, start, len, ap]
    cases hp : (dfinPlace (wd x) (wd x)).run s with
    | error e s1 => simp [hp]
    | ok o s1 =>
      cases o with
      | none => simp [hp, State.finishAt, dfinFrom_done]
      | some pl => by_cases det : pl.det = true <;> simp [hp, State.finishAt, det, dfinFrom_done]

theorem exec_dfin (ha : s.me.readable a) (hb : s.me.readable b)
    (hx : (s.me.sreg a).toNat + (s.me.sreg b).toNat ≤ 2 ^ 64) (hn : s.me.sreg b ≠ 0)
    (hr : (dfinFrom (s.me.sreg a).toNat ((s.me.sreg a).toNat + (s.me.sreg b).toNat) ((s.me.sreg b).toNat / 4096 + 2)
      (s.me.sreg a).toNat).run s = .ok () s1) : exec (.dfin a b) s = .next (s1.skip 4) :=
  scalar_ok (by
    have some_bytes : ((s.me.sreg b).toNat != 0) = true := bne_iff_ne.2 fun h => hn (BitVec.eq_of_toNat_eq h)
    simp only [run_bind, readS_plain ha, readS_plain hb, Nat.not_lt.2 hx, some_bytes, if_true, if_false, hr])

end dfin

/-! ### `test.scan` -/

section scan

variable {s : State} {c : CoreId} {x : Nat} {d a : SReg}

theorem State.ctl_core (s : State) (c : CoreId) : (s.ctl c).core = c := by
  cases h : s.cores.find? (·.core == c) with
  | none => simp [State.ctl, h]
  | some k => simpa [State.ctl, h] using List.find?_some h

theorem State.ctl_modCtl {f : CoreCtl → CoreCtl} (h : (f (s.ctl c)).core = c) : (s.modCtl c f).ctl c = f (s.ctl c) := by
  simp [State.modCtl, State.ctl] at h ⊢
  simp [h]

theorem run_freeBool (s : State) :
    freeBool.run s = .ok (decide (Config.free s.tick s.draw % 2 = 1)) { s with draw := s.draw + 1 } := rfl

/-- The operand names a core and a pattern, and its other bits are 0 (R224). -/
structure ScanOperand (x : Nat) : Prop where
  pattern : x < 2 ^ 18
  zero : x / 2 ^ 13 % 8 = 0
  col : (physCore x).col ≤ 8
  core : (physCore x).core ≤ 8

theorem ScanOperand.form (h : ScanOperand x) : (bits x 13 3 != 0 || bits x 24 40 != 0 || 8 < (physCore x).col || 8 < (physCore x).core ||
    3 < bits x 16 8) = false := by
  obtain ⟨pat, zero, col, core⟩ := h
  have high : bits x 24 40 = 0 := by rw [bits_eq]; omega
  have low : bits x 13 3 = 0 := (bits_eq ..).trans zero
  have small : bits x 16 8 ≤ 3 := by rw [bits_eq]; omega
  simp [low, high, col, core, small]

theorem scanResult_reserved (hx : x < 2 ^ 64) (h : x / 2 ^ 24 ≠ 0) : (scanResult x).run s = .ok (some (3, 0)) s := by
  have high : bits x 24 40 ≠ 0 := by rw [bits_eq]; omega
  simp [scanResult, high]

variable (h : ScanOperand x)
include h

/-- A core that is not withdrawn, and is not being scanned for the strand, is refused. -/
theorem scanResult_refused (hw : (s.ctl (physCore x)).wd = false) (hs : (s.ctl (physCore x)).scanBy ≠ some s.me.uid) :
    (scanResult x).run s = .ok (some (2, 0)) s := by
  simp [scanResult, h.form, hw, hs]

theorem scanResult_starts (hw : (s.ctl (physCore x)).wd = true) (hd : s.drained (physCore x) = true)
    (hs : (s.ctl (physCore x)).scanBy = none) :
    (scanResult x).run s = .ok none (s.modCtl (physCore x) fun k => { k with scanBy := some s.me.uid }) := by
  simp [scanResult, h.form, hw, hd, hs]

theorem scanResult_aborted (hs : (s.ctl (physCore x)).scanBy = some s.me.uid) (hw : (s.ctl (physCore x)).wd = false) :
    (scanResult x).run s = .ok (some (1, 0)) (s.modCtl (physCore x) fun k => { k with scanBy := none }) := by
  simp [scanResult, h.form, hw, hs]

theorem scanResult_runs (hs : (s.ctl (physCore x)).scanBy = some s.me.uid) (hw : (s.ctl (physCore x)).wd = true)
    (hf : Config.free s.tick s.draw % 2 ≠ 1) : (scanResult x).run s = .ok none { s with draw := s.draw + 1 } := by
  simp [scanResult, h.form, hw, hs, run_freeBool, hf]

theorem scanResult_completes (hs : (s.ctl (physCore x)).scanBy = some s.me.uid) (hw : (s.ctl (physCore x)).wd = true)
    (hf : Config.free s.tick s.draw % 2 = 1) : ∃ sig n, (scanResult x).run s = .ok (some (0, sig))
      ({ s with draw := n }.modCtl (physCore x) fun k => { k with scanBy := none, pat := bits x 16 8, sig := sig }) :=
  ⟨if Config.free s.tick (s.draw + 2) % 2 = 1 then scanSig (bits x 16 8) else BitVec.ofNat 32 (Config.free s.tick (s.draw + 1)),
    s.draw + 3, by simp [scanResult, h.form, hw, hs, run_freeBool, hf]⟩

theorem ScanOperand.pat_eq : bits x 16 8 = x / 2 ^ 16 := by
  have := h.pattern
  rw [bits_eq]
  omega

end scan

section testScan

variable {s s1 : State} {d a : SReg}

theorem testScan_answers {st : Nat} {sig : BitVec 32} (hl : s.me.pl = .mon) (ha : s.me.readable a) (hd : s.me.writable d)
    (h : (scanResult (s.me.sreg a).toNat).run s = .ok (some (st, sig)) s1) (hm : s1.me = s.me) :
    exec (.testScan d a) s = .next (s1.retire 4 d (wd (st + sig.toNat * 2 ^ 32))) := by
  have hd : s1.me.writable d := hm ▸ hd
  refine (runInstr_ok ?_).trans (congrArg _ (State.skip_setS s1 4 d _))
  simp only [run_bind, needLevel_ok (l := .mon) (by rw [hl]), readS_plain ha, h, writeS_plain hd, run_advance, Nat.shiftLeft_eq]
  rfl

theorem State.keepMe_same (h : s1.me = s.me) : s.keepMe s1 = s1 := by
  rw [State.keepMe, ← h]
  split <;> rfl

/-- While the pattern runs the instruction has issued and waits. -/
theorem testScan_waits (hl : s.me.pl = .mon) (ha : s.me.readable a)
    (h : (scanResult (s.me.sreg a).toNat).run s = .ok none s1) (hm : s1.me = s.me) :
    exec (.testScan d a) s = .next s1 := by
  show runInstr _ s = _
  simp [runInstr, needLevel_ok (l := .mon) (i := .testScan d a) (by rw [hl]), readS_plain ha, h, State.keepMe_same hm]

end testScan


end Sys2Proof.Machine

/-! Writes of the device: what they leave alone, and what is read back (R185, R188). -/

namespace Sys2Proof.Machine

/-! ### What a write of the device leaves alone -/

/-- A write of the device is one of no call. -/
theorem State.putDev_eq (s : State) (a : Nat) (l : List Byte) :
    s.putDev a l = ((s.put a l).cover a l.length).race a l.length 0 false := by
  have none : ((((s.put a l).cover a l.length).race a l.length 0 false).calls.find? fun c => c.id = 0 && (0 : Nat) != 0) = none := by simp
  simp only [State.putDev, State.putBy, none]

/-- Two states that differ in memory alone: its bytes, DET accumulators and poison, and what the model remembers of stores. -/
def MemOnly (s t : State) : Prop :=
  t = { s with mem := t.mem, accums := t.accums, bad := t.bad, recent := t.recent, raced := t.raced }

namespace MemOnly

variable {s t u : State}

theorem refl (s : State) : MemOnly s s := rfl

theorem trans (h : MemOnly s t) (k : MemOnly t u) : MemOnly s u := by
  unfold MemOnly at *
  rw [k, h]

theorem me_eq (h : MemOnly s t) : t.me = s.me := by rw [h]
theorem others_eq (h : MemOnly s t) : t.others = s.others := by rw [h]
theorem slots_eq (h : MemOnly s t) : t.slots = s.slots := by rw [h]
theorem parts_eq (h : MemOnly s t) : t.parts = s.parts := by rw [h]
theorem launches_eq (h : MemOnly s t) : t.launches = s.launches := by rw [h]
theorem calls_eq (h : MemOnly s t) : t.calls = s.calls := by rw [h]

theorem withMem (h : MemOnly s t) (m : List Host.Cell) (l : List Accum) : MemOnly s { t with mem := m, accums := l } := h.trans rfl

theorem cleanBad (s : State) (a n : Nat) : MemOnly s (s.cleanBad a n) := rfl
theorem cover (s : State) (a n : Nat) : MemOnly s (s.cover a n) := rfl
theorem race (s : State) (a n w : Nat) (b : Bool) : MemOnly s (s.race a n w b) := rfl

/-- A write after one that leaves everything else alone does so too. -/
theorem foldl {α : Type} {f : State → α → State} (hf : ∀ s x, MemOnly s (f s x)) (l : List α) (s : State) : MemOnly s (l.foldl f s) :=
  foldl_keeps (p := MemOnly s) (fun t x h => h.trans (hf t x)) (refl s)

theorem putBacking (s : State) (p : Part) (i j : Nat) (l : List Byte) : MemOnly s (s.putBacking p i j l) :=
  loop_keeps (p := MemOnly s) (fun k t h => by
    split
    · exact h.withMem _ _
    · exact h) (refl s)

theorem freeEntry (s : State) (c : Accum) : MemOnly s (s.freeEntry c) := by
  unfold State.freeEntry
  generalize c.spill = entry
  generalize s.homePart c.addr = home
  cases entry with
  | none => exact refl s
  | some i =>
    cases home with
    | none => exact refl s
    | some p =>
      dsimp only
      split
      · exact putBacking ..
      · exact refl s

theorem collapse (s : State) (c : Accum) : MemOnly s (s.collapse c) := (freeEntry s c).withMem _ _

theorem unspill (s : State) (c : Accum) : MemOnly s (s.unspill c) := (freeEntry s c).withMem _ _

theorem spill {home keep f g : Nat} (e : s.spill home keep f g = some t) : MemOnly s t := by
  unfold State.spill at e
  simp only [Option.bind_eq_bind, Option.bind_eq_some_iff] at e
  obtain ⟨p, -, c, -, i, -, e⟩ := e
  rw [← Option.some.inj e]
  exact (putBacking s p i 0 c.entry).withMem _ _

theorem respill (s : State) (c : Accum) : MemOnly s (s.respill c) := by
  unfold State.respill
  dsimp only
  split
  · exact refl s
  · cases e : s.spill _ _ _ _ with
    | none => exact refl s
    | some t => exact spill e

theorem put (s : State) (a : Nat) (l : List Byte) : MemOnly s (s.put a l) := by
  unfold State.put
  dsimp only
  refine trans (loop_keeps (p := MemOnly s) (fun i t h => ?_) ?_) (cleanBad ..)
  · split
    · exact h
    · exact h.withMem _ _
  · exact (withMem ((foldl collapse _ s).trans (foldl unspill _ _)) _ _).trans (foldl respill _ _)

theorem putDev (s : State) (a : Nat) (l : List Byte) : MemOnly s (s.putDev a l) := by
  rw [State.putDev_eq]
  exact ((put s a l).trans (cover ..)).trans (race ..)

theorem putIpaF {p : Part} {svc : Bool} : ∀ (fuel ipa : Nat) (l : List Byte) (s : State), MemOnly s (State.putIpaF p svc fuel ipa l s).1
  | 0, _, _, s => refl s
  | fuel + 1, ipa, l, s => by
    unfold State.putIpaF
    split
    · exact refl s
    · generalize s.ipaPlace p ipa .w svc = place
      cases place with
      | error e => exact refl s
      | ok pl => exact (putDev ..).trans (putIpaF ..)

theorem putIpa (s : State) (p : Part) (ipa : Nat) (l : List Byte) (svc : Bool) : MemOnly s (s.putIpa p ipa l svc).1 := putIpaF ..

theorem putRanges : ∀ (r : List (Nat × Nat)) (l : List Byte) (s : State), MemOnly s (s.putRanges r l)
  | [], _, s => refl s
  | (_, _) :: t, _, _ => (putDev ..).trans (putRanges t ..)

theorem writeCw (s : State) (l : Launch) (f : Nat → Nat) : MemOnly s (s.writeCw l f).1 := by
  unfold State.writeCw
  split
  · exact refl s
  · exact putRanges ..

theorem writeRecord (s : State) (t : Strand) (l : List (Nat × List Byte)) : MemOnly s (s.writeRecord t l) := by
  unfold State.writeRecord
  split
  · exact refl s
  · exact foldl (fun s x => putIpa ..) ..

theorem resave (s : State) (u : Nat) : MemOnly s (s.resave u) := by
  unfold State.resave
  split
  · exact refl s
  · split
    · exact refl s
    · exact writeRecord ..

end MemOnly

/-! ### What is read back -/

theorem leNat_leBytes : ∀ n x : Nat, leNat (leBytes n x) = x % 256 ^ n
  | 0, x => by simp [leBytes, leNat, Nat.mod_one]
  | n + 1, x => by
    rw [leBytes, leNat, leNat_leBytes n, Nat.pow_succ', Nat.mod_mul, BitVec.toNat_ofNat]

theorem leBytes_length : ∀ n x : Nat, (leBytes n x).length = n
  | 0, _ => rfl
  | n + 1, x => congrArg (· + 1) (leBytes_length n (x / 256))

theorem loop_succ {σ : Type} (n : Nat) (f : Nat → σ → σ) (s : σ) : loop (n + 1) f s = f n (loop n f s) := by
  simp [loop, below, List.range_succ]

/-- One byte of a write where no accumulator is active. -/
def State.putByte (a : Nat) (l : List Byte) (i : Nat) (t : State) : State :=
  if t.accums.any (·.meets (a + i) 1) then t else { t with mem := Mem.write t.mem (a + i) (nth l i 0) }

section plain

variable {s : State} {a n : Nat} {l : List Byte}

theorem State.plainAt.byte (h : s.plainAt a n) {i : Nat} (hi : i < n) : ∀ c ∈ s.accums, c.meets (a + i) 1 = false := fun c hc => by
  have off := h c hc
  simp only [Accum.meets, Bool.and_eq_false_iff, decide_eq_false_iff_not] at off ⊢
  omega

theorem State.byteAt_plain (h : ∀ c ∈ s.accums, c.meets a 1 = false) : s.byteAt a = Mem.read s.mem a := by
  have none : s.accums.find? (·.meets a 1) = none := List.find?_eq_none.2 fun c hc => by simp [h c hc]
  simp only [State.byteAt, none]

/-- The bytes of a write of `l` up to the `k`th are those of `l`. -/
theorem loop_putByte (hs : s.Inv) (h : s.plainAt a n) : ∀ k ≤ n, (loop k (State.putByte a l) s).Inv ∧
    (loop k (State.putByte a l) s).accums = s.accums ∧ ∀ i < k, Mem.read (loop k (State.putByte a l) s).mem (a + i) = nth l i 0
  | 0, _ => ⟨hs, rfl, fun _ hi => absurd hi (Nat.not_lt_zero _)⟩
  | k + 1, hk => by
    obtain ⟨canon, same, read⟩ := loop_putByte hs h k (by omega)
    rw [loop_succ]
    generalize loop k (State.putByte a l) s = t at canon same read
    have write : State.putByte a l k t = { t with mem := Mem.write t.mem (a + k) (nth l k 0) } := by
      refine if_neg ?_
      rw [same, List.any_eq_true]
      rintro ⟨c, hc, hm⟩
      exact absurd hm (Bool.eq_false_iff.1 (h.byte hk c hc))
    rw [write]
    refine ⟨Memory.wf_write _ _ canon, same, fun i hi => ?_⟩
    rcases Nat.lt_succ_iff_lt_or_eq.1 hi with hi | rfl
    · exact (Mem.read_write_other _ canon (by omega)).trans (read i hi)
    · exact Mem.read_write_same _ _ canon

/-- Where no accumulator is active a write only writes its bytes. -/
theorem State.put_plain (h : s.plainAt a l.length) : s.put a l = (loop l.length (State.putByte a l) s).cleanBad a l.length := by
  have none : s.accums.filter (·.meets a l.length) = [] := List.filter_eq_nil_iff.2 fun c hc => by simp [h c hc]
  have same : ∀ f : Accum → Accum, (s.accums.map fun c => if c.meets a l.length = true then f c else c) = s.accums := fun f =>
    (List.map_congr_left (g := id) fun c hc => by simp [h c hc]).trans (List.map_id _)
  simp only [State.put, none, List.filter_nil, List.foldl_nil, same]
  rfl

/-- What the device writes there is read back. -/
theorem State.bytesAt_putDev (hs : s.Inv) (h : s.plainAt a l.length) : (s.putDev a l).bytesAt a l.length = l := by
  obtain ⟨-, same, read⟩ := loop_putByte (l := l) hs h l.length le_rfl
  have mem : (s.putDev a l).mem = (loop l.length (State.putByte a l) s).mem ∧ (s.putDev a l).accums = s.accums := by
    rw [State.putDev_eq, State.put_plain h]
    simp [same]
  refine List.ext_getElem (by simp [State.bytesAt, below]) fun i hi _ => ?_
  have hi : i < l.length := by simpa [State.bytesAt, below] using hi
  have plain : ∀ c ∈ (s.putDev a l).accums, c.meets (a + i) 1 = false := mem.2 ▸ h.byte hi
  simp [State.bytesAt, below, State.byteAt_plain plain, mem.1, read i hi, nth, hi]

end plain

end Sys2Proof.Machine

/-! The end of a strand: what becomes of its calls, its launch and its completion word (R188, R222). -/

namespace Sys2Proof.Machine

/-! ### The calls that a strand leaves behind -/

/-- What the end of calls of the executing strand leaves as it is; the memory, if the strand is one without a partition. -/
structure Spared (s t : State) : Prop where
  uid : t.me.uid = s.me.uid
  owner : t.me.owner = s.me.owner
  parts : t.parts = s.parts
  launches : t.launches = s.launches
  mem : s.me.owner.pid? = none → t.mem = s.mem

/-- A fold whose steps change nothing. -/
theorem foldl_idle {α β : Type} {f : α → β → α} {x : α} {l : List β} (h : ∀ b ∈ l, f x b = x) : l.foldl f x = x :=
  List.foldlRecOn (motive := (· = x)) l f rfl fun _ hy b hb => hy ▸ h b hb

theorem State.spoilSort_other {s : State} {c : Call} (h : c.kind ≠ 3) : s.spoilSort c = s := by
  unfold State.spoilSort
  split
  · rfl
  · exact if_pos (bne_iff_ne.2 h)

theorem State.discardToken_other {s : State} {c : Call} (h : c.kind ≠ 4) : s.discardToken c = s := by
  unfold State.discardToken
  dsimp only
  split
  · rfl
  · exact if_neg (by simp [h])

namespace Spared

variable {s t u : State} {c : Call}

theorem refl (s : State) : Spared s s := ⟨rfl, rfl, rfl, rfl, fun _ => rfl⟩

theorem trans (h : Spared s t) (k : Spared t u) : Spared s u where
  uid := k.uid.trans h.uid
  owner := k.owner.trans h.owner
  parts := k.parts.trans h.parts
  launches := k.launches.trans h.launches
  mem := fun e => (k.mem (h.owner ▸ e)).trans (h.mem e)

/-- A change of strands that keeps their names and owners. -/
theorem modStrand {n : Nat} {f : Strand → Strand} (hu : ∀ t, (f t).uid = t.uid) (ho : ∀ t, (f t).owner = t.owner) :
    Spared s (s.modStrand n f) := by
  unfold State.modStrand
  split
  · exact ⟨hu _, ho _, rfl, rfl, fun _ => rfl⟩
  · exact ⟨rfl, rfl, rfl, rfl, fun _ => rfl⟩

theorem poisonReturns (s : State) (c : Call) : Spared s (s.poisonReturns c) := by
  have regs : Spared s _ := foldl_keeps (p := Spared s) (l := c.rets) (fun t r h => h.trans (modStrand (n := c.uid)
    (f := fun t => { t with vpoison := setBit t.vpoison r true, vpend := setBit t.vpend r false }) (fun _ => rfl) (fun _ => rfl))) (refl s)
  unfold State.poisonReturns
  dsimp only
  split
  · exact regs
  · exact regs.trans (modStrand (fun _ => rfl) (fun _ => rfl))

theorem strand?_me (s : State) : s.strand? s.me.uid = some s.me := by
  simp [State.strand?, State.strands]

/-- The record of a strand that has no partition is nowhere. -/
theorem resave (hc : c.uid = s.me.uid) : Spared s (s.resave c.uid) := by
  have only := MemOnly.resave s c.uid
  refine ⟨by rw [only.me_eq], by rw [only.me_eq], only.parts_eq, only.launches_eq, fun no => ?_⟩
  simp only [hc, State.resave, strand?_me, State.writeRecord, no, Option.bind_none]
  split <;> rfl

theorem settleCall (hc : c.uid = s.me.uid) (st : TStat) (rc : Word) : Spared s (s.settleCall c st rc) := by
  have settled : ∀ f : Strand → Strand, (∀ t, (f t).uid = t.uid) → (∀ t, (f t).owner = t.owner) → Spared s
      (({ s with calls := s.calls.filter (·.id != c.id), raced := s.raced.filter (·.cid != c.id) }.freeSplits.modStrand c.uid f).resave
        c.uid) := fun f hu ho => by
    have gone : Spared s { s with calls := s.calls.filter (·.id != c.id), raced := s.raced.filter (·.cid != c.id) }.freeSplits :=
      ⟨rfl, rfl, rfl, rfl, fun _ => rfl⟩
    have marked := gone.trans (modStrand (n := c.uid) hu ho)
    exact marked.trans (resave (hc.trans marked.uid.symm))
  refine settled _ (fun t => ?_) (fun t => ?_) <;> split <;> rfl

theorem callReset (hc : c.uid = s.me.uid) : Spared s (s.callReset c) :=
  (poisonReturns s c).trans (settleCall (hc.trans (poisonReturns s c).uid.symm) ..)

/-- A reset of calls of the strand on the ray unit or the reorder unit: no sort, and no fragment batch, is among them. -/
theorem resetCalls {p : Call → Bool} (hp : ∀ c, p c = true → c.uid = s.me.uid ∧ (c.kind = 5 ∨ c.kind = 6)) :
    Spared s (s.resetCalls p) := by
  have gone : ∀ c ∈ s.calls.filter p, c.uid = s.me.uid ∧ (c.kind = 5 ∨ c.kind = 6) := fun c hc => hp c (List.mem_filter.1 hc).2
  have sorts : (s.calls.filter p).foldl State.spoilSort s = s := foldl_idle fun c hc =>
    State.spoilSort_other (by rcases (gone c hc).2 with h | h <;> omega)
  have tokens : ∀ t : State, (s.calls.filter p).foldl State.discardToken t = t := fun t => foldl_idle fun c hc =>
    State.discardToken_other (by rcases (gone c hc).2 with h | h <;> omega)
  have resets : Spared s ((s.calls.filter p).foldl State.callReset s) :=
    List.foldlRecOn (motive := Spared s) _ _ (refl s) fun t ht c hc => ht.trans (callReset ((gone c hc).1.trans ht.uid.symm))
  unfold State.resetCalls
  dsimp only
  rw [sorts, tokens]
  exact ⟨resets.uid, resets.owner, resets.parts, resets.launches, resets.mem⟩

/-- What is bound to the executing strand is discarded (R32, R405). -/
theorem dropBound (s : State) : Spared s (s.dropBound s.me.uid) := by
  have calls : Spared s (s.resetCalls fun c => c.uid = s.me.uid && (c.kind = 5 && c.queue ≤ 1 || c.kind = 6)) :=
    resetCalls fun c hc => by
      simp only [Bool.and_eq_true, Bool.or_eq_true, decide_eq_true_eq] at hc
      exact ⟨hc.1, hc.2.imp And.left id⟩
  exact ⟨calls.uid, calls.owner, calls.parts, calls.launches, calls.mem⟩

end Spared

/-! ### The strand is removed -/

section removed

variable {s : State}

theorem State.part?_isSome_modPart {n m : Nat} {f : Part → Part} (hf : ∀ p, (f p).pid = p.pid) :
    ((s.modPart m f).part? n).isSome = (s.part? n).isSome := by
  have same : ((fun q : Part => q.pid == n) ∘ fun q => if q.pid = m then f q else q) = fun q => q.pid == n := by
    funext q
    by_cases hq : q.pid = m <;> simp [hq, hf]
  simp only [State.part?, State.modPart, List.find?_map, same, Option.isSome_map]

/-- Without calls of the strand nothing in memory depends on what is bound to it. -/
theorem State.dropBound_idle (h : ∀ c ∈ s.calls, c.uid ≠ s.me.uid) :
    (s.dropBound s.me.uid).mem = s.mem ∧ (s.dropBound s.me.uid).accums = s.accums := by
  have none : (s.calls.filter fun c => c.uid = s.me.uid && (c.kind = 5 && c.queue ≤ 1 || c.kind = 6)) = [] :=
    List.filter_eq_nil_iff.2 fun c hc => by simp [h c hc]
  simp [State.dropBound, State.resetCalls, none]

/-- A partition without the words and the marks of a strand. -/
def Part.forget (p : Part) (t : Strand) : Part := { p with
  parked := p.parked.filter (·.uid != t.uid)
  bars := p.bars.map fun (b : Barrier) => b.forget (t.pos, t.num.toNat) }

/-- A state without the executing strand (R222). -/
structure Removed (s t : State) : Prop where
  me : t.me = s.me.ended
  slots : ∀ o ∈ t.slots, o.uid ≠ s.me.uid
  launches : t.launches = s.launches
  mem : s.me.owner.pid? = none → t.mem = s.mem
  parked : ∀ n, s.me.owner.pid? = some n → (s.part? n).isSome = true →
    ∃ q, t.part? n = some q ∧ ∀ w ∈ q.parked, w.uid ≠ s.me.uid
  bytes : (∀ c ∈ s.calls, c.uid ≠ s.me.uid) → t.mem = s.mem ∧ t.accums = s.accums

theorem State.removeStrand_removed (s : State) : Removed s (s.removeStrand s.me.uid) := by
  have bound := Spared.dropBound s
  have idle := State.dropBound_idle (s := s)
  unfold State.removeStrand
  rw [Spared.strand?_me]
  dsimp only
  generalize s.dropBound s.me.uid = d at bound idle
  obtain ⟨uid, -, parts, launches, mem⟩ := bound
  have slots : ∀ o ∈ (d.forgetStores s.me.uid).slots.filter (·.uid != s.me.uid), o.uid ≠ s.me.uid := fun o ho => by
    simpa using (List.mem_filter.1 ho).2
  have here : (d.forgetStores s.me.uid).me.uid = s.me.uid := uid
  cases hp : s.me.owner.pid? with
  | none => exact ⟨if_pos here, slots, launches, fun _ => mem hp, fun n hn => absurd (hp.symm.trans hn) nofun, idle⟩
  | some n =>
    refine ⟨if_pos here, slots, launches, fun no => absurd (hp.symm.trans no) nofun, fun m hm there => ?_, idle⟩
    obtain rfl : n = m := Option.some.inj (hp.symm.trans hm)
    obtain ⟨q, hq⟩ := Option.isSome_iff_exists.1 there
    have found := State.part?_modPart (f := fun p => p.forget s.me) hq fun _ => rfl
    refine ⟨_, (congrArg (List.find? _) (congrArg (List.map _) parts)).trans found, fun w hw => ?_⟩
    simpa using (List.mem_filter.1 hw).2

end removed

end Sys2Proof.Machine

/-! The launch and the completion word at the end of a strand (R188, R189). -/

namespace Sys2Proof.Machine

/-- What posting a launch's end leaves as it is: strands, calls, launches, and which partitions there are. -/
structure Posted (s t : State) : Prop where
  me : t.me = s.me
  calls : t.calls = s.calls
  launches : t.launches = s.launches
  found : ∀ n, (t.part? n).isSome = (s.part? n).isSome

namespace Posted

variable {s t u : State}

theorem refl (s : State) : Posted s s := ⟨rfl, rfl, rfl, fun _ => rfl⟩

theorem trans (h : Posted s t) (k : Posted t u) : Posted s u :=
  ⟨k.me.trans h.me, k.calls.trans h.calls, k.launches.trans h.launches, fun n => (k.found n).trans (h.found n)⟩

theorem of_memOnly (h : MemOnly s t) : Posted s t :=
  ⟨h.me_eq, h.calls_eq, h.launches_eq, fun _ => congrArg (fun l => Option.isSome (List.find? _ l)) h.parts_eq⟩

theorem modPart (s : State) {m : Nat} {f : Part → Part} (hf : ∀ p, (f p).pid = p.pid) : Posted s (s.modPart m f) :=
  ⟨rfl, rfl, rfl, fun _ => State.part?_isSome_modPart hf⟩

theorem request (s : State) (pid val : Nat) (ctx : Option Nat) : Posted s (s.request pid val ctx) :=
  modPart s fun p => by split <;> rfl

theorem cwOrRequest (s : State) (l : Launch) (f : Nat → Nat) : Posted s (s.cwOrRequest l f) := by
  have written := of_memOnly (MemOnly.writeCw s l f)
  unfold State.cwOrRequest
  split
  next h => rwa [h] at written
  next h =>
    rw [h] at written
    exact written.trans (request ..)

theorem signalDone (s : State) (l : Launch) : Posted s (s.signalDone l) := by
  unfold State.signalDone
  split
  · exact modPart s fun p => rfl
  · exact refl s

end Posted

section launch

variable {s : State} {l : Launch} {t : Strand}

theorem State.launch?_modLaunch {n : Nat} {f : Launch → Launch} (h : s.launch? n = some l) (hf : ∀ x, (f x).id = x.id) :
    (s.modLaunch n f).launch? n = some (f l) := by
  have hn : l.id = n := by simpa using List.find?_some h
  have same : ((fun x : Launch => x.id == n) ∘ fun x => if x.id = n then f x else x) = fun x => x.id == n := by
    funext x
    by_cases hx : x.id = n <;> simp [hx, hf]
  unfold State.launch? at h ⊢
  simp only [State.modLaunch, List.find?_map, same, h, Option.map_some, hn, if_true]

/-- What the end of one strand makes of its launch (R188, R189). -/
structure LaunchEnded (s t : State) (l : Launch) (f : Nat → Nat) : Prop where
  me : t.me = s.me
  calls : t.calls = s.calls
  found : ∀ n, (t.part? n).isSome = (s.part? n).isSome
  launch : ∃ l', t.launch? l.id = some l' ∧ l'.left = l.left - 1 ∧ (l.left ≤ 1 → l'.stat = .final)
  mem : t.mem = (s.cwOrRequest l f).mem
  accums : t.accums = (s.cwOrRequest l f).accums

theorem State.signalDone_bytes (s : State) (l : Launch) : (s.signalDone l).mem = s.mem ∧ (s.signalDone l).accums = s.accums := by
  unfold State.signalDone
  split <;> exact ⟨rfl, rfl⟩

theorem State.endLaunch_ended (h : s.launchOf t = some l) : LaunchEnded s (s.endLaunch t) l (endCw t.allFlags) := by
  have posted := Posted.cwOrRequest s l (endCw t.allFlags)
  unfold State.endLaunch
  simp only [h]
  generalize word : s.cwOrRequest l (endCw t.allFlags) = w at posted
  have named : s.launch? l.id = some l := by
    have : l.id = t.owner.lid := by simpa using List.find?_some h
    exact this ▸ h
  have counted := State.launch?_modLaunch (s := w) (f := fun l => { l with left := l.left - 1 })
    ((congrArg (List.find? _) posted.launches).trans named) fun _ => rfl
  split
  next last =>
    have signal := Posted.signalDone (w.modLaunch l.id fun l => { l with left := l.left - 1 }) l
    have bytes := State.signalDone_bytes (w.modLaunch l.id fun l => { l with left := l.left - 1 }) l
    have final := State.launch?_modLaunch (f := fun l => { l with stat := .final })
      ((congrArg (List.find? _) signal.launches).trans counted) fun _ => rfl
    exact ⟨signal.me.trans posted.me, signal.calls.trans posted.calls, fun n => (signal.found n).trans (posted.found n),
      ⟨_, final, rfl, fun _ => rfl⟩, word ▸ bytes.1, word ▸ bytes.2⟩
  next more => exact ⟨posted.me, posted.calls, posted.found, ⟨_, counted, rfl, fun le => absurd le more⟩, word ▸ rfl, word ▸ rfl⟩

theorem State.endLaunch_none (h : s.launchOf t = none) : s.endLaunch t = s := by simp only [State.endLaunch, h]

/-- The strands and the list of partitions stay. -/
theorem State.endLaunch_kept (s : State) (t : Strand) :
    (s.endLaunch t).me = s.me ∧ ∀ n, ((s.endLaunch t).part? n).isSome = (s.part? n).isSome := by
  cases h : s.launchOf t with
  | none => rw [State.endLaunch_none h]; exact ⟨rfl, fun _ => rfl⟩
  | some l => exact ⟨(State.endLaunch_ended h).me, (State.endLaunch_ended h).found⟩

end launch

/-! ### The completion word -/

section word

variable {s : State} {l : Launch} {pl : Place}

theorem pieces_dword {va : Nat} (h : va % 8 = 0) : pieces 4096 2 va 8 = [(va, 8)] := by
  have all : min 8 (4096 - va % 4096) = 8 := by omega
  simp [pieces, all]

/-- An aligned completion word is written in one piece where its launch has a place for it. -/
theorem State.cwOrRequest_placed (ha : recBits l.record 320 64 % 8 = 0) (hp : s.cwPlace l = some pl) (f : Nat → Nat) :
    s.cwOrRequest l f = s.putDev pl.addr (leBytes 8 (f (s.natAt pl.addr 8))) := by
  have ranges : s.cwRanges l = some [(pl.addr, 8)] := by
    have place : s.cwAt l (recBits l.record 320 64) = some pl := hp
    simp [State.cwRanges, pieces_dword ha, place]
  have whole : ∀ x, (leBytes 8 x).take 8 = leBytes 8 x := fun x => List.take_of_length_le (leBytes_length 8 x).le
  have write : s.writeCw l f = (s.putDev pl.addr (leBytes 8 (f (s.natAt pl.addr 8))), true) := by
    simp only [State.writeCw, ranges, State.putRanges, List.flatMap_cons, List.flatMap_nil, List.append_nil, whole]
    rfl
  simp only [State.cwOrRequest, write]

theorem State.natAt_putDev {a v : Nat} (hs : s.Inv) (h : s.plainAt a 8) : (s.putDev a (leBytes 8 v)).natAt a 8 = v % 2 ^ 64 := by
  have read := State.bytesAt_putDev (l := leBytes 8 v) hs (by rwa [leBytes_length])
  rw [leBytes_length] at read
  rw [State.natAt, read, leNat_leBytes]
  norm_num

theorem State.natAt_congr {t : State} (hm : t.mem = s.mem) (ha : t.accums = s.accums) (a n : Nat) : t.natAt a n = s.natAt a n := by
  simp only [State.natAt, State.bytesAt, State.byteAt, hm, ha]

/-- The status and the flags of a completion word after the flags of a strand are in it (R188). -/
def flagged (fl : FSet) (w : Nat) : Nat := bits w 0 32 ||| (fl.toNat <<< 8)

variable {fl : FSet} {w : Nat}

theorem flagged_lt : flagged fl w < 2 ^ 32 := by
  have := fl.isLt
  refine Nat.or_lt_two_pow (by rw [bits_zero]; omega) ?_
  rw [Nat.shiftLeft_eq]
  omega

theorem flagged_field (lo n : Nat) : flagged fl w / 2 ^ lo % 2 ^ n = w % 2 ^ 32 / 2 ^ lo % 2 ^ n ||| fl.toNat * 2 ^ 8 / 2 ^ lo % 2 ^ n := by
  rw [flagged, bits_zero, ← Nat.shiftRight_eq_div_pow, Nat.shiftRight_or_distrib, Nat.or_mod_two_pow, Nat.shiftRight_eq_div_pow,
    Nat.shiftRight_eq_div_pow, Nat.shiftLeft_eq]

/-- The count of a completion word after a strand has ended (R188). -/
def counted (w : Nat) : Nat := (w / 2 ^ 32 % 2 ^ 32 + 2 ^ 32 - 1) % 2 ^ 32

theorem counted_lt : counted w < 2 ^ 32 := Nat.mod_lt _ (by decide)

/-- The lower half of a completion word: at count 0 its status is DONE (R188). -/
def closed (low count : Nat) : Nat := if count = 0 then low - low % 2 ^ 3 + 2 else low

theorem endCw_eq (fl : FSet) (w : Nat) : endCw fl w = closed (flagged fl w) (counted w) + counted w * 2 ^ 32 := by
  have count : (bits w 32 32 + 2 ^ 32 - 1) % 2 ^ 32 = counted w := by rw [counted, bits_eq]
  have status := bits_zero (flagged fl w) 3
  have high := Nat.shiftLeft_eq (counted w) 32
  rw [closed, ← status, ← high, ← count]
  rfl

theorem closed_lt {low count : Nat} (h : low < 2 ^ 32) : closed low count < 2 ^ 32 := by
  unfold closed
  split <;> omega

/-- Only the status changes there. -/
theorem closed_field {low count lo n : Nat} (h : 3 ≤ lo) : closed low count / 2 ^ lo % 2 ^ n = low / 2 ^ lo % 2 ^ n := by
  have eighth : closed low count / 2 ^ 3 = low / 2 ^ 3 := by
    unfold closed
    split <;> omega
  obtain ⟨k, rfl⟩ := Nat.exists_eq_add_of_le h
  rw [Nat.pow_add, ← Nat.div_div_eq_div_mul, ← Nat.div_div_eq_div_mul, eighth]

theorem field_wd (w lo n : Nat) : ((wd w).extractLsb' lo n).toNat = w % 2 ^ 64 / 2 ^ lo % 2 ^ n := by
  rw [BitVec.extractLsb'_toNat, Nat.shiftRight_eq_div_pow, wd, BitVec.toNat_ofNat]

/-- A field of the lower half of a word. -/
theorem field_low {low count lo n : Nat} (hn : lo + n ≤ 32) :
    ((wd (low + count * 2 ^ 32)).extractLsb' lo n).toNat = low / 2 ^ lo % 2 ^ n := by
  have half : ∀ x, x / 2 ^ lo % 2 ^ n = x % 2 ^ 32 / 2 ^ lo % 2 ^ n := fun x => by
    obtain ⟨k, hk⟩ := Nat.exists_eq_add_of_le hn
    rw [hk, Nat.pow_add, Nat.pow_add, Nat.mul_assoc, Nat.mod_mul_right_div_self, Nat.mod_mul_right_mod]
  rw [field_wd, half, half low]
  congr 2
  omega

theorem field_high {low count : Nat} (h : low < 2 ^ 32) (hc : count < 2 ^ 32) :
    ((wd (low + count * 2 ^ 32)).extractLsb' 32 32).toNat = count := by
  rw [field_wd]
  omega

theorem count_eq_one : (wd w).extractLsb' 32 32 = 1 ↔ counted w = 0 := by
  have one : (1 : BitVec 32).toNat = 1 := rfl
  rw [← BitVec.toNat_inj, field_wd, one, counted]
  omega

/-- The fields of a completion word after a strand has ended (R188). -/
theorem endCw_fields (fl : FSet) (w : Nat) :
    (wd (endCw fl w)).extractLsb' 32 32 = (wd w).extractLsb' 32 32 - 1 ∧
    (wd (endCw fl w)).extractLsb' 8 5 = (wd w).extractLsb' 8 5 ||| fl ∧
    (wd (endCw fl w)).extractLsb' 0 3 = (if (wd w).extractLsb' 32 32 = 1 then 2 else (wd w).extractLsb' 0 3) ∧
    (wd (endCw fl w)).extractLsb' 13 19 = (wd w).extractLsb' 13 19 := by
  have small := flagged_lt (fl := fl) (w := w)
  have low := closed_lt (count := counted w) small
  have hf := fl.isLt
  rw [endCw_eq]
  refine ⟨BitVec.eq_of_toNat_eq ?_, BitVec.eq_of_toNat_eq ?_, ?_, BitVec.eq_of_toNat_eq ?_⟩
  · have one : (1 : BitVec 32).toNat = 1 := rfl
    rw [field_high low counted_lt, BitVec.toNat_sub, field_wd, one, counted]
    omega
  · rw [field_low (by decide), closed_field (by decide), flagged_field, BitVec.toNat_or, field_wd]
    congr 1 <;> omega
  · by_cases last : (wd w).extractLsb' 32 32 = 1
    · rw [if_pos last]
      refine BitVec.eq_of_toNat_eq ?_
      have two : (2 : BitVec 3).toNat = 2 := rfl
      rw [field_low (by decide), two, closed, if_pos (count_eq_one.1 last)]
      omega
    · rw [if_neg last]
      refine BitVec.eq_of_toNat_eq ?_
      rw [field_low (by decide), closed, if_neg (mt count_eq_one.2 last), flagged_field, field_wd,
        show fl.toNat * 2 ^ 8 / 2 ^ 0 % 2 ^ 3 = 0 by omega, Nat.or_zero]
      omega
  · rw [field_low (by decide), closed_field (by decide), flagged_field, field_wd,
      show fl.toNat * 2 ^ 8 / 2 ^ 13 % 2 ^ 19 = 0 by omega, Nat.or_zero]
    omega

end word

end Sys2Proof.Machine

/-! The system instructions settled (R123, R188, R222-R224). -/

namespace Sys2Proof.Machine

theorem wd_mod (x : Nat) : wd (x % 2 ^ 64) = wd x := BitVec.eq_of_toNat_eq (by simp [wd])

theorem exec_endStrand {s : State} (hq : s.me.vheld = true ∨ s.me.vq = []) :
    exec .endStrand s = .next ((s.settleAll.endLaunch s.me).removeStrand s.me.uid) := by
  have idle : (s.me.vheld || s.me.vq.isEmpty) = true := by simpa using hq
  show runInstr _ s = _
  refine runInstr_ok ?_
  simp only [run_bind, run_me, run_waitFor, idle, if_true, run_modify]

/-- The completion word of a strand that has ended, where its launch has a place for it (R188). -/
theorem State.natAt_ended {s u : State} {l : Launch} {pl : Place} {f : Nat → Nat} (h : LaunchEnded s u l f)
    (ha : recBits l.record 320 64 % 8 = 0) (hp : s.cwPlace l = some pl) (hs : s.Inv) (plain : s.plainAt pl.addr 8) :
    u.natAt pl.addr 8 = f (s.natAt pl.addr 8) % 2 ^ 64 := by
  rw [State.natAt_congr h.mem h.accums, State.cwOrRequest_placed ha hp]
  exact State.natAt_putDev hs plain

section dfin

variable {s s1 : State} {a b : SReg} {o : Option Place} (ha : s.me.readable a) (hb : s.me.readable b)
  (hn : (s.me.sreg b).toNat ≠ 0) (block : (s.me.sreg a).toNat % 4096 + (s.me.sreg b).toNat ≤ 4096)
  (hx : (s.me.sreg a).toNat + (s.me.sreg b).toNat ≤ 2 ^ 64)
include ha hb hn block hx

/-- `dfin` of a range inside one block of the scratch aperture does nothing (R223). -/
theorem exec_dfin_aperture (ap : inAperture (s.me.sreg a) = true) : exec (.dfin a b) s = .next (s.skip 4) := by
  have piece := dfinFrom_block (s := s) hn block ((s.me.sreg b).toNat / 4096 + 1)
  rw [wd_word, ap] at piece
  exact exec_dfin ha hb hx (fun h => hn (congrArg BitVec.toNat h)) piece

/-- Elsewhere it does what it does at the place of the range. -/
theorem exec_dfin_placed (ap : inAperture (s.me.sreg a) = false)
    (hp : (dfinPlace (s.me.sreg a) (s.me.sreg a)).run s = .ok o s1) :
    exec (.dfin a b) s = .next ((s1.finishAt (s.me.sreg b).toNat o).skip 4) := by
  have piece := dfinFrom_block (s := s) hn block ((s.me.sreg b).toNat / 4096 + 1)
  rw [wd_word, ap, hp] at piece
  exact exec_dfin ha hb hx (fun h => hn (congrArg BitVec.toNat h)) piece

end dfin

/-- Settles O25: one lemma per case of each instruction. -/
theorem systemResults : Obligations.SystemResults := by
  unfold Obligations.SystemResults
  refine ⟨fun s hq => ?_, fun s a b p hl hq hp => ⟨?_, fun ha hb => ?_⟩,
    fun s d a b ha hb hd => ⟨?_, fun h0 => ?_, fun past => ?_, fun hl hx => ?_, fun hl hx hz => ?_⟩,
    fun s d a b ha hb hd => ⟨fun pl s1 => ?_, fun hl => ?_⟩⟩
  · have ex : exec .endStrand s = .next ((s.settleAll.endLaunch s.me).removeStrand s.me.uid) := exec_endStrand hq
    obtain ⟨me, found⟩ := s.settleAll.endLaunch_kept s.me
    have me : (s.settleAll.endLaunch s.me).me = s.me := me
    have gone := State.removeStrand_removed (s.settleAll.endLaunch s.me)
    have ended : _ = s.me.ended := gone.me.trans (congrArg Strand.ended me)
    have settled : ∀ l, s.launchOf s.me = some l → _ := fun l hl => State.endLaunch_ended (s := s.settleAll) (t := s.me) hl
    have none : s.launchOf s.me = none → _ := fun nl => State.endLaunch_none (s := s.settleAll) (t := s.me) nl
    generalize s.settleAll.endLaunch s.me = u at *
    rw [me] at gone ended
    refine ⟨_, ex, (congrArg Strand.uid ended :), (congrArg Strand.live ended :), (congrArg Strand.place ended :), me ▸ gone.slots,
      fun no nl => ?_, fun p hp => ?_, fun l hl => ?_, fun l pl hl ha hp hs plain idle => ?_⟩
    · exact (gone.mem (me ▸ no)).trans (none nl ▸ rfl)
    · obtain ⟨mine, there⟩ := State.myPart?_some hp
      exact me ▸ gone.parked p.pid (me ▸ mine) ((found p.pid).trans (Option.isSome_iff_exists.2 ⟨p, there⟩))
    · obtain ⟨l', hl', left, final⟩ := (settled l hl).launch
      exact ⟨l', (congrArg (List.find? _) gone.launches).trans hl', left, final⟩
    · obtain ⟨mem, accums⟩ := gone.bytes ((settled l hl).calls ▸ me ▸ idle)
      have word : u.natAt pl.addr 8 = endCw s.me.allFlags (s.natAt pl.addr 8) % 2 ^ 64 :=
        State.natAt_ended (s := s.settleAll) (settled l hl) ha hp hs plain
      rw [State.natAt_congr mem accums, word, wd_mod]
      exact endCw_fields s.me.allFlags _
  · exact ⟨_, _, exec_tlbia hl hq hp, s.order_landsTo _ _ _, fun x => State.mem_dropEntries_tlb.trans (by simp), rfl⟩
  · exact ⟨_, _, exec_tlbi hl hq hp ha hb, s.order_landsTo _ _ _, rfl, fun x => by
      rw [← Tlb.covers_iff]
      exact State.mem_dropEntries_tlb⟩
  · exact scalar_ok (by simp only [run_bind, readS_plain ha, readS_plain hb, run_pure])
  · refine scalar_ok ?_
    have := (s.me.sreg a).isLt
    simp [readS_plain ha, readS_plain hb, h0, Nat.not_lt.2 this.le]
  · refine scalar_trap (s' := s) ?_
    simp only [run_bind, readS_plain ha, readS_plain hb, if_pos past, run_trapAt, wd_word]
  · exact testScan_answers hl ha hd (scanResult_reserved (BitVec.isLt _) hx) rfl
  · intro c hcol hcore hw hs
    exact testScan_answers hl ha hd (scanResult_refused ⟨hx, hz, hcol, hcore⟩ hw hs) rfl
  · exact fun hn block hx => ⟨exec_dfin_aperture ha hb hn block hx, exec_dfin_placed ha hb hn block hx (o := some pl),
      exec_dfin_placed ha hb hn block hx (o := none)⟩
  · intro x c k hx hz hcol hcore
    have h : ScanOperand x := ⟨hx, hz, hcol, hcore⟩
    refine ⟨fun hw hdr hs => testScan_waits hl ha (scanResult_starts h hw hdr hs) rfl,
      fun hs hw => testScan_answers hl ha hd (scanResult_aborted h hs hw) rfl, fun hs hw hf => ?_, fun hs hw hf => ?_⟩
    · obtain ⟨sig, n, run⟩ := scanResult_completes h hs hw hf
      have ctl := State.ctl_modCtl (s := { s with draw := n }) (c := c)
        (f := fun k => { k with scanBy := none, pat := bits x 16 8, sig := sig }) (State.ctl_core ..)
      refine ⟨_, sig, testScan_answers hl ha hd run rfl, ?_, ?_, ?_, ?_, rfl⟩
      · rw [Nat.zero_add]
        rfl
      · exact congrArg CoreCtl.scanBy ctl
      · exact congrArg CoreCtl.sig ctl
      · exact (congrArg CoreCtl.pat ctl).trans h.pat_eq
    · exact ⟨_, testScan_waits hl ha (scanResult_runs h hs hw hf) rfl, rfl, rfl, rfl⟩

end Sys2Proof.Machine

/-! The register writes with rows of their own: backing areas, the queue drop, and the launch queues' table (R136, R154, R168, R180). -/

namespace Sys2Proof.Machine

section checked

variable {s s1 : State} {p : Part} {c : Nat} {f : Word → M Unit} {g : Part → M Unit}

theorem run_onPart (hp : s.myPart? = some p) : (onPart g).run s = (g p).run s := by
  simp only [onPart, run_bind, run_get, hp]

variable (hl : 1 ≤ s.me.pl.num) (hp : s.myPart? = some p) (hc : regLevels c = some (.sup, .sup)) (hh : hypReg c = false)
include hl hp hc hh

/-- A write that a supervisor of a partition may make passes its checks (R145, R467). -/
theorem regCheck_write : (regCheck (.putc 0 (BitVec.ofNat 14 c)) c true).run s = .ok () s :=
  regCheck_ok hc hl (fun h => absurd (h.symm.trans hh) nofun) fun _ => by rw [(State.myPart?_some hp).1]; rfl

theorem ctlWrite_ok (h : (f s.ev.v).run s = .ok () s1) : ctlWrite c f s = .next (s1.skip 4) :=
  scalar_ok (by simp only [run_bind, regCheck_write hl hp hc hh, run_get, h])

theorem ctlWrite_trap {t : Trap} (h : (f s.ev.v).run s = .error (.trap t false) s1) : ctlWrite c f s = .next (s.takeTrap t false false) :=
  scalar_trap (s' := s1) (by simp only [run_bind, regCheck_write hl hp hc hh, run_get, h])

end checked

/-- A write that changes the partition of the executing strand alone. -/
theorem changes_part {s : State} {p : Part} {i : Instr} {f : Part → Part} (hp : s.myPart? = some p) (hf : ∀ q, (f q).pid = q.pid)
    (h : exec i s = .next ((s.modPart p.pid f).skip 4)) : ∃ t, exec i s = .next t ∧ t.part? p.pid = some (f p) ∧ t.mem = s.mem ∧
      t.me = { s.me with pc := s.me.pc + 4 } :=
  ⟨_, h, State.part?_modPart (State.myPart?_some hp).2 hf, rfl, rfl⟩

theorem run_modMyPart_part {s : State} {p : Part} {f : Part → Part} (hp : s.myPart? = some p) :
    (modMyPart f).run s = .ok () (s.modPart p.pid f) := by
  simp only [run_modMyPart, (State.myPart?_some hp).1]

/-! ### VBACK -/

theorem and_vbackMask (n : Nat) : n &&& (1 + (2 ^ 31 - 1) <<< 17) = n % 2 + n / 2 ^ 17 % 2 ^ 31 * 2 ^ 17 := by
  have fields : n / 2 ^ 17 % 2 ^ 31 * 2 ^ 17 + n % 2 = (n / 2 ^ 17 % 2 ^ 31) <<< 17 ||| n % 2 ^ 1 := by
    rw [← Nat.shiftLeft_eq]
    exact Nat.shiftLeft_add_eq_or_of_lt (by omega) _
  have mask : 1 + (2 ^ 31 - 1) <<< 17 = (2 ^ 31 - 1) <<< 17 ||| (2 ^ 1 - 1) := by decide
  rw [mask, Nat.add_comm (n % 2), fields]
  refine Nat.eq_of_testBit_eq fun i => ?_
  simp only [Nat.testBit_and, Nat.testBit_or, Nat.testBit_shiftLeft, Nat.testBit_two_pow_sub_one, Nat.testBit_mod_two_pow,
    Nat.testBit_div_two_pow]
  by_cases h : 17 ≤ i
  · simp [h, show i ≠ 0 by omega, Bool.and_comm]
  · simp [h, Bool.and_comm]

section vback

variable {s : State} {p : Part} {v : Word}

/-- What VBACK takes of a written word, V being set: V and the area (R146). -/
theorem vback_fields (h : v.getLsbD 0 = true) : v &&& vbackMask = wd (1 + v.toNat / 2 ^ 17 % 2 ^ 31 * 2 ^ 17) := by
  have odd : v.toNat % 2 = 1 := by
    have : v.toNat.testBit 0 = true := h
    simpa using this
  have := and_vbackMask v.toNat
  refine BitVec.eq_of_toNat_eq ?_
  have mask : vbackMask.toNat = 1 + (2 ^ 31 - 1) <<< 17 := by decide
  rw [BitVec.toNat_and, mask, and_vbackMask, odd, wd, BitVec.toNat_ofNat]
  omega

theorem vback_bit (a : Nat) : bit (wd (1 + a % 2 ^ 31 * 2 ^ 17)).toNat 0 = true := by
  rw [bit_eq, wd, BitVec.toNat_ofNat]
  exact decide_eq_true (by omega)

theorem vback_area (a : Nat) : bits (wd (1 + a % 2 ^ 31 * 2 ^ 17)).toNat 17 31 = a % 2 ^ 31 := by
  rw [bits_eq, wd, BitVec.toNat_ofNat]
  omega

end vback

/-- What the write of VBACK changes: with V set before, the dirty registers go to the old area; a new area has none of them (R249). -/
def State.withVback (new : Word) (s : State) : State :=
  let s := if bit s.me.vback.toNat 0 then s.writeBack s.me.uid else s
  let moved := bit new.toNat 0 && bits new.toNat 17 31 != bits s.me.vback.toNat 17 31
  let t := if moved then s.me.dropResident else s.me
  { s with me := { t with vback := new } }

/-- The write of VBACK once its area has been looked up. -/
def takeVback (s : State) (new : Word) : M Unit := do
  if new != s.me.vback then
    waitFor (s.me.vheld || s.me.vq.isEmpty)
    for o in (← me).tiles do
      mergeTile s.me.uid o.base
    modify (State.withVback new)

/-- The look-up of an area for VBACK, by the number of its bytes. -/
def lookVback (s : State) (new : Word) (area size : Nat) (k : M Unit) : M Unit := do
  if bit new.toNat 0 then
    match s.myPart? with
    | none => trapAt 7 (wd area)
    | some p =>
      match s.unmapped p area size with
      | some a => trapAt 7 (wd a)
      | none => pure ()
  k

theorem putVback_eq (v : Word) : putVback v = (do
    let s ← get
    lookVback s (v &&& vbackMask) (bits (v &&& vbackMask).toNat 17 31 <<< 17) 131072 (takeVback s (v &&& vbackMask))) := rfl

theorem lookVback_some {s t : State} {p : Part} {new : Word} {area size a : Nat} {k : M Unit} (hb : bit new.toNat 0 = true)
    (hp : s.myPart? = some p) (h : s.unmapped p area size = some a) :
    (lookVback s new area size k).run t = .error (.trap ⟨7, wd a, .sup⟩ false) t := by
  simp only [lookVback, hb, if_true, hp, h, run_bind, run_trapAt]

theorem lookVback_none {s t : State} {p : Part} {new : Word} {area size : Nat} {k : M Unit} (hb : bit new.toNat 0 = true)
    (hp : s.myPart? = some p) (h : s.unmapped p area size = none) : (lookVback s new area size k).run t = k.run t := by
  simp only [lookVback, hb, if_true, hp, h]

section vback

variable {s : State} {p : Part} {v new : Word} {area : Nat} (hn : v &&& vbackMask = new) (hb : bit new.toNat 0 = true)
  (ha : bits new.toNat 17 31 <<< 17 = area)
include hn hb ha

/-- An area that stage 2 does not map is refused (R168). -/
theorem putVback_unmapped {a : Nat} (hp : s.myPart? = some p) (h : s.unmapped p area 131072 = some a) :
    (putVback v).run s = .error (.trap ⟨7, wd a, .sup⟩ false) s := by
  simp only [putVback_eq, hn, ha, run_bind, run_get, lookVback_some hb hp h]

/-- A mapped one is taken once nothing waits in the queue (R168). -/
theorem putVback_mapped (hp : s.myPart? = some p) (h : s.unmapped p area 131072 = none) (hd : (new != s.me.vback) = true)
    (hq : s.me.vheld = true ∨ s.me.vq = []) (ht : s.me.tiles = []) : (putVback v).run s = .ok () (s.withVback new) := by
  have idle : (s.me.vheld || s.me.vq.isEmpty) = true := by simpa using hq
  simp only [putVback_eq, hn, ha, run_bind, run_get, lookVback_none hb hp h, takeVback, hd, if_true, run_waitFor, idle, run_me, ht,
    List.forIn_nil, run_pure, run_modify]

end vback

/-- With V clear before, nothing is written back; registers of another area are dropped (R249). -/
theorem State.withVback_fresh {s : State} {a : Nat} (h0 : s.me.vback.getLsbD 0 = false) :
    s.withVback (wd (1 + a % 2 ^ 31 * 2 ^ 17)) = { s with me := {
      (if s.me.vback.toNat / 2 ^ 17 % 2 ^ 31 * 2 ^ 17 = a % 2 ^ 31 * 2 ^ 17 then s.me else s.me.dropResident) with
      vback := wd (1 + a % 2 ^ 31 * 2 ^ 17) } } := by
  have was : bit s.me.vback.toNat 0 = false := h0
  have set := vback_bit a
  have area := vback_area a
  generalize wd (1 + a % 2 ^ 31 * 2 ^ 17) = new at *
  have moved : (bit new.toNat 0 && bits new.toNat 17 31 != bits s.me.vback.toNat 17 31) = true ↔
      ¬ s.me.vback.toNat / 2 ^ 17 % 2 ^ 31 * 2 ^ 17 = a % 2 ^ 31 * 2 ^ 17 := by
    rw [set, area, bits_eq, Bool.true_and, bne_iff_ne]
    omega
  have kept : s.withVback new = { s with me := { (if (bit new.toNat 0 && bits new.toNat 17 31 != bits s.me.vback.toNat 17 31) = true
      then s.me.dropResident else s.me) with vback := new } } := by
    unfold State.withVback
    rw [was]
    rfl
  rw [kept]
  by_cases same : s.me.vback.toNat / 2 ^ 17 % 2 ^ 31 * 2 ^ 17 = a % 2 ^ 31 * 2 ^ 17
  · rw [if_neg (mt moved.1 (not_not.2 same)), if_pos same]
  · rw [if_pos (moved.2 same), if_neg same]

/-! ### VQCTL, DETBASE and DETCNT, LQBASE -/

section queue

variable {s : State} {v : Word}

theorem or_one_set (v : Word) : bit (v ||| 1).toNat 0 = true := by
  simp [bit]

/-- A drop discards the first held entry (R154). -/
theorem putVqctl_drop {e : VEntry} {rest : List VEntry} (hh : s.me.vheld = true) (hq : s.me.vq = e :: rest) :
    (putVqctl (v ||| 1)).run s = .ok () { s with me := { s.me with
      vq := rest, vheld := !rest.isEmpty, vcommit := s.me.vcommit + 1, vstart := 0, spend := sdMask rest } } := by
  simp only [putVqctl, or_one_set, if_true, run_modMe, hh, hq, List.isEmpty_cons, Bool.not_false, Bool.and_self, List.drop_succ_cons,
    List.drop_zero]

theorem putVqctl_not_held (hh : s.me.vheld = false) : (putVqctl (v ||| 1)).run s = .ok () s := by
  simp only [putVqctl, or_one_set, if_true, run_modMe, hh, Bool.false_and, Bool.false_eq_true, if_false]

end queue

section backing

variable {s : State} {p : Part} {v : Word} {cnt : Bool}

/-- With an entry in use the write is ignored (R136). -/
theorem putDet_used (h : s.entriesUsed p = true) : (putDet p cnt v).run s = .ok () s := by
  simp [putDet, h]

theorem putDet_base (hp : s.myPart? = some p) (h : s.entriesUsed p = false) : (putDet p false v).run s =
    .ok () (s.modPart p.pid fun p => { p with detbase := wd (v.toNat / 2 ^ 16 % 2 ^ 32 * 2 ^ 16) }) := by
  simp [putDet, h, run_modMyPart_part hp, bits_eq, Nat.shiftLeft_eq]

theorem putDet_count (hp : s.myPart? = some p) (h : s.entriesUsed p = false)
    (hm : s.unmapped p p.detbase.toNat (48 * (v.toNat % 2 ^ 24)) = none) : (putDet p true v).run s =
    .ok () (s.modPart p.pid fun p => { p with detcnt := wd (v.toNat % 2 ^ 24) }) := by
  rw [← bits_zero] at hm ⊢
  simp [putDet, h, hm, run_modMyPart_part hp]

theorem putDet_unmapped {a : Nat} (h : s.entriesUsed p = false)
    (hm : s.unmapped p p.detbase.toNat (48 * (v.toNat % 2 ^ 24)) = some a) :
    (putDet p true v).run s = .error (.trap ⟨7, wd a, .sup⟩ false) s := by
  rw [← bits_zero] at hm
  simp [putDet, h, hm]

end backing

section table

/-- The write of LQBASE, by the number of the table's bytes (R180). -/
def setTable (s : State) (p : Part) (v : Word) (size : Nat) : M Unit :=
  match if bit v.toNat 0 then s.unmapped p (bits v.toNat 12 36 <<< 12) size else none with
  | some a => trapAt 7 (wd a)
  | none => modMyPart fun p => { p with
      lqbase := wd (bits v.toNat 0 1 + bits v.toNat 12 36 <<< 12), queues := p.queues.map fun q => { q with isOpen := false } }

variable {s : State} {p : Part} {v : Word} {size : Nat}

theorem putLqbase_run : (putLqbase p v).run s = (setTable s p v 4096).run s := rfl

theorem setTable_unmapped {a : Nat} (hv : bit v.toNat 0 = true) (h : s.unmapped p (bits v.toNat 12 36 <<< 12) size = some a) :
    (setTable s p v size).run s = .error (.trap ⟨7, wd a, .sup⟩ false) s := by
  simp only [setTable, hv, if_true, h, run_trapAt]

theorem setTable_mapped (hp : s.myPart? = some p) (h : bit v.toNat 0 = false ∨ s.unmapped p (bits v.toNat 12 36 <<< 12) size = none) :
    (setTable s p v size).run s = .ok () (s.modPart p.pid fun p => { p with
      lqbase := wd (bits v.toNat 0 1 + bits v.toNat 12 36 <<< 12), queues := p.queues.map fun q => { q with isOpen := false } }) := by
  have none : (if bit v.toNat 0 then s.unmapped p (bits v.toNat 12 36 <<< 12) size else none) = none := by
    rcases h with h | h
    · exact if_neg (Bool.eq_false_iff.1 h)
    · rw [h]
      exact ite_self _
  simp only [setTable, none, run_modMyPart_part hp]

end table

end Sys2Proof.Machine

/-! The doorbell of a launch queue, and the reload of an RCB (R175, R180, R181). -/

namespace Sys2Proof.Machine

/-! ### Scheduler requests -/

/-- A partition with a scheduler request raised (R195). -/
def Part.asked (p : Part) (val : Nat) (ctx : Option Nat) : Part :=
  if p.reqs.length < 64 then { p with reqs := p.reqs ++ [⟨wd val, ctx⟩] } else { p with reqLost := true }

theorem State.request_eq (s : State) (pid val : Nat) (ctx : Option Nat) : s.request pid val ctx = s.modPart pid (·.asked val ctx) := rfl

section asked

variable (p : Part) (val : Nat) (ctx : Option Nat)

theorem Part.asked_pid : (p.asked val ctx).pid = p.pid := by unfold Part.asked; split <;> rfl
theorem Part.asked_queues : (p.asked val ctx).queues = p.queues := by unfold Part.asked; split <;> rfl
theorem Part.asked_rcbs : (p.asked val ctx).rcbs = p.rcbs := by unfold Part.asked; split <;> rfl

/-- The request is held, or the lost mark is set (R195). -/
theorem Part.asked_held : (p.asked val ctx).reqLost = true ∨ ∃ r ∈ (p.asked val ctx).reqs, r.val = wd val := by
  unfold Part.asked
  split
  · exact .inr ⟨_, List.mem_append_right _ (List.mem_singleton_self _), rfl⟩
  · exact .inl rfl

end asked

/-! ### The doorbell -/

/-- What a doorbell makes of a queue, by the bytes of its descriptor (R181). -/
def LQueue.reread (x : LQueue) (l : List Byte) : LQueue :=
  let y : LQueue := { x with failed := false, word0 := wd (dwordAt l 0), ring := wd (dwordAt l 1), tail := BitVec.ofNat 32 (dwordAt l 2) }
  let head := BitVec.ofNat 32 (dwordAt l 3)
  if bit (wd (dwordAt l 0)).toNat 0 then
    let z := if x.isOpen then y else { y with isOpen := true, head := head, replay := head, restore := [], dc := 0 }
    if z.rpl then z else { z with replay := z.head }
  else { y with isOpen := false }

section reread

variable {x : LQueue} {l : List Byte}

theorem wd_bit (n i : Nat) (h : i < 64) : bit (wd n).toNat i = n.testBit i := by
  simp only [bit, wd, BitVec.toNat_ofNat, Nat.testBit_mod_two_pow, h, decide_true, Bool.true_and]

theorem LQueue.reread_fields (x : LQueue) (l : List Byte) : (x.reread l).word0 = wd (dwordAt l 0) ∧ (x.reread l).ring = wd (dwordAt l 1) ∧
    (x.reread l).failed = false ∧ (x.reread l).tail = BitVec.ofNat 32 (dwordAt l 2) ∧ (x.reread l).isOpen = (dwordAt l 0).testBit 0 := by
  rw [← wd_bit _ 0 (by decide)]
  unfold LQueue.reread
  dsimp only
  by_cases en : bit (wd (dwordAt l 0)).toNat 0 = true
  · rw [if_pos en, en]
    by_cases was : x.isOpen = true
    · rw [if_pos was]
      split <;> exact ⟨rfl, rfl, rfl, rfl, was⟩
    · rw [if_neg was]
      split <;> exact ⟨rfl, rfl, rfl, rfl, rfl⟩
  · rw [if_neg en, Bool.eq_false_iff.2 en]
    exact ⟨rfl, rfl, rfl, rfl, rfl⟩

/-- A queue that opens takes HEAD from its descriptor (R181). -/
theorem LQueue.reread_opens (en : (dwordAt l 0).testBit 0 = true) (h : x.isOpen = false) :
    (x.reread l).head = BitVec.ofNat 32 (dwordAt l 3) ∧ (x.reread l).replay = (x.reread l).head ∧ (x.reread l).restore = [] := by
  rw [← wd_bit _ 0 (by decide)] at en
  unfold LQueue.reread
  dsimp only
  rw [if_pos en, if_neg (Bool.eq_false_iff.1 h)]
  split <;> exact ⟨rfl, rfl, rfl⟩

/-- An open queue keeps HEAD, and REPLAY while RPL is 1 (R181). -/
theorem LQueue.reread_open (h : x.isOpen = true) : (x.reread l).head = x.head ∧ (x.reread l).replay =
    if (dwordAt l 0).testBit 0 = true ∧ (dwordAt l 0).testBit 3 = false then x.head else x.replay := by
  rw [← wd_bit _ 0 (by decide), ← wd_bit _ 3 (by decide)]
  unfold LQueue.reread LQueue.rpl
  dsimp only
  by_cases en : bit (wd (dwordAt l 0)).toNat 0 = true
  · rw [if_pos en, if_pos h, en]
    by_cases keep : bit (wd (dwordAt l 0)).toNat 3 = true
    · rw [if_pos keep, keep]
      exact ⟨rfl, rfl⟩
    · rw [if_neg keep, Bool.eq_false_iff.2 keep]
      exact ⟨rfl, rfl⟩
  · rw [if_neg en, Bool.eq_false_iff.2 en]
    exact ⟨rfl, rfl⟩

end reread

theorem Part.queue_modify {p : Part} {q : Nat} {f : LQueue → LQueue} (h : q < p.queues.length) :
    ({ p with queues := p.queues.modify q f } : Part).queue q = f (p.queue q) := by
  simp [Part.queue, nth, h]

/-- What posting to a queue's descriptor leaves as it is: strands, launches, and the queues of a partition. -/
structure Rung (s t : State) (p : Part) : Prop where
  me : t.me = s.me
  launches : t.launches = s.launches
  part : ∃ p', t.part? p.pid = some p' ∧ p'.queues = p.queues

theorem State.putDesc_rung {s : State} {p p' : Part} (h : s.part? p.pid = some p) (hp : p'.pid = p.pid) (q off : Nat) (l : List Byte) :
    Rung s (s.putDesc p' q off l) p := by
  have only := MemOnly.putIpa s p' (p'.descIpa q + off) l true
  have there : (s.putIpa p' (p'.descIpa q + off) l).1.part? p.pid = some p := (congrArg (List.find? _) only.parts_eq).trans h
  unfold State.putDesc
  split
  next run =>
    rw [run] at only there
    exact ⟨only.me_eq, only.launches_eq, p, there, rfl⟩
  next run =>
    rw [run] at only there
    have asked := State.part?_modPart (f := (·.asked (2 + q <<< 8) none)) there fun _ => Part.asked_pid ..
    exact ⟨only.me_eq, only.launches_eq, _, by rw [State.request_eq, hp]; exact asked, Part.asked_queues ..⟩

/-- What a doorbell makes of the state (R180, R181). -/
structure Doorbell (s t : State) (p : Part) (q : Nat) (l : List Byte) : Prop where
  me : t.me = s.me
  part : ∃ p', t.part? p.pid = some p' ∧ p'.queue q = (p.queue q).reread l
  opened : (dwordAt l 0).testBit 0 = true → (p.queue q).isOpen = false →
    ∀ z ∈ t.launches, ¬ (z.pid = p.pid ∧ z.queue = some q ∧ z.stat = .waiting)

/-- What waited of a queue that opens is dropped (R181). -/
def State.dropWaiting (s : State) (p : Part) (q : Nat) (x : LQueue) : State :=
  if x.isOpen then s else
    { s with launches := s.launches.filter fun (l : Launch) => !(l.pid = p.pid && l.queue = some q && l.stat = LStat.waiting) }

/-- A TAIL that leaves the ring behind is a breach (R12, R181). -/
def State.checkRing (s : State) (p : Part) (y : LQueue) : State :=
  if y.ringSize < (y.tail - y.replay).toNat then s.breach p.pid 0 .sup else s

/-- An open queue's new value is stored, and REPLAY is written (R181). -/
def State.storeQueue (s : State) (p : Part) (q : Nat) (x y : LQueue) : State :=
  let s := ((s.dropWaiting p q x).checkRing p y).modQueue p.pid q fun _ => y
  if x.isOpen && y.replay = x.replay then s else s.putDesc p q 32 (leBytes 8 y.replay.toNat)

theorem State.refresh_eq {s : State} {p : Part} {q : Nat} {l : List Byte} (h : s.part? p.pid = some p)
    (hl : s.ipaBytes p (p.descIpa q) 40 = some l) : (s.refresh p.pid q true).1 =
      if bit (wd (dwordAt l 0)).toNat 0 then s.storeQueue p q (p.queue q) ((p.queue q).reread l)
      else s.modQueue p.pid q fun _ => (p.queue q).reread l := by
  simp only [State.refresh, h, hl, Bool.not_true, Bool.and_false]
  unfold LQueue.reread
  by_cases en : bit (wd (dwordAt l 0)).toNat 0 = true
  · simp only [en]
    rfl
  · rw [Bool.not_eq_true] at en
    simp only [en]
    rfl

section stored

variable {s : State} {p : Part} {q : Nat} {x y : LQueue}

/-- The partition once a queue has a new value. -/
def Part.withQueue (p : Part) (q : Nat) (y : LQueue) : Part := { p with queues := p.queues.modify q fun _ => y }

theorem State.part?_modQueue (h : s.part? p.pid = some p) :
    (s.modQueue p.pid q fun _ => y).part? p.pid = some (p.withQueue q y) :=
  State.part?_modPart (f := fun p => p.withQueue q y) h fun _ => rfl

theorem Part.queue_withQueue (hq : q < p.queues.length) : (p.withQueue q y).queue q = y := Part.queue_modify (f := fun _ => y) hq

theorem State.dropWaiting_same : (s.dropWaiting p q x).me = s.me ∧ (s.dropWaiting p q x).parts = s.parts := by
  unfold State.dropWaiting
  split <;> exact ⟨rfl, rfl⟩

theorem State.dropWaiting_gone (h : x.isOpen = false) :
    ∀ z ∈ (s.dropWaiting p q x).launches, ¬ (z.pid = p.pid ∧ z.queue = some q ∧ z.stat = .waiting) := by
  unfold State.dropWaiting
  rw [if_neg (Bool.eq_false_iff.1 h)]
  exact fun z hz => by simpa only [Bool.not_eq_true', Bool.and_eq_false_iff, decide_eq_false_iff_not, not_and_or, or_assoc] using
    (List.mem_filter.1 hz).2

theorem State.checkRing_same : (s.checkRing p y).me = s.me ∧ (s.checkRing p y).parts = s.parts ∧ (s.checkRing p y).launches = s.launches := by
  unfold State.checkRing State.breach
  split
  · split <;> exact ⟨rfl, rfl, rfl⟩
  · exact ⟨rfl, rfl, rfl⟩

theorem State.putReplay_rung (h : s.part? p.pid = some (p.withQueue q y)) (b : Bool) (l : List Byte) :
    Rung s (if b then s else s.putDesc p q 32 l) (p.withQueue q y) := by
  cases b with
  | true => exact ⟨rfl, rfl, _, h, rfl⟩
  | false => exact State.putDesc_rung (p := p.withQueue q y) (p' := p) h rfl q 32 l

/-- A stored queue is found again, whether its descriptor is written or not. -/
theorem State.storeQueue_rung (h : s.part? p.pid = some p) :
    Rung (((s.dropWaiting p q x).checkRing p y).modQueue p.pid q fun _ => y) (s.storeQueue p q x y) (p.withQueue q y) := by
  obtain ⟨-, parts2, -⟩ := State.checkRing_same (s := s.dropWaiting p q x) (p := p) (y := y)
  have parts := parts2.trans State.dropWaiting_same.2
  exact State.putReplay_rung (State.part?_modQueue ((congrArg (List.find? _) parts).trans h)) ..

/-- A doorbell rereads the descriptor of its queue (R180, R181). -/
theorem State.refresh_read {l : List Byte} (h : s.part? p.pid = some p) (hq : q < p.queues.length)
    (hl : s.ipaBytes p (p.descIpa q) 40 = some l) : Doorbell s (s.refresh p.pid q true).1 p q l := by
  rw [State.refresh_eq h hl]
  split
  next en =>
    obtain ⟨me, launches, p', there, queues⟩ := State.storeQueue_rung (q := q) (x := p.queue q) (y := (p.queue q).reread l) h
    obtain ⟨me2, -, launches2⟩ := State.checkRing_same (s := s.dropWaiting p q (p.queue q)) (p := p) (y := (p.queue q).reread l)
    have same : p'.queue q = (p.withQueue q ((p.queue q).reread l)).queue q := by simp only [Part.queue, queues]
    exact ⟨me.trans (me2.trans State.dropWaiting_same.1), ⟨p', there, same.trans (Part.queue_withQueue hq)⟩,
      fun _ was => (launches.trans launches2) ▸ State.dropWaiting_gone was⟩
  next off =>
    exact ⟨rfl, ⟨_, State.part?_modQueue h, Part.queue_withQueue hq⟩, fun en => absurd ((wd_bit _ 0 (by decide)).trans en) off⟩

end stored

/-! ### RELOAD -/

section reload

variable {s : State} {p : Part} {ipa : Nat} {r : Rcb}

/-- What is read at an IPA has that IPA. -/
theorem State.rawRcb_ipa (h : s.rawRcb p ipa = some r) : r.ipa = ipa := by
  unfold State.rawRcb at h
  cases hq : s.rawQueueRcb p ipa with
  | none => simp [hq] at h
  | some x =>
    have hx : x.ipa = ipa := by
      obtain ⟨n, -, rfl⟩ := Option.map_eq_some_iff.1 hq
      rfl
    simp only [hq] at h
    split at h
    · unfold State.rawContext at h
      split at h
      · cases h
      · exact Option.some.inj h ▸ rfl
    · exact Option.some.inj h ▸ hx

/-- An RCB as a reload reads it (R175). -/
def State.freshRcb (s : State) (p : Part) (r : Rcb) : Rcb := (s.rawRcb p r.ipa).getD { r with killed := false }

theorem State.freshRcb_ipa (s : State) (p : Part) (r : Rcb) : (s.freshRcb p r).ipa = r.ipa := by
  unfold State.freshRcb
  cases h : s.rawRcb p r.ipa with
  | none => rfl
  | some x => exact State.rawRcb_ipa h

/-- Is an RCB read anew by a reload of an IPA (R175)? -/
def rereadBy (ipa : Nat) (r : Rcb) : Bool :=
  decide (r.ipa = ipa) || (decide (bits r.bits.toNat 0 3 = 3) && decide (rcbParent r.bits.toNat = ipa))

/-- The RCBs of a partition after a reload (R175). -/
def State.reloadedRcbs (s : State) (p : Part) (ipa : Nat) : List Rcb := p.rcbs.map fun r => if rereadBy ipa r then s.freshRcb p r else r

theorem State.reload_part (h : s.part? p.pid = some p) :
    ∃ p', (s.reload p.pid ipa).part? p.pid = some p' ∧ p'.rcbs = s.reloadedRcbs p ipa := by
  unfold State.reload
  simp only [h]
  exact ⟨_, State.part?_modPart h fun _ => rfl, rfl⟩

theorem State.reload_same (s : State) (pid ipa : Nat) : (s.reload pid ipa).me = s.me ∧ (s.reload pid ipa).mem = s.mem := by
  unfold State.reload
  split <;> exact ⟨rfl, rfl⟩

/-- The RCB of the IPA is found as memory holds it. -/
theorem State.reloadedRcbs_find (h : p.rcb? ipa = some r) : (s.reloadedRcbs p ipa).find? (·.ipa == ipa) = some (s.freshRcb p r) := by
  have hr : r.ipa = ipa := by simpa using List.find?_some h
  have same : ((fun x : Rcb => x.ipa == ipa) ∘ fun r => if rereadBy ipa r then s.freshRcb p r else r) = fun x => x.ipa == ipa := by
    funext x
    by_cases hx : rereadBy ipa x = true <;> simp [hx, State.freshRcb_ipa]
  have mine : rereadBy ipa r = true := by simp [rereadBy, hr]
  have found : p.rcbs.find? (·.ipa == ipa) = some r := h
  rw [State.reloadedRcbs, List.find?_map, same, found, Option.map_some, if_pos mine]

/-- The others stay, but for the queue RCBs below it. -/
theorem State.mem_reloadedRcbs {z : Rcb} (hz : z ∈ p.rcbs) (hi : z.ipa ≠ ipa)
    (hb : ¬ (z.bits.toNat % 8 = 3 ∧ rcbParent z.bits.toNat = ipa)) : z ∈ s.reloadedRcbs p ipa := by
  refine List.mem_map.2 ⟨z, hz, if_neg ?_⟩
  simpa [rereadBy, hi, bits_zero] using hb

end reload

end Sys2Proof.Machine

/-! The kill of an RCB's subtree: what is left of its strands and calls, and of its RCBs (R175, R179). -/

namespace Sys2Proof.Machine

theorem fenceAll_run {s : State} (h : s.me.vq = []) : fenceAll.run s = .ok () s.settleAll := by
  simp [fenceAll, waitAccesses, run_waitFor, h]

/-! ### What ends without anything new -/

/-- A state that names no call and no live strand that another did not, and holds each partition's RCBs. -/
structure Pruned (s t : State) : Prop where
  calls : ∀ c ∈ t.calls, c ∈ s.calls
  strands : ∀ x ∈ t.strands, x.live = true → ∃ y ∈ s.strands, y.live = true ∧ y.uid = x.uid ∧ y.owner = x.owner
  rcbs : ∀ n p, s.part? n = some p → ∃ q, t.part? n = some q ∧ q.rcbs = p.rcbs

theorem State.part?_modPart_any (s : State) (n m : Nat) {f : Part → Part} (hf : ∀ p, (f p).pid = p.pid) :
    (s.modPart m f).part? n = (s.part? n).map fun q => if q.pid = m then f q else q := by
  have same : ((fun q : Part => q.pid == n) ∘ fun q => if q.pid = m then f q else q) = fun q => q.pid == n := by
    funext q
    by_cases hq : q.pid = m <;> simp [hq, hf]
  simp only [State.part?, State.modPart, List.find?_map, same]

namespace Pruned

variable {s t u : State}

/-- A change of other fields. -/
theorem of_same (hc : ∀ c ∈ t.calls, c ∈ s.calls) (hs : t.strands = s.strands) (hp : t.parts = s.parts) : Pruned s t :=
  ⟨hc, fun x hx hl => ⟨x, hs ▸ hx, hl, rfl, rfl⟩, fun _ p h => ⟨p, (congrArg (List.find? _) hp).trans h, rfl⟩⟩

theorem refl (s : State) : Pruned s s := of_same (fun _ => id) rfl rfl

theorem trans (h : Pruned s t) (k : Pruned t u) : Pruned s u where
  calls c hc := h.calls c (k.calls c hc)
  strands x hx hl := by
    obtain ⟨y, hy, ly, uy, oy⟩ := k.strands x hx hl
    obtain ⟨z, hz, lz, uz, oz⟩ := h.strands y hy ly
    exact ⟨z, hz, lz, uz.trans uy, oz.trans oy⟩
  rcbs n p hp := by
    obtain ⟨q, hq, eq⟩ := h.rcbs n p hp
    obtain ⟨r, hr, er⟩ := k.rcbs n q hq
    exact ⟨r, hr, er.trans eq⟩

theorem of_memOnly (h : MemOnly s t) : Pruned s t :=
  of_same (fun _ hc => h.calls_eq ▸ hc) (by simp only [State.strands, h.me_eq, h.others_eq]) h.parts_eq

theorem foldl {α : Type} {f : State → α → State} (hf : ∀ s x, Pruned s (f s x)) (l : List α) (s : State) : Pruned s (l.foldl f s) :=
  foldl_keeps (p := Pruned s) (fun t x h => h.trans (hf t x)) (refl s)

theorem modPart (s : State) {m : Nat} {f : Part → Part} (hf : ∀ p, (f p).pid = p.pid) (hr : ∀ p, (f p).rcbs = p.rcbs) :
    Pruned s (s.modPart m f) where
  calls _ hc := hc
  strands x hx hl := ⟨x, hx, hl, rfl, rfl⟩
  rcbs n p hp := by
    refine ⟨if p.pid = m then f p else p, by rw [State.part?_modPart_any s n m hf, hp]; rfl, ?_⟩
    split
    · exact hr p
    · rfl

theorem request (s : State) (pid val : Nat) (ctx : Option Nat) : Pruned s (s.request pid val ctx) := by
  rw [State.request_eq]
  exact modPart s (fun _ => Part.asked_pid ..) (fun _ => Part.asked_rcbs ..)

/-- A change of a strand that keeps its name and owner and does not bring it to life. -/
theorem modStrand (s : State) {n : Nat} {f : Strand → Strand} (hu : ∀ t, (f t).uid = t.uid) (ho : ∀ t, (f t).owner = t.owner)
    (hl : ∀ t, (f t).live = t.live) : Pruned s (s.modStrand n f) := by
  have change : ∀ y ∈ s.strands, (f y).live = true → ∃ z ∈ s.strands, z.live = true ∧ z.uid = (f y).uid ∧ z.owner = (f y).owner :=
    fun y hy ly => ⟨y, hy, (hl y).symm.trans ly, (hu y).symm, (ho y).symm⟩
  unfold State.modStrand
  split
  · refine ⟨fun _ hc => hc, fun x hx lx => ?_, fun n p hp => ⟨p, hp, rfl⟩⟩
    rcases List.mem_cons.1 hx with rfl | hx
    · exact change s.me List.mem_cons_self lx
    · exact ⟨x, List.mem_cons_of_mem _ hx, lx, rfl, rfl⟩
  · refine ⟨fun _ hc => hc, fun x hx lx => ?_, fun n p hp => ⟨p, hp, rfl⟩⟩
    rcases List.mem_cons.1 hx with rfl | hx
    · exact ⟨s.me, List.mem_cons_self, lx, rfl, rfl⟩
    · obtain ⟨y, hy, rfl⟩ := List.mem_map.1 hx
      have hy := List.mem_cons_of_mem s.me hy
      by_cases hn : y.uid = n
      · rw [if_pos hn] at lx ⊢
        exact change y hy lx
      · rw [if_neg hn] at lx ⊢
        exact ⟨y, hy, lx, rfl, rfl⟩

theorem poisonReturns (s : State) (c : Call) : Pruned s (s.poisonReturns c) := by
  have regs : Pruned s _ := foldl (f := fun s r => s.modStrand c.uid fun t => { t with
    vpoison := setBit t.vpoison r true, vpend := setBit t.vpend r false }) (fun s r => modStrand s (fun _ => rfl) (fun _ => rfl) fun _ => rfl)
    c.rets s
  unfold State.poisonReturns
  dsimp only
  split
  · exact regs
  · exact regs.trans (modStrand _ (fun _ => rfl) (fun _ => rfl) fun _ => rfl)

end Pruned

/-! ### The calls that end -/

section calls

variable {s : State} {c : Call}

/-- The state once a call has left its engine (R23, R330). -/
def State.dropCall (s : State) (c : Call) : State :=
  { s with calls := s.calls.filter (·.id != c.id), raced := s.raced.filter (·.cid != c.id) }.freeSplits

/-- A call that is settled has left its engine, whatever becomes of its slot (R23). -/
theorem State.dropCall_pruned (s : State) (c : Call) {f : Strand → Strand} (hu : ∀ t, (f t).uid = t.uid) (ho : ∀ t, (f t).owner = t.owner)
    (hl : ∀ t, (f t).live = t.live) : Pruned s (((s.dropCall c).modStrand c.uid f).resave c.uid) ∧
      ∀ d ∈ (((s.dropCall c).modStrand c.uid f).resave c.uid).calls, d.id ≠ c.id := by
  have gone : Pruned s (s.dropCall c) := Pruned.of_same (fun _ hc => (List.mem_filter.1 hc).1) rfl rfl
  have saved := MemOnly.resave ((s.dropCall c).modStrand c.uid f) c.uid
  refine ⟨(gone.trans (Pruned.modStrand _ hu ho hl)).trans (Pruned.of_memOnly saved), fun d hd => ?_⟩
  rw [saved.calls_eq, State.modStrand_calls] at hd
  simpa using (List.mem_filter.1 hd).2

theorem State.settleCall_pruned (s : State) (c : Call) (st : TStat) (rc : Word) :
    Pruned s (s.settleCall c st rc) ∧ ∀ d ∈ (s.settleCall c st rc).calls, d.id ≠ c.id := by
  refine State.dropCall_pruned s c (fun t => ?_) (fun t => ?_) (fun t => ?_) <;> split <;> rfl

theorem State.callReset_pruned (s : State) (c : Call) : Pruned s (s.callReset c) ∧ ∀ d ∈ (s.callReset c).calls, d.id ≠ c.id := by
  obtain ⟨pruned, gone⟩ := State.settleCall_pruned (s.poisonReturns c) c .reset 0
  exact ⟨(Pruned.poisonReturns s c).trans pruned, gone⟩

theorem Pruned.callFault (s : State) (c : Call) (code va : Nat) : Pruned s (s.callFault c code va) :=
  (Pruned.poisonReturns s c).trans (State.settleCall_pruned ..).1

theorem Pruned.modRbe (s : State) (eng slot : Nat) (f : RbeSlot → RbeSlot) : Pruned s (s.modRbe eng slot f) :=
  of_same (fun _ => id) rfl rfl

theorem Pruned.discardToken (s : State) (c : Call) : Pruned s (s.discardToken c) := by
  unfold State.discardToken
  dsimp only
  split
  · exact Pruned.refl s
  · split
    · refine Pruned.trans ?_ (Pruned.modRbe ..)
      exact foldl_keeps (p := Pruned s) (fun t w h => h.trans (Pruned.callFault ..)) (Pruned.refl s)
    · exact Pruned.refl s

theorem MemOnly.spoilSort (s : State) (c : Call) : MemOnly s (s.spoilSort c) := by
  unfold State.spoilSort
  split
  · exact MemOnly.refl s
  · split
    · exact MemOnly.refl s
    · refine MemOnly.foldl (fun s x => loop_keeps (p := MemOnly s) (fun i t h => ?_) (MemOnly.refl s)) _ s
      split
      · exact h.trans (MemOnly.putDev ..)
      · exact h

/-- What each step of a fold brings about, and every step keeps, holds after it of all that the fold has met. -/
theorem foldl_all {α σ : Type} {f : σ → α → σ} {P : α → σ → Prop} (step : ∀ s x, P x (f s x))
    (keep : ∀ s x y, P x s → P x (f s y)) (l : List α) : ∀ s, ∀ x ∈ l, P x (l.foldl f s) := by
  induction l with
  | nil => exact fun _ _ => nofun
  | cons y l ih =>
    intro s x hx
    rcases List.mem_cons.1 hx with rfl | hx
    · exact foldl_keeps (f := f) (p := P x) (fun t z h => keep t x z h) (l := l) (step s x)
    · exact ih (f s y) x hx

/-- The calls that a reset names are gone. -/
theorem State.resetCalls_pruned (s : State) (p : Call → Bool) :
    Pruned s (s.resetCalls p) ∧ ∀ c ∈ (s.resetCalls p).calls, p c = false := by
  have sorts := Pruned.of_memOnly (MemOnly.foldl MemOnly.spoilSort (s.calls.filter p) s)
  have resets := fun t => Pruned.foldl (fun s c => (State.callReset_pruned s c).1) (s.calls.filter p) t
  have tokens := fun t => Pruned.foldl Pruned.discardToken (s.calls.filter p) t
  have gone := fun t => foldl_all (f := State.callReset) (P := fun (c : Call) (t : State) => ∀ d ∈ t.calls, d.id ≠ c.id)
    (fun s c => (State.callReset_pruned s c).2) (fun s c d h e he => h e ((State.callReset_pruned s d).1.calls e he)) (s.calls.filter p) t
  unfold State.resetCalls
  dsimp only
  have pruned := (sorts.trans (resets _)).trans (tokens _)
  refine ⟨pruned.trans (Pruned.of_same (fun _ => id) rfl rfl), fun c hc => Bool.eq_false_iff.2 fun pc => ?_⟩
  exact gone _ c (List.mem_filter.2 ⟨pruned.calls c hc, pc⟩) c ((tokens _).calls c hc) rfl

end calls

/-! ### The strands that end -/

section strands

variable {s : State} {n : Nat}

/-- Lists that only lose what is live. -/
theorem Pruned.of_fewer {t : State} (hc : t.calls = s.calls) (hs : ∀ x ∈ t.strands, x.live = true → x ∈ s.strands)
    (hp : t.parts = s.parts) : Pruned s t :=
  ⟨fun _ h => hc ▸ h, fun x hx hl => ⟨x, hs x hx hl, hl, rfl, rfl⟩, fun _ p h => ⟨p, (congrArg (List.find? _) hp).trans h, rfl⟩⟩

theorem Pruned.dropBound (s : State) (n : Nat) : Pruned s (s.dropBound n) :=
  (State.resetCalls_pruned s _).1.trans (Pruned.of_same (fun _ => id) rfl rfl)

/-- No live strand has a name. -/
def State.lacks (s : State) (n : Nat) : Prop := ∀ x ∈ s.strands, x.live = true → x.uid ≠ n

theorem State.lacks.pruned {t : State} (h : s.lacks n) (k : Pruned s t) : t.lacks n := fun x hx hl => by
  obtain ⟨y, hy, ly, uy, -⟩ := k.strands x hx hl
  exact uy ▸ h y hy ly

/-- A state without the strands of a name, the one that has ended apart. -/
def State.without (s : State) (n : Nat) (e : Strand) : State := { s with
  slots := s.slots.filter (·.uid != n)
  others := s.others.filter (·.uid != n)
  me := if s.me.uid = n then e else s.me }

theorem State.without_pruned {e : Strand} (he : e.live = false) : Pruned s (s.without n e) ∧ (s.without n e).lacks n := by
  have mine : ∀ x, x = (s.without n e).me → x.live = true → x = s.me ∧ x.uid ≠ n := fun x hx hl => by
    by_cases hn : s.me.uid = n
    · exact absurd (hx.trans (if_pos hn) ▸ hl) (Bool.eq_false_iff.1 he)
    · have hx : x = s.me := hx.trans (if_neg hn)
      exact ⟨hx, hx ▸ hn⟩
  constructor
  · refine Pruned.of_fewer rfl (fun x hx hl => ?_) rfl
    rcases List.mem_cons.1 hx with hx | hx
    · exact (mine x hx hl).1 ▸ List.mem_cons_self
    · exact List.mem_cons_of_mem _ (List.mem_filter.1 hx).1
  · intro x hx hl
    rcases List.mem_cons.1 hx with hx | hx
    · exact (mine x hx hl).2
    · simpa using (List.mem_filter.1 hx).2

/-- A strand that is removed is live no longer (R179, R222). -/
theorem State.removeStrand_pruned (s : State) (n : Nat) : Pruned s (s.removeStrand n) ∧ (s.removeStrand n).lacks n := by
  unfold State.removeStrand
  cases h : s.strand? n with
  | none => exact ⟨Pruned.refl s, fun x hx _ => by simpa using List.find?_eq_none.1 h x hx⟩
  | some t =>
    have bound : Pruned s ((s.dropBound n).forgetStores n) := (Pruned.dropBound s n).trans (Pruned.of_same (fun _ => id) rfl rfl)
    obtain ⟨pruned, lacks⟩ := State.without_pruned (s := (s.dropBound n).forgetStores n) (n := n) (e := t.ended) rfl
    have gone := bound.trans pruned
    have freed : ∀ u : State, Pruned u u.freeSplits := fun u => Pruned.of_same (fun _ => id) rfl rfl
    dsimp only
    cases t.owner.pid? with
    | none => exact ⟨gone.trans (freed _), lacks.pruned (freed _)⟩
    | some m =>
      have parked := fun u : State => (Pruned.modPart u (m := m) (f := fun p => p.forget t) (fun _ => rfl) fun _ => rfl).trans (freed _)
      have named : t.uid = n := by simpa using List.find?_some h
      subst named
      exact ⟨gone.trans (parked _), lacks.pruned (parked _)⟩

/-- Every strand of a list of names is gone once the list has been removed. -/
theorem State.removeStrands_pruned (l : List Nat) (s : State) :
    Pruned s (l.foldl State.removeStrand s) ∧ ∀ n ∈ l, (l.foldl State.removeStrand s).lacks n :=
  ⟨Pruned.foldl (fun s n => (State.removeStrand_pruned s n).1) l s,
    foldl_all (P := fun n t => t.lacks n) (fun s n => (State.removeStrand_pruned s n).2)
      (fun s _ m h => h.pruned (State.removeStrand_pruned s m).1) l s⟩

end strands

end Sys2Proof.Machine

/-! `RCBCTL` (R175, R179): the reload and the kill of an RCB as register writes. -/

namespace Sys2Proof.Machine

/-! ### The kill of a subtree -/

/-- What becomes of a partition's launches under a root: those that are started or taken end KILLED (R179). -/
def State.killLaunches (s : State) (pid root reason : Nat) : State :=
  let why := fun (l : Launch) => if l.stat = .started then reason else 0
  (s.launches.filter fun l => l.pid = pid && under root l.ctx l.rcb &&
    (l.stat = .started || (l.stat = .waiting && l.queue.isSome))).foldl (fun s l =>
      (s.cwOrRequest l fun w => cwWord 4 (bits w 8 5) (why l) l.left).modLaunch l.id fun l => { l with stat := .final }) s

/-- The strands of a partition under a root are removed (R179). -/
def State.removeUnder (s : State) (pid root : Nat) : State :=
  ((s.strands.filter fun t => t.live && t.under pid root).map (·.uid)).foldl State.removeStrand s

/-- A partition with the root of a subtree marked killed (R179). -/
def Part.mark (p : Part) (root : Nat) : Part :=
  if root = 0 then { p with killed := true }
  else { p with rcbs := p.rcbs.map fun r => if r.ipa = root then { r with killed := true } else r }

theorem State.kill_eq (s : State) (pid root reason : Nat) : s.kill pid root reason =
    (((((s.resetCalls fun c => c.pid = pid && under root c.ctx c.rcb).dropContext pid root).killLaunches pid root reason).removeUnder pid
      root).modPart pid (·.mark root)).request pid (3 + (root / 128) <<< 16) := rfl

/-- A subtree that is dead: no strand, no call, its RCB marked, and a request that says so (R179). -/
structure Dead (t : State) (pid root : Nat) (p : Part) : Prop where
  part : t.part? pid = some p
  strands : ∀ u ∈ t.strands, u.live = true → u.under pid root = false
  calls : ∀ c ∈ t.calls, c.pid = pid → under root c.ctx c.rcb = false
  marked : ∀ r ∈ p.rcbs, r.ipa = root → r.killed = true
  found : ∃ r ∈ p.rcbs, r.ipa = root
  asked : p.reqLost = true ∨ ∃ r ∈ p.reqs, r.val = wd (3 + root / 128 * 2 ^ 16)

section kill

variable {s : State} {p : Part} {pid root : Nat}

theorem Pruned.cwOrRequest (s : State) (l : Launch) (f : Nat → Nat) : Pruned s (s.cwOrRequest l f) := by
  have written := Pruned.of_memOnly (MemOnly.writeCw s l f)
  unfold State.cwOrRequest
  split
  next h => rwa [h] at written
  next h =>
    rw [h] at written
    exact written.trans (Pruned.request ..)

theorem Pruned.modLaunch (s : State) (n : Nat) (f : Launch → Launch) : Pruned s (s.modLaunch n f) := of_same (fun _ => id) rfl rfl

theorem Pruned.dropContext (s : State) (pid root : Nat) : Pruned s (s.dropContext pid root) := of_same (fun _ => id) rfl rfl

theorem Pruned.killLaunches (s : State) (pid root reason : Nat) : Pruned s (s.killLaunches pid root reason) := by
  unfold State.killLaunches
  exact foldl_keeps (p := Pruned s) (fun t l h => h.trans ((Pruned.cwOrRequest ..).trans (Pruned.modLaunch ..))) (Pruned.refl s)

theorem State.removeUnder_pruned (s : State) (pid root : Nat) : Pruned s (s.removeUnder pid root) ∧
    ∀ u ∈ (s.removeUnder pid root).strands, u.live = true → u.under pid root = false := by
  obtain ⟨pruned, gone⟩ := State.removeStrands_pruned ((s.strands.filter fun t => t.live && t.under pid root).map (·.uid)) s
  refine ⟨pruned, fun u hu live => Bool.eq_false_iff.2 fun below => ?_⟩
  obtain ⟨y, hy, ly, uy, oy⟩ := pruned.strands u hu live
  have below : y.under pid root = true := by rwa [Strand.under, oy]
  refine gone y.uid (List.mem_map_of_mem (List.mem_filter.2 ⟨hy, ?_⟩)) u hu live uy.symm
  rw [ly, below, Bool.and_true]

theorem Part.mark_pid (p : Part) (root : Nat) : (p.mark root).pid = p.pid := by
  unfold Part.mark
  split <;> rfl

theorem Part.mark_killed (h : root ≠ 0) : (∀ r ∈ (p.mark root).rcbs, r.ipa = root → r.killed = true) ∧
    ((∃ r ∈ p.rcbs, r.ipa = root) → ∃ r ∈ (p.mark root).rcbs, r.ipa = root) := by
  rw [Part.mark, if_neg h]
  constructor
  · intro r hr named
    obtain ⟨x, -, rfl⟩ := List.mem_map.1 hr
    by_cases hx : x.ipa = root
    · rw [if_pos hx]
    · rw [if_neg hx] at named
      exact absurd named hx
  · rintro ⟨r, hr, named⟩
    exact ⟨_, List.mem_map_of_mem hr, by rw [if_pos named]; exact named⟩

theorem State.kill_dead (hp : s.part? pid = some p) (h : root ≠ 0) (hr : ∃ r ∈ p.rcbs, r.ipa = root) (reason : Nat) :
    ∃ q, Dead (s.kill pid root reason) pid root q := by
  obtain ⟨reset, gone⟩ := State.resetCalls_pruned s fun c => c.pid = pid && under root c.ctx c.rcb
  rw [State.kill_eq]
  generalize (s.resetCalls fun c => c.pid = pid && under root c.ctx c.rcb) = a at reset gone
  have ended := (Pruned.dropContext a pid root).trans (Pruned.killLaunches (a.dropContext pid root) pid root reason)
  generalize (a.dropContext pid root).killLaunches pid root reason = b at ended
  obtain ⟨removed, none⟩ := State.removeUnder_pruned b pid root
  generalize b.removeUnder pid root = c at removed none
  have pruned := ended.trans removed
  obtain ⟨q, hq, rcbs⟩ := (reset.trans pruned).rcbs pid p hp
  have marked := State.part?_modPart (f := (·.mark root)) hq fun q => Part.mark_pid q root
  have asked := State.part?_modPart (f := (·.asked (3 + (root / 128) <<< 16) .none)) marked fun q => Part.asked_pid ..
  obtain ⟨killed, found⟩ := Part.mark_killed (p := q) h
  refine ⟨_, asked, none, fun d hd mine => ?_, ?_, ?_, ?_⟩
  · simpa [mine] using gone d (pruned.calls d hd)
  · rwa [Part.asked_rcbs]
  · rw [Part.asked_rcbs]
    exact found (rcbs ▸ hr)
  · rw [← Nat.shiftLeft_eq]
    exact Part.asked_held ..

theorem Dead.skip (h : Dead s pid root p) (n : Nat) : Dead (s.skip n) pid root p where
  part := h.part
  strands u hu live := by
    rcases List.mem_cons.1 hu with rfl | hu
    · exact h.strands s.me List.mem_cons_self live
    · exact h.strands u (List.mem_cons_of_mem _ hu) live
  calls := h.calls
  marked := h.marked
  found := h.found
  asked := h.asked

end kill

/-! ### The RCB is cached -/

section cached

variable {s : State} {p : Part} {ipa : Nat}

/-- The bytes of an RCB that can be read are one. -/
theorem State.rawRcb_read {n : Nat} (h : s.ipaNat p ipa 128 = some n) : ∃ r, s.rawRcb p ipa = some r := by
  simp only [State.rawRcb, State.rawQueueRcb, State.rawContext, h, Option.map_some]
  split <;> exact ⟨_, rfl⟩

theorem State.rawContext_read {r : Rcb} (h : s.rawContext p ipa = some r) : r.ipa = ipa ∧ ∃ n, s.ipaNat p ipa 128 = some n := by
  unfold State.rawContext at h
  split at h
  · cases h
  next n read => exact ⟨Option.some.inj h ▸ rfl, n, read⟩

theorem State.loadContext_read {r : Rcb} (h : s.loadContext p ipa = some r) : ipa ≠ 0 ∧ ∃ n, s.ipaNat p ipa 128 = some n := by
  unfold State.loadContext at h
  split at h
  next x raw =>
    obtain ⟨named, read⟩ := State.rawContext_read raw
    refine ⟨fun zero => ?_, read⟩
    simp [Part.contextOk, named, zero] at h
  · cases h

theorem State.rawQueueRcb_read {r : Rcb} (h : s.rawQueueRcb p ipa = some r) : r.ipa = ipa ∧ ∃ n, s.ipaNat p ipa 128 = some n := by
  obtain ⟨n, read, rfl⟩ := Option.map_eq_some_iff.1 h
  exact ⟨rfl, n, read⟩

theorem State.queueOf_read {r : Rcb × Rcb} (h : (s.rawQueueRcb p ipa).bind (s.queueOf p) = some r) :
    ipa ≠ 0 ∧ ∃ n, s.ipaNat p ipa 128 = some n := by
  obtain ⟨x, raw, h⟩ := Option.bind_eq_some_iff.1 h
  obtain ⟨named, read⟩ := State.rawQueueRcb_read raw
  refine ⟨fun zero => ?_, read⟩
  simp [State.queueOf, named, zero] at h

/-- A valid RCB is one that memory holds, at an address other than 0. -/
theorem State.rcbValid_read (h : s.rcbValid p ipa = true) : ipa ≠ 0 ∧ ∃ n, s.ipaNat p ipa 128 = some n := by
  unfold State.rcbValid at h
  split at h
  next c hc => exact State.loadContext_read hc
  next =>
    split at h
    next hq => exact State.queueOf_read hq
    · cases h

theorem Part.cache_holds (p : Part) (r : Rcb) : ∃ x ∈ (p.cache r).rcbs, x.ipa = r.ipa := by
  unfold Part.cache
  split
  next h =>
    obtain ⟨x, hx⟩ := Option.isSome_iff_exists.1 h
    exact ⟨x, List.mem_of_find?_eq_some hx, by simpa using List.find?_some hx⟩
  next => exact ⟨r, List.mem_append_right _ (List.mem_singleton_self r), rfl⟩

theorem State.cacheRcb_holds (hp : s.part? p.pid = some p) (h : s.rcbValid p ipa = true) :
    ∃ q, (s.cacheRcb p ipa).part? p.pid = some q ∧ ∃ r ∈ q.rcbs, r.ipa = ipa := by
  obtain ⟨-, n, read⟩ := State.rcbValid_read h
  obtain ⟨r, raw⟩ := State.rawRcb_read read
  have pid : ∀ q : Part, (q.cache r).pid = q.pid := fun q => by unfold Part.cache; split <;> rfl
  unfold State.cacheRcb
  simp only [raw]
  obtain ⟨x, hx, named⟩ := Part.cache_holds p r
  exact ⟨_, State.part?_modPart hp pid, x, hx, named.trans (State.rawRcb_ipa raw)⟩

end cached

end Sys2Proof.Machine

/-! `RCBCTL` as a register write (R175, R179): its reload and its kill. -/

namespace Sys2Proof.Machine

/-! ### A fence changes nothing of what is read at an IPA -/

section settled

variable {s t : State} {p : Part}

/-- Two states that agree in what is read at IPAs of a partition, and in its core maps. -/
structure SameRcbs (s t : State) (p : Part) : Prop where
  read : ∀ ipa n, t.ipaBytes p ipa n = s.ipaBytes p ipa n
  maps : ∀ m, t.mapOk p m = s.mapOk p m
  live : ∀ m, t.liveMap p m = s.liveMap p m

namespace SameRcbs

variable (h : SameRcbs s t p) (ipa : Nat)
include h

theorem ipaNat (n : Nat) : t.ipaNat p ipa n = s.ipaNat p ipa n := congrArg (Option.map leNat) (h.read ipa n)

theorem rawMap (m : BitVec 1024) : t.rawMap p m = s.rawMap p m := by
  simp only [State.rawMap, h.read]

theorem rawContext : t.rawContext p ipa = s.rawContext p ipa := by
  unfold State.rawContext
  rw [h.ipaNat]
  cases s.ipaNat p ipa 128 with
  | none => rfl
  | some n =>
    dsimp only
    rw [h.rawMap, h.maps, h.live]

theorem rawQueueRcb : t.rawQueueRcb p ipa = s.rawQueueRcb p ipa := by
  simp only [State.rawQueueRcb, h.ipaNat]

theorem rawRcb : t.rawRcb p ipa = s.rawRcb p ipa := by
  simp only [State.rawRcb, h.rawQueueRcb, h.rawContext]

theorem loadContext : t.loadContext p ipa = s.loadContext p ipa := by
  simp only [State.loadContext, h.rawContext]

theorem queueOf : t.queueOf p = s.queueOf p := by
  funext q
  simp only [State.queueOf, State.findContext, h.loadContext]

theorem rcbValid : t.rcbValid p ipa = s.rcbValid p ipa := by
  simp only [State.rcbValid, h.loadContext, h.rawQueueRcb, h.queueOf]

end SameRcbs

/-- What is read at an IPA depends on the place that it has and on the bytes there. -/
theorem State.getIpa_congr {svc : Bool} (place : ∀ a, t.ipaPlace p a .r svc = s.ipaPlace p a .r svc)
    (bytes : ∀ a n, t.bytesAt a n = s.bytesAt a n) (fuel ipa n : Nat) : t.getIpa p svc fuel ipa n = s.getIpa p svc fuel ipa n := by
  induction fuel generalizing ipa n with
  | zero => rfl
  | succ fuel ih => simp only [State.getIpa, place, bytes, ih]

theorem State.settleAll_place (s : State) (p : Part) (a : Nat) (svc : Bool) : s.settleAll.ipaPlace p a .r svc = s.ipaPlace p a .r svc := rfl

theorem State.settleAll_bytes (s : State) (a n : Nat) : s.settleAll.bytesAt a n = s.bytesAt a n := rfl

theorem State.settleAll_sameRcbs (s : State) (p : Part) : SameRcbs s s.settleAll p where
  read ipa n := State.getIpa_congr (fun a => State.settleAll_place s p a true) (State.settleAll_bytes s) (n / 4096 + 2) ipa n
  maps _ := rfl
  live _ := rfl

end settled
/-! ### The writes -/

section rcbctl

variable {s : State} {p : Part} {v : Word}

/-- The IPA that a write of RCBCTL names. -/
theorem bits_shifted (n lo len : Nat) : bits n lo len <<< lo = n / 2 ^ lo % 2 ^ len * 2 ^ lo := by
  rw [bits_eq, Nat.shiftLeft_eq]

theorem putRcbctl_reload (hq : s.me.vq = []) (hv : s.rcbValid p (bits v.toNat 7 41 <<< 7) = true) (hop : bits v.toNat 0 2 = 0) :
    (putRcbctl p (some 0) v).run s = .ok () (s.settleAll.reload p.pid (bits v.toNat 7 41 <<< 7)) := by
  have valid : s.settleAll.rcbValid p (bits v.toNat 7 41 <<< 7) = true :=
    ((State.settleAll_sameRcbs s p).rcbValid _).trans hv
  simp only [putRcbctl, hop, run_bind, run_waitFor, Option.isNone_some, decide_true, Bool.or_true, if_true, fenceAll_run hq, run_get, valid,
    run_set]

theorem putRcbctl_kill (hq : s.me.vq = []) (hv : s.rcbValid p (bits v.toNat 7 41 <<< 7) = true) (hop : bits v.toNat 0 2 = 1) :
    (putRcbctl p (some 1) v).run s =
      .ok () ((s.settleAll.cacheRcb p (bits v.toNat 7 41 <<< 7)).kill p.pid (bits v.toNat 7 41 <<< 7) 0) := by
  have valid : s.settleAll.rcbValid p (bits v.toNat 7 41 <<< 7) = true :=
    ((State.settleAll_sameRcbs s p).rcbValid _).trans hv
  simp only [putRcbctl, hop, run_bind, run_waitFor, Option.isNone_some, decide_true, Bool.or_true, if_true, fenceAll_run hq, run_get, valid,
    run_set, Nat.one_ne_zero, if_false]

variable (hl : 1 ≤ s.me.pl.num) (hp : s.myPart? = some p) (hq : s.me.vq = [])
include hl hp hq

/-- A reload reads its RCB anew, and leaves those that are not below it (R175). -/
theorem exec_reloadRcb {ipa : Nat} {r : Rcb} (hi : bits s.ev.v.toNat 7 41 <<< 7 = ipa) (hv : s.rcbValid p ipa = true)
    (hop : bits s.ev.v.toNat 0 2 = 0) (hr : p.rcb? ipa = some r) : ∃ t p', exec .reloadRcb s = .next t ∧ t.part? p.pid = some p' ∧
      t.mem = s.mem ∧ t.me = { s.me with pc := s.me.pc + 4 } ∧ p'.rcb? ipa = some ((s.rawRcb p ipa).getD { r with killed := false }) ∧
      ∀ z ∈ p.rcbs, z.ipa ≠ ipa → ¬ (z.bits.toNat % 8 = 3 ∧ rcbParent z.bits.toNat = ipa) → z ∈ p'.rcbs := by
  subst hi
  have here : s.settleAll.part? p.pid = some p := (State.myPart?_some hp).2
  obtain ⟨p', there, rcbs⟩ := State.reload_part (ipa := bits s.ev.v.toNat 7 41 <<< 7) here
  obtain ⟨me, mem⟩ := State.reload_same s.settleAll p.pid (bits s.ev.v.toNat 7 41 <<< 7)
  have named : r.ipa = bits s.ev.v.toNat 7 41 <<< 7 := by simpa using List.find?_some hr
  have reloaded := putRcbctl_reload (v := s.ev.v) hq hv hop
  have run := (run_onPart (g := fun p => putRcbctl p (some 0) s.ev.v) hp).trans reloaded
  refine ⟨_, p', ctlWrite_ok (f := fun v => onPart fun p => putRcbctl p (some 0) v) hl hp rfl rfl run, there, mem, ?_, ?_,
    fun z hz hn hb => ?_⟩
  · rw [State.skip, me]
    rfl
  · rw [Part.rcb?, rcbs, State.reloadedRcbs_find hr, State.freshRcb, named, (State.settleAll_sameRcbs s p).rawRcb]
  · exact rcbs ▸ State.mem_reloadedRcbs hz hn hb

/-- A kill leaves nothing alive under its RCB, which is marked, and asks the scheduler (R175, R179). -/
theorem exec_killRcb {ipa : Nat} (hi : bits s.ev.v.toNat 7 41 <<< 7 = ipa) (hv : s.rcbValid p ipa = true)
    (hop : bits s.ev.v.toNat 0 2 = 1) : ∃ t q, exec .killRcb s = .next t ∧ Dead t p.pid ipa q := by
  subst hi
  have here : s.settleAll.part? p.pid = some p := (State.myPart?_some hp).2
  have valid : s.settleAll.rcbValid p (bits s.ev.v.toNat 7 41 <<< 7) = true := ((State.settleAll_sameRcbs s p).rcbValid _).trans hv
  obtain ⟨q, cached, held⟩ := State.cacheRcb_holds here valid
  obtain ⟨q', dead⟩ := State.kill_dead cached (State.rcbValid_read hv).1 held 0
  have killed := putRcbctl_kill (v := s.ev.v) hq hv hop
  have run := (run_onPart (g := fun p => putRcbctl p (some 1) s.ev.v) hp).trans killed
  exact ⟨_, q', ctlWrite_ok (f := fun v => onPart fun p => putRcbctl p (some 1) v) hl hp rfl rfl run, dead.skip 4⟩

end rcbctl

end Sys2Proof.Machine

/-! The report of `ATTEST` (R440): a write through stage 2 does not depend on how many free values have been drawn. -/

namespace Sys2Proof.Machine

/-- A state in which `d` free values of the step have been drawn. -/
def State.atDraw (s : State) (d : Nat) : State := { s with draw := d }

section draws

variable {s : State} {d : Nat}

theorem loop_atDraw {f g : Nat → State → State} (h : ∀ i t, f i (t.atDraw d) = (g i t).atDraw d) (n : Nat) (s : State) :
    loop n f (s.atDraw d) = (loop n g s).atDraw d :=
  List.foldl_hom (fun t => State.atDraw t d) fun t i => h i t

theorem foldl_atDraw {α : Type} {f : State → α → State} (h : ∀ t x, f (t.atDraw d) x = (f t x).atDraw d) (l : List α) (s : State) :
    l.foldl f (s.atDraw d) = (l.foldl f s).atDraw d :=
  List.foldl_hom (fun t => State.atDraw t d) h

theorem State.putBacking_atDraw (p : Part) (i j : Nat) (l : List Byte) :
    (s.atDraw d).putBacking p i j l = (s.putBacking p i j l).atDraw d :=
  loop_atDraw (fun k t => by
    have same : (s.atDraw d).backingAt p i (j + k) = s.backingAt p i (j + k) := rfl
    rw [same]
    split <;> rfl) ..

theorem State.freeEntry_atDraw (c : Accum) : (s.atDraw d).freeEntry c = (s.freeEntry c).atDraw d := by
  have home : (s.atDraw d).homePart c.addr = s.homePart c.addr := rfl
  have entry : ∀ p i, (s.atDraw d).backingAt p i 40 = s.backingAt p i 40 := fun _ _ => rfl
  unfold State.freeEntry
  rw [home]
  split
  · rw [entry]
    split
    · exact State.putBacking_atDraw ..
    · rfl
  · rfl

theorem State.collapse_atDraw (s : State) (c : Accum) : (s.atDraw d).collapse c = (s.collapse c).atDraw d := by
  unfold State.collapse
  rw [State.freeEntry_atDraw]
  rfl

theorem State.unspill_atDraw (s : State) (c : Accum) : (s.atDraw d).unspill c = (s.unspill c).atDraw d := by
  unfold State.unspill
  rw [State.freeEntry_atDraw]
  rfl

/-- A spill at a choice that is given. -/
theorem State.spill_atDraw (home keep f g : Nat) :
    (s.atDraw d).spill home keep f g = (s.spill home keep f g).map (State.atDraw · d) := by
  have part : ((s.atDraw d).bh home).owner.bind (s.atDraw d).part? = (s.bh home).owner.bind s.part? := rfl
  have accums : (s.atDraw d).accums = s.accums := rfl
  have free : ∀ p, (s.atDraw d).freeEntries p = s.freeEntries p := fun _ => rfl
  unfold State.spill
  simp only [part, accums, free, State.putBacking_atDraw, Option.bind_eq_bind, Option.map_bind, Function.comp_def]
  rfl

theorem State.respill_atDraw (s : State) (c : Accum) : (s.atDraw d).respill c = (s.respill c).atDraw d := by
  have held : (s.atDraw d).held (c.addr / 2 ^ 34) = s.held (c.addr / 2 ^ 34) := rfl
  have tick : (s.atDraw d).tick = s.tick := rfl
  unfold State.respill
  dsimp only
  rw [held, tick, State.spill_atDraw]
  split
  · rfl
  · cases s.spill .. <;> rfl

theorem State.putByte_atDraw (a : Nat) (l : List Byte) (i : Nat) (t : State) :
    State.putByte a l i (t.atDraw d) = (State.putByte a l i t).atDraw d := by
  have accums : (t.atDraw d).accums = t.accums := rfl
  unfold State.putByte
  rw [accums]
  split <;> rfl

theorem State.put_atDraw (s : State) (a : Nat) (l : List Byte) : (s.atDraw d).put a l = (s.put a l).atDraw d := by
  have accums : ∀ t : State, (t.atDraw d).accums = t.accums := fun _ => rfl
  unfold State.put
  dsimp only
  rw [accums, foldl_atDraw State.collapse_atDraw, foldl_atDraw State.unspill_atDraw, accums]
  generalize List.foldl State.unspill _ _ = t
  generalize t.accums.map _ = m
  have spilled := foldl_atDraw (d := d) State.respill_atDraw
    ((s.accums.filter (·.meets a l.length)).filter fun c => decide (a ≤ c.addr ∧ c.addr + c.size ≤ a + l.length) && c.spill.isSome)
    { t with accums := m }
  have written := loop_atDraw (d := d) (State.putByte_atDraw a l) l.length
  exact congrArg (State.cleanBad · a l.length) ((congrArg (loop l.length (State.putByte a l)) spilled).trans (written _))

theorem State.putDev_atDraw (s : State) (a : Nat) (l : List Byte) : (s.atDraw d).putDev a l = (s.putDev a l).atDraw d := by
  rw [State.putDev_eq, State.putDev_eq, State.put_atDraw]
  rfl

theorem State.putIpaF_atDraw {p : Part} {svc : Bool} : ∀ (fuel ipa : Nat) (l : List Byte) (s : State),
    (State.putIpaF p svc fuel ipa l (s.atDraw d)).1 = (State.putIpaF p svc fuel ipa l s).1.atDraw d
  | 0, _, _, _ => rfl
  | fuel + 1, ipa, l, s => by
    have place : (s.atDraw d).ipaPlace p ipa .w svc = s.ipaPlace p ipa .w svc := rfl
    unfold State.putIpaF
    rw [place]
    split
    · rfl
    · cases s.ipaPlace p ipa .w svc with
      | error e => rfl
      | ok pl =>
        dsimp only
        rw [State.putDev_atDraw]
        exact State.putIpaF_atDraw ..

theorem State.putIpa_atDraw (s : State) (p : Part) (ipa : Nat) (l : List Byte) :
    ((s.atDraw d).putIpa p ipa l).1 = (s.putIpa p ipa l).1.atDraw d := State.putIpaF_atDraw ..

end draws

end Sys2Proof.Machine

/-! The doorbell, the report, grants and the host's interrupt as register writes; the register writes together (R175, R180, R432,
R440, R460). -/

namespace Sys2Proof.Machine

section writes

variable {s : State} {p : Part} {v : Word}

/-! ### LQDOOR -/

theorem putLqdoor_run : (putLqdoor p v).run s = .ok () (s.doorbell p.pid (v.toNat % 64)) := by
  have queue : bits v.toNat 0 6 = v.toNat % 64 := bits_zero ..
  simp only [putLqdoor, run_modify, queue]

theorem State.doorbell_off (h : s.part? p.pid = some p) (off : p.lqbase.getLsbD 0 = false) (q : Nat) : s.doorbell p.pid q = s := by
  have off : bit p.lqbase.toNat 0 = false := off
  simp only [State.doorbell, h, off, Bool.false_and, Bool.false_eq_true, if_false]

theorem State.doorbell_on (h : s.part? p.pid = some p) (on : p.lqbase.getLsbD 0 = true) {q : Nat} (hq : q < 64) :
    s.doorbell p.pid q = (s.refresh p.pid q true).1 := by
  have on : bit p.lqbase.toNat 0 = true := on
  simp only [State.doorbell, h, on, hq, decide_true, Bool.and_self, if_true]

/-! ### VFIRQ -/

theorem putVfirq_run (hq : s.me.vq = []) : (putVfirq p v).run s = .ok () { s.settleAll with outs := s.outs ++
    (if Config.irqEnabled p.pid (v.toNat % 32) then [Out.irq p.pid (v.toNat % 32)] else []) } := by
  have vec : bits v.toNat 0 5 = v.toNat % 32 := bits_zero ..
  simp only [putVfirq, run_bind, fenceAll_run hq, vec]
  split
  · rfl
  · rw [List.append_nil]
    rfl

/-! ### ATTEST -/

/-- The signed report, by the number of the buffer's bytes (R440). -/
def signReport (p : Part) (buf size : Nat) : M Unit := do
  let s ← get
  match s.unmapped p buf size with
  | some a => trapAt 7 (wd a)
  | none =>
    match s.ipaBytes p (buf + 24) 64 with
    | none => trapAt 7 (wd (buf + 24))
    | some nonce =>
      let body := s.report p nonce
      let sig := idSign (sha512 body) (← free)
      modify fun s => (s.putIpa p buf (body ++ sig ++ List.replicate 228 0)).1

theorem putAttest_eq (p : Part) (v : Word) : putAttest p v = (do
    fenceAll
    signReport p (bits v.toNat 6 42 <<< 6) 1024) := rfl

variable {buf size : Nat}

theorem signReport_unmapped {a : Nat} (h : s.unmapped p buf size = some a) :
    (signReport p buf size).run s = .error (.trap ⟨7, wd a, .sup⟩ false) s := by
  simp only [signReport, run_bind, run_get, h, run_trapAt]

theorem signReport_written {nonce : List Byte} (h : s.unmapped p buf size = none) (hn : s.ipaBytes p (buf + 24) 64 = some nonce) :
    (signReport p buf size).run s = .ok () ((s.putIpa p buf (s.report p nonce ++
      idSign (sha512 (s.report p nonce)) (Config.free s.tick s.draw) ++ List.replicate 228 0)).1.atDraw (s.draw + 1)) := by
  simp only [signReport, run_bind, run_get, h, hn, run_free, run_modify]
  exact congrArg _ (State.putIpa_atDraw ..)

theorem State.settleAll_unmapped (s : State) (p : Part) (a n : Nat) : s.settleAll.unmapped p a n = s.unmapped p a n := rfl

theorem State.settleAll_report (s : State) (p : Part) (nonce : List Byte) : s.settleAll.report p nonce = s.report p nonce := rfl

/-! ### XGRANT -/

/-- A partition without the windows onto grants of another that are not as they were opened (R432). -/
def State.closeStale (s : State) (p q : Part) : Part :=
  { q with windows := q.windows.filter fun w => w.exp != p.pid || s.grant p w.grant = some (some w.grantData) }

/-- What a write of XGRANT makes of the state once the fence has passed (R432). -/
def State.regrant (s : State) (p : Part) (w : Word) : State :=
  let s := s.landAll.modPart p.pid fun p => { p with xgrant := w }
  match s.part? p.pid with
  | none => s
  | some p => s.mapParts (s.closeStale p)

theorem putXgrant_run (hq : s.me.vq = []) : (putXgrant p v).run s =
    .ok () (s.settleAll.regrant p (wd (bits v.toNat 0 1 + bits v.toNat 6 42 <<< 6))) := by
  simp only [putXgrant, run_bind, fenceAll_run hq]
  rfl

theorem State.modPart_only {f : Part → Part} (only : ∀ q ∈ s.parts, q.pid = p.pid → q = p) :
    s.modPart p.pid f = s.modPart p.pid fun _ => f p := by
  have same : s.parts.map (fun q => if q.pid = p.pid then f q else q) = s.parts.map fun q => if q.pid = p.pid then f p else q :=
    List.map_congr_left fun q hq => by
      split
      next h => rw [only q hq h]
      · rfl
  unfold State.modPart
  rw [same]

/-- A partition with a table of grants. -/
def Part.grants (p : Part) (w : Word) : Part := { p with xgrant := w }

theorem State.mem_closeStale {q : Part} {x : Window} (h : x ∈ (s.closeStale p q).windows) :
    x.exp = p.pid → s.grant p x.grant = some (some x.grantData) := fun mine => by
  obtain ⟨-, kept⟩ := List.mem_filter.1 h
  rw [mine, bne_self_eq_false, Bool.false_or] at kept
  exact of_decide_eq_true kept

theorem State.closeStale_keeps {q : Part} {x : Window} (h : x ∈ q.windows) (other : x.exp ≠ p.pid) : x ∈ (s.closeStale p q).windows := by
  refine List.mem_filter.2 ⟨h, ?_⟩
  rw [bne_iff_ne.2 other, Bool.true_or]

theorem State.mem_granted {q : Part} {w : Word} (hq : q ∈ (s.modPart p.pid fun _ => p.grants w).parts) :
    q = p.grants w ∨ q.pid ≠ p.pid := by
  obtain ⟨x, -, rfl⟩ := List.mem_map.1 hq
  by_cases h : x.pid = p.pid
  · exact .inl (if_pos h)
  · rw [if_neg h]
    exact .inr h

section granted

variable {w : Word} (only : ∀ q ∈ s.parts, q.pid = p.pid → q = p)
include only

/-- A write of XGRANT closes the windows onto grants that are now invalid or changed (R432). -/
theorem State.regrant_eq (late : s.onTime) (hp : s.part? p.pid = some p) :
    s.regrant p w = (s.modPart p.pid fun _ => p.grants w).mapParts ((s.modPart p.pid fun _ => p.grants w).closeStale (p.grants w)) := by
  have found := State.part?_modPart (f := fun p => p.grants w) hp fun _ => rfl
  have same := State.modPart_only (f := fun p => p.grants w) only
  rw [same] at found
  unfold State.regrant
  rw [State.landAll_onTime late]
  show (match (s.modPart p.pid fun p => p.grants w).part? p.pid with
    | none => s.modPart p.pid fun p => p.grants w
    | some q => (s.modPart p.pid fun p => p.grants w).mapParts ((s.modPart p.pid fun p => p.grants w).closeStale q)) = _
  rw [same, found]

theorem State.granted_windows {q : Part} (hq : q ∈ s.parts) :
    ∃ x ∈ (s.modPart p.pid fun _ => p.grants w).parts, x.pid = q.pid ∧ x.windows = q.windows := by
  refine ⟨_, List.mem_map_of_mem hq, ?_⟩
  by_cases h : q.pid = p.pid
  · rw [if_pos h, only q hq h]
    exact ⟨rfl, rfl⟩
  · rw [if_neg h]
    exact ⟨rfl, rfl⟩

end granted

/-- What a write of XGRANT leaves of the partitions (R432). -/
structure Granted (s t : State) (p : Part) (w : Word) : Prop where
  me : t.me = s.me
  mem : t.mem = s.mem
  owner : ∀ q ∈ t.parts, q.pid = p.pid → q.xgrant = w
  opened : ∀ q ∈ t.parts, ∀ x ∈ q.windows, x.exp = p.pid →
    (s.modPart p.pid fun _ => p.grants w).grant (p.grants w) x.grant = some (some x.grantData)
  others : ∀ q ∈ s.parts, ∀ x ∈ q.windows, x.exp ≠ p.pid → ∃ q' ∈ t.parts, q'.pid = q.pid ∧ x ∈ q'.windows

theorem State.regrant_granted {w : Word} (only : ∀ q ∈ s.parts, q.pid = p.pid → q = p) (late : s.onTime) (hp : s.part? p.pid = some p) :
    Granted s (s.regrant p w) p w := by
  rw [State.regrant_eq only late hp]
  refine ⟨rfl, rfl, fun q hq mine => ?_, fun q hq x hx mine => ?_, fun q hq x hx other => ?_⟩
  · obtain ⟨y, hy, rfl⟩ := List.mem_map.1 hq
    rcases State.mem_granted hy with rfl | no
    · rfl
    · exact absurd mine no
  · obtain ⟨y, -, rfl⟩ := List.mem_map.1 hq
    exact State.mem_closeStale hx mine
  · obtain ⟨y, hy, pid, windows⟩ := State.granted_windows (w := w) only hq
    exact ⟨_, List.mem_map_of_mem hy, pid, State.closeStale_keeps (windows ▸ hx) other⟩

end writes

end Sys2Proof.Machine

/-! The register writes with rows of their own as instructions (R136, R154, R168, R175, R180, R181, R432, R440, R460). -/

namespace Sys2Proof.Machine

theorem regLevels_det (cnt : Bool) : regLevels (if cnt then 0x111 else 0x110) = some (.sup, .sup) ∧
    hypReg (if cnt then 0x111 else 0x110) = false := by cases cnt <;> exact ⟨rfl, rfl⟩

section rows

variable {s : State} {p : Part} (hl : 1 ≤ s.me.pl.num) (hp : s.myPart? = some p)
include hl hp

/-! ### Backing areas and the queue drop -/

theorem exec_vbackWrite_unmapped {a : Nat} (hv : s.ev.v.getLsbD 0 = true)
    (h : s.unmapped p (s.ev.v.toNat / 2 ^ 17 % 2 ^ 31 * 2 ^ 17) 131072 = some a) :
    exec .vbackWrite s = .next (s.takeTrap ⟨7, wd a, .sup⟩ false false) :=
  ctlWrite_trap (f := putVback) hl hp rfl rfl
    (putVback_unmapped (vback_fields hv) (vback_bit _) (by rw [vback_area, Nat.shiftLeft_eq]) hp h)

theorem exec_vbackWrite_mapped (hv : s.ev.v.getLsbD 0 = true)
    (h : s.unmapped p (s.ev.v.toNat / 2 ^ 17 % 2 ^ 31 * 2 ^ 17) 131072 = none) (h0 : s.me.vback.getLsbD 0 = false)
    (hq : s.me.vheld = true ∨ s.me.vq = []) (ht : s.me.tiles = []) : exec .vbackWrite s = .next (State.skip { s with me := {
      (if s.me.vback.toNat / 2 ^ 17 % 2 ^ 31 * 2 ^ 17 = s.ev.v.toNat / 2 ^ 17 % 2 ^ 31 * 2 ^ 17 then s.me else s.me.dropResident) with
      vback := wd (1 + s.ev.v.toNat / 2 ^ 17 % 2 ^ 31 * 2 ^ 17) } } 4) := by
  have changed : (wd (1 + s.ev.v.toNat / 2 ^ 17 % 2 ^ 31 * 2 ^ 17) != s.me.vback) = true := bne_iff_ne.2 fun same => by
    have set := vback_bit (s.ev.v.toNat / 2 ^ 17)
    rw [same] at set
    exact absurd (h0.symm.trans set) nofun
  have taken := putVback_mapped (vback_fields hv) (vback_bit _) (by rw [vback_area, Nat.shiftLeft_eq]) hp h changed hq ht
  rw [State.withVback_fresh h0] at taken
  exact ctlWrite_ok (f := putVback) hl hp rfl rfl taken

theorem exec_vqctlDrop {s1 : State} (h : (putVqctl (s.ev.v ||| 1)).run s = .ok () s1) : exec .vqctlDrop s = .next (s1.skip 4) :=
  ctlWrite_ok (f := fun v => putVqctl (v ||| 1)) hl hp rfl rfl h

theorem exec_detBackingWrite {s1 : State} (h : (putDet p s.ev.flag s.ev.v).run s = .ok () s1) :
    exec .detBackingWrite s = .next (s1.skip 4) :=
  ctlWrite_ok (f := fun v => onPart fun p => putDet p s.ev.flag v) hl hp (regLevels_det _).1 (regLevels_det _).2 ((run_onPart hp).trans h)

theorem exec_detBackingWrite_trap {t : Trap} (h : (putDet p s.ev.flag s.ev.v).run s = .error (.trap t false) s) :
    exec .detBackingWrite s = .next (s.takeTrap t false false) :=
  ctlWrite_trap (f := fun v => onPart fun p => putDet p s.ev.flag v) hl hp (regLevels_det _).1 (regLevels_det _).2 ((run_onPart hp).trans h)

/-! ### Launch queues -/

theorem exec_lqbaseWrite {s1 : State} (h : (setTable s p s.ev.v 4096).run s = .ok () s1) : exec .lqbaseWrite s = .next (s1.skip 4) :=
  ctlWrite_ok (f := fun v => onPart fun p => putLqbase p v) hl hp rfl rfl ((run_onPart hp).trans (putLqbase_run.trans h))

theorem exec_lqbaseWrite_trap {t : Trap} (h : (setTable s p s.ev.v 4096).run s = .error (.trap t false) s) :
    exec .lqbaseWrite s = .next (s.takeTrap t false false) :=
  ctlWrite_trap (f := fun v => onPart fun p => putLqbase p v) hl hp rfl rfl ((run_onPart hp).trans (putLqbase_run.trans h))

theorem exec_lqdoor : exec .lqdoor s = .next ((s.doorbell p.pid (s.ev.v.toNat % 64)).skip 4) :=
  ctlWrite_ok (f := fun v => onPart fun p => putLqdoor p v) hl hp rfl rfl ((run_onPart hp).trans putLqdoor_run)

/-! ### The report, grants and the host's interrupt -/

variable (hq : s.me.vq = [])
include hq

theorem exec_attest_unmapped {a : Nat} (h : s.unmapped p (s.ev.v.toNat / 2 ^ 6 % 2 ^ 42 * 2 ^ 6) 1024 = some a) :
    exec .attest s = .next (s.takeTrap ⟨7, wd a, .sup⟩ false false) := by
  rw [← bits_shifted, ← State.settleAll_unmapped] at h
  refine ctlWrite_trap (s1 := s.settleAll) (f := fun v => onPart fun p => putAttest p v) hl hp rfl rfl ?_
  rw [run_onPart hp, putAttest_eq, run_bind, fenceAll_run hq]
  exact signReport_unmapped h

theorem exec_attest_written {buf : Nat} {nonce : List Byte} (hb : s.ev.v.toNat / 2 ^ 6 % 2 ^ 42 * 2 ^ 6 = buf)
    (h : s.unmapped p buf 1024 = none) (hn : s.ipaBytes p (buf + 24) 64 = some nonce) :
    exec .attest s = .next (State.skip ((s.settleAll.putIpa p buf (s.report p nonce ++
      idSign (sha512 (s.report p nonce)) (Config.free s.tick s.draw) ++ List.replicate 228 0)).1.atDraw (s.draw + 1)) 4) := by
  rw [← bits_shifted] at hb
  rw [← State.settleAll_unmapped] at h
  rw [← (State.settleAll_sameRcbs s p).read] at hn
  refine ctlWrite_ok (f := fun v => onPart fun p => putAttest p v) hl hp rfl rfl ?_
  rw [run_onPart hp, putAttest_eq, run_bind, fenceAll_run hq, hb, ← State.settleAll_report]
  exact signReport_written h hn

theorem exec_xgrant : exec .xgrant s =
    .next ((s.settleAll.regrant p (wd (s.ev.v.toNat % 2 + s.ev.v.toNat / 2 ^ 6 % 2 ^ 42 * 2 ^ 6))).skip 4) := by
  rw [← bits_shifted, ← pow_one 2, ← bits_zero]
  exact ctlWrite_ok (f := fun v => onPart fun p => putXgrant p v) hl hp rfl rfl ((run_onPart hp).trans (putXgrant_run hq))

theorem exec_vfirq : exec .vfirq s = .next (State.skip { s.settleAll with outs := s.outs ++
    (if Config.irqEnabled p.pid (s.ev.v.toNat % 32) then [Out.irq p.pid (s.ev.v.toNat % 32)] else []) } 4) :=
  ctlWrite_ok (f := fun v => onPart fun p => putVfirq p v) hl hp rfl rfl ((run_onPart hp).trans (putVfirq_run hq))

end rows

end Sys2Proof.Machine

/-! The register writes with rows of their own together (R136, R154, R168, R175, R180, R181, R432, R440, R460). -/

namespace Sys2Proof.Machine

section rows

variable {s : State} {p : Part} (hl : 1 ≤ s.me.pl.num) (hp : s.myPart? = some p)
include hl hp

/-- LQBASE is taken when V is clear or its table is mapped; every queue is closed (R180). -/
theorem lqbase_taken (h : s.ev.v.getLsbD 0 = false ∨ s.unmapped p (s.ev.v.toNat / 2 ^ 12 % 2 ^ 36 * 2 ^ 12) 4096 = none) :
    ∃ t, exec .lqbaseWrite s = .next t ∧ t.part? p.pid = some { p with
      lqbase := wd (s.ev.v.toNat % 2 + s.ev.v.toNat / 2 ^ 12 % 2 ^ 36 * 2 ^ 12), queues := p.queues.map fun q => { q with isOpen := false } } ∧
      t.mem = s.mem ∧ t.me = { s.me with pc := s.me.pc + 4 } := by
  rw [← bits_shifted, ← pow_one 2, ← bits_zero] at *
  exact changes_part (f := fun p => { p with
      lqbase := wd (bits s.ev.v.toNat 0 1 + bits s.ev.v.toNat 12 36 <<< 12), queues := p.queues.map fun q => { q with isOpen := false } })
    hp (fun _ => rfl) (exec_lqbaseWrite hl hp (setTable_mapped hp h))

theorem lqbase_unmapped {a : Nat} (hv : s.ev.v.getLsbD 0 = true)
    (h : s.unmapped p (s.ev.v.toNat / 2 ^ 12 % 2 ^ 36 * 2 ^ 12) 4096 = some a) :
    exec .lqbaseWrite s = .next (s.takeTrap ⟨7, wd a, .sup⟩ false false) := by
  rw [← bits_shifted] at h
  exact exec_lqbaseWrite_trap hl hp (setTable_unmapped hv h)

/-- A doorbell of a queue whose descriptor is read (R180, R181). -/
theorem lqdoor_read {l : List Byte} (on : p.lqbase.getLsbD 0 = true) (hq : s.ev.v.toNat % 64 < p.queues.length)
    (h : s.ipaBytes p (p.descIpa (s.ev.v.toNat % 64)) 40 = some l) : ∃ t, exec .lqdoor s = .next (t.skip 4) ∧
      Doorbell s t p (s.ev.v.toNat % 64) l := by
  obtain ⟨-, found⟩ := State.myPart?_some hp
  refine ⟨_, exec_lqdoor hl hp, ?_⟩
  rw [State.doorbell_on found on (Nat.mod_lt _ (by decide))]
  exact State.refresh_read found hq h

end rows

/-- Settles O42: each write passes the checks of `putc`, and has the effect that its own lemma states. -/
theorem registerWrites : Obligations.RegisterWrites := by
  unfold Obligations.RegisterWrites
  intro s p hl hp v n only fault
  obtain ⟨-, found⟩ := State.myPart?_some hp
  refine ⟨fun hv => ⟨fun a h => exec_vbackWrite_unmapped hl hp hv h, fun h h0 hq ht => exec_vbackWrite_mapped hl hp hv h h0 hq ht⟩,
    fun e rest hh hq => exec_vqctlDrop hl hp (putVqctl_drop hh hq), fun hh => exec_vqctlDrop hl hp (putVqctl_not_held hh),
    fun h => exec_detBackingWrite hl hp (putDet_used h), fun h => ⟨fun flag => ?_, fun flag hm => ?_, fun flag a hm => ?_⟩,
    ⟨fun h => lqbase_taken hl hp h, fun hv a h => lqbase_unmapped hl hp hv h⟩, fun l on hq h => ?_, fun off => ?_,
    fun hq => ⟨fun hv => ⟨fun op r hr => ?_, fun op => ?_⟩, ⟨fun a h => exec_attest_unmapped hl hp hq h, fun nonce h hn => ?_⟩,
      fun only' late => ?_, exec_vfirq hl hp hq⟩⟩
  · have base := putDet_base (v := s.ev.v) hp h
    rw [← flag] at base
    exact changes_part (f := fun p => { p with detbase := wd (s.ev.v.toNat / 2 ^ 16 % 2 ^ 32 * 2 ^ 16) }) hp (fun _ => rfl)
      (exec_detBackingWrite hl hp base)
  · have count := putDet_count (v := s.ev.v) hp h hm
    rw [← flag] at count
    exact changes_part (f := fun p => { p with detcnt := wd (s.ev.v.toNat % 2 ^ 24) }) hp (fun _ => rfl) (exec_detBackingWrite hl hp count)
  · have unmapped := putDet_unmapped (v := s.ev.v) h hm
    rw [← flag] at unmapped
    exact exec_detBackingWrite_trap hl hp unmapped
  · obtain ⟨t, run, me, ⟨p', there, read⟩, opened⟩ := lqdoor_read hl hp on hq h
    obtain ⟨word0, ring, failed, tail, isOpen⟩ := LQueue.reread_fields (p.queue (n % 64)) l
    refine ⟨_, p', run, congrArg (fun t : Strand => { t with pc := t.pc + 4 }) me, there, ?_⟩
    rw [read]
    refine ⟨word0, ring, failed, tail, isOpen, fun en was => ?_, fun was => LQueue.reread_open was⟩
    obtain ⟨head, replay, restore⟩ := LQueue.reread_opens en was
    exact ⟨head, replay, restore, opened en was⟩
  · rw [exec_lqdoor hl hp, State.doorbell_off found off]
  · exact exec_reloadRcb hl hp hq (bits_shifted ..) hv ((bits_zero ..).trans op) hr
  · obtain ⟨t, q, run, dead⟩ := exec_killRcb hl hp hq (bits_shifted ..) hv ((bits_zero ..).trans op)
    exact ⟨t, q, run, dead.part, dead.strands, dead.calls, dead.marked, dead.found, dead.asked⟩
  · exact exec_attest_written hl hp hq rfl h hn
  · have granted := State.regrant_granted (s := s.settleAll) (w := wd (n % 2 + n / 2 ^ 6 % 2 ^ 42 * 2 ^ 6)) only' late found
    exact ⟨_, exec_xgrant hl hp hq, congrArg (fun t : Strand => { t with pc := t.pc + 4 }) granted.me, granted.mem, granted.owner,
      granted.opened, granted.others⟩

end Sys2Proof.Machine
